-- ==== Sys2Proof/Word.lean ====
section
/-! DEFINITION. The byte, the two machines, and a pair of values indexed by machine. -/

namespace Sys2Proof

/-- One character of a link, one byte of a payload or of the store. -/
abbrev Byte := BitVec 8

/-- The two machines of the tower (00 §4): W the washer, D the dryer. -/
inductive Side where
  | w
  | d
  deriving DecidableEq, Repr

/-- The other machine. -/
def Side.other : Side → Side
  | .w => .d
  | .d => .w

/-- A value kept once for each machine or link. -/
structure PerSide (α : Type) where
  w : α
  d : α
  deriving DecidableEq, Repr

namespace PerSide

variable {α : Type}

/-- The value kept for machine `m`. -/
def get (p : PerSide α) : Side → α
  | .w => p.w
  | .d => p.d

/-- Replace the value kept for machine `m`. -/
def set (p : PerSide α) (m : Side) (a : α) : PerSide α :=
  match m with
  | .w => { p with w := a }
  | .d => { p with d := a }

/-- Apply `f` to the value kept for machine `m`. -/
def modify (p : PerSide α) (m : Side) (f : α → α) : PerSide α :=
  p.set m (f (p.get m))

/-- Apply `f` to both values. -/
def mapBoth (p : PerSide α) (f : α → α) : PerSide α :=
  { w := f p.w, d := f p.d }

/-- The same value for both machines. -/
def both (a : α) : PerSide α := { w := a, d := a }

end PerSide

end Sys2Proof
end

