-- ==== Sys2Proof/Syntax.lean ====
section
/-! DEFINITION. The commands of the block: one constructor per row of spec/opcode_table.json. -/

namespace Sys2Proof

/-- The knob push and the six keys (11 R172). -/
inductive Key where
  | push
  | start
  | options
  | back
  | swap
  | volume
  | assist
  deriving DecidableEq, Repr

/-- The nine classes of panel events (11 R176), in the order of their codes (01 §1.9). -/
inductive InputClass where
  | knob
  | push
  | start
  | options
  | back
  | swap
  | volume
  | assist
  | proximity
  deriving DecidableEq, Repr

/-- Names a cue to the part's own timers: a slot of the cue table, or the current position of one of the two panel
entries (03 R36, R53). As the owner of a reservation, `narration` names the pending narration cue (04 R69). -/
inductive CueRef where
  | slot (i : Fin 24)
  | narration
  | feedback
  deriving DecidableEq, Repr

/-- What the external flash returns while the part reads it (05 §5.2): the listed bytes, and `fill` everywhere else
(a blank or absent flash returns one value for every read, 05 R92). Log 4. -/
structure Flash where
  fill : Byte
  cells : List (Nat × Byte)
  deriving DecidableEq, Repr

/-- The commands. Log 1 says what the operands stand for. -/
inductive Instr where
  /-- POWER_RESET; `stillLow`: the reset input is still low when the step ends (log 16). -/
  | powerReset (stillLow : Bool)
  | characterReceived (m : Side) (c : Byte)
  | stopBitLow (m : Side)
  | linkGapTimerExpiry (m : Side)
  | dispatch (m : Side)
  /-- FRAME_SENT; `dispatchFirst`: the dispatch that the emptied reply slot lets happen at the same moment is taken before the
  transmitter chooses (01 §1.7, log 23). -/
  | frameSent (m : Side) (dispatchFirst : Bool)
  | attach (m : Side) (note : Bool) (payload : List Byte)
  | status (m : Side) (note : Bool) (payload : List Byte)
  | context (m : Side) (note : Bool) (payload : List Byte)
  | programs (m : Side) (note : Bool) (payload : List Byte)
  | bandText (m : Side) (note : Bool) (payload : List Byte)
  | profile (m : Side) (note : Bool) (payload : List Byte)
  | focusClaim (m : Side) (note : Bool) (payload : List Byte)
  | cuePost (m : Side) (note : Bool) (payload : List Byte)
  | cueCancel (m : Side) (note : Bool) (payload : List Byte)
  | cueQuery (m : Side) (note : Bool) (payload : List Byte)
  | fence (m : Side) (note : Bool) (payload : List Byte)
  | toneDefine (m : Side) (note : Bool) (payload : List Byte)
  | sceneWrite (m : Side) (note : Bool) (payload : List Byte)
  | sceneFromStore (m : Side) (note : Bool) (payload : List Byte)
  | lampSet (m : Side) (note : Bool) (payload : List Byte)
  | inputMask (m : Side) (note : Bool) (payload : List Byte)
  | inputForce (m : Side) (note : Bool) (payload : List Byte)
  | inputFilter (m : Side) (note : Bool) (payload : List Byte)
  | storeCheck (m : Side) (note : Bool) (payload : List Byte)
  | speakerSetup (m : Side) (note : Bool) (payload : List Byte)
  | speakerReset (m : Side) (note : Bool) (payload : List Byte)
  | deadlinePasses (i : Fin 24)
  | holdTimerExpiry (r : CueRef)
  | cueGapEnd (i : Fin 24)
  | fadeTimerExpiry (r : CueRef)
  | checkBegin
  /-- CHECK_END; `flash` is what the store returned to the check's reads. -/
  | checkEnd (flash : Flash)
  /-- STORE_BURST_END; `flash` is what the store returned to the burst. -/
  | storeBurstEnd (flash : Flash)
  | outputSampleEvent
  | stepEnd (v : Fin 4)
  | duckTick
  | carrierPeriod
  /-- OVER_CURRENT_TRIP; the level the over-current sense input takes (log 17). -/
  | overCurrentTrip (active : Bool)
  | retryTimerExpiry
  | updateEvent
  | displayTransferEnd
  | pwmPeriod
  | backlightIdleExpiry
  /-- INPUT_SAMPLE; the ten sampled levels in the order of the present state (bit 0 encoder A ... bit 9 proximity),
  and the order in which events of one sample are taken (log 5). -/
  | inputSample (levels : BitVec 10) (order : List InputClass)
  | longPressExpiry (k : Key)
  deriving DecidableEq, Repr

end Sys2Proof
end

