-- ==== Sys2Proof/Machine/Types.lean ====
section
/-! DEFINITION. The pieces of state of each block, as plain data. -/

namespace Sys2Proof.Machine

/-! ### Link Interface (chapter 1) -/

/-- The 21 request kinds (01 §1.9). -/
inductive RequestKind where
  | attach
  | status
  | context
  | programs
  | bandText
  | profile
  | focusClaim
  | cuePost
  | cueCancel
  | cueQuery
  | fence
  | toneDefine
  | sceneWrite
  | sceneFromStore
  | lampSet
  | inputMask
  | inputForce
  | inputFilter
  | storeCheck
  | speakerSetup
  | speakerReset
  deriving DecidableEq, Repr

/-- The refusal reasons (01 §1.9). -/
inductive Reason where
  | format
  | unknownKind
  | badCheck
  | notReady
  | notAttached
  | idInUse
  | quota
  | tableFull
  | emptyCue
  | noSuchCue
  | badSlot
  | badPattern
  | patternLocked
  | patternBusy
  | fenceLimit
  | focusBusy
  | noFocus
  | storeFailed
  | badImage
  deriving DecidableEq, Repr

/-- The receive assembler's states (R1): LENGTH waits for LEN; BODY holds LEN and the characters stored so far, oldest
first (KIND, the payload, then CHECK). -/
inductive Assembler where
  | search
  | length
  | body (len : Nat) (got : List Byte)
  | discard
  deriving DecidableEq, Repr

/-- An entry of the request queue (R4). `code` is the kind code, 7 bits. -/
inductive QueueEntry where
  | request (code : BitVec 7) (note : Bool) (payload : List Byte)
  | badCheck
  deriving DecidableEq, Repr

/-- The two deferred requests (R9). -/
inductive DeferredKind where
  | sceneFromStore
  | storeCheck
  deriving DecidableEq, Repr

/-- The request in service (R6, R9). -/
structure InService where
  kind : DeferredKind
  note : Bool
  deriving DecidableEq, Repr

/-- What a reply says (R10): DONE with its result bytes, or REFUSED with its reason. -/
inductive ReplyBody where
  | done (result : List Byte)
  | refused (reason : Reason)
  deriving DecidableEq, Repr

/-- A formed reply (R10): the echoed kind code, the body, and the condition byte when the note flag asked for it. -/
structure Reply where
  echo : BitVec 7
  body : ReplyBody
  condition : Option Byte
  deriving DecidableEq, Repr

/-- The four outcomes of a cue (03 §3.8). -/
inductive CueOutcome where
  | completed
  | cancelled
  | expired
  | displaced
  deriving DecidableEq, Repr

/-- The flags of a cue (R37). -/
structure CueFlags where
  isPartial : Bool
  silent : Bool
  stalled : Bool
  deriving DecidableEq, Repr

/-- A CUE_DONE report (R12), with its place in the report order and the serial of its cue (log 8). -/
structure DoneReport where
  order : Nat
  uid : Nat
  id : Nat
  outcome : CueOutcome
  flags : CueFlags
  preempts : Nat
  deriving DecidableEq, Repr

/-- PRESS, LONG and RELEASE (01 §1.9). -/
inductive KeyAction where
  | press
  | long
  | release
  deriving DecidableEq, Repr

/-- What an INPUT report says (01 §1.9). -/
inductive InputContent where
  | knob (steps : Int) (index : Nat) (atEnd : Bool)
  | key (k : Key) (a : KeyAction)
  | proximity
  deriving DecidableEq, Repr

/-- An INPUT report with its place in the report order (R13). -/
structure InputReport where
  order : Nat
  content : InputContent
  deriving DecidableEq, Repr

/-- A frame being sent, with the content it read when it began (R14, R15). -/
inductive TxFrame where
  | reply (r : Reply)
  | done (r : DoneReport)
  | input (r : InputReport)
  | focus (holder : Option Side)
  | profile (language volume mutedFrom : Nat) (assist : Bool)
  | fault (store speaker : Bool) (trips : Nat)
  deriving DecidableEq, Repr

/-- The transmitter (R15). -/
inductive Transmitter where
  | idle
  | sending (f : TxFrame)
  deriving DecidableEq, Repr

/-- The cause set of a link (R16). -/
structure Causes where
  framing : Bool
  overrun : Bool
  reportDrop : Bool
  store : Bool
  speaker : Bool
  deriving DecidableEq, Repr

/-- What one Link Interface holds (01, opening). `profileEvent` and `profileShown` are the model's own (log 25): the moment of the
latest panel event that set the PROFILE mark, and the moment of the latest such event the last PROFILE frame begun reports. -/
structure Link where
  asm : Assembler
  gapTimer : Option Nat
  queue : List QueueEntry
  inService : Option InService
  reply : Option Reply
  done : List DoneReport
  inputs : List InputReport
  nextOrder : Nat
  focusMark : Option Nat
  profileMark : Option Nat
  profileEvent : Option Nat
  profileShown : Option Nat
  faultMark : Option Nat
  pendingStore : Bool
  pendingSpeaker : Bool
  tx : Transmitter
  fault : Bool
  causes : Causes
  deriving DecidableEq, Repr

/-! ### Context Unit (chapter 2) -/

/-- The part state (R21). -/
inductive PartState where
  | starting
  | ready
  deriving DecidableEq, Repr

/-- The phase a machine reports of itself (R22), in the order of the codes. -/
inductive MachinePhase where
  | idle
  | fill
  | wash
  | rinse
  | spin
  | dry
  | cool
  | done
  | fault
  deriving DecidableEq, Repr

/-- A machine context (R22). The program count is the length of `programs`. -/
structure Context where
  attached : Bool
  phase : MachinePhase
  remaining : Nat
  speed : Nat
  temperature : Int
  programs : List Nat
  index : Nat
  wrap : Bool
  bandText : List Byte
  bandBlink : Bool
  bandHold : Bool
  idleScene : Option (Fin 8)
  language : Nat
  volume : Nat
  mutedFrom : Nat
  assist : Bool
  lastInput : Option Nat
  deriving DecidableEq, Repr

/-! ### Cue Scheduler (chapters 3 and 4) -/

/-- The classes of cues (R60). -/
inductive CueClass where
  | alarm
  | echo
  | prompt
  | chime
  deriving DecidableEq, Repr

/-- Who set a cue (R37, R53). -/
inductive Origin where
  | machine (m : Side)
  | panel
  deriving DecidableEq, Repr

/-- The fields a FIELD item may name (01 §1.9). -/
inductive ContextField where
  | remaining
  | temperature
  | speed
  | program
  | phase
  deriving DecidableEq, Repr

/-- A phrase item (01 §1.9). `length` counts units of 10 ms. -/
inductive PhraseItem where
  | fragment (code : Nat)
  | number (value : Nat) (unit : Option Nat)
  | field (f : ContextField)
  | pause (length : Nat)
  deriving DecidableEq, Repr

/-- When a tone part sounds beside a speech part (R71). -/
inductive ToneTiming where
  | before
  | together
  | after
  deriving DecidableEq, Repr

/-- A tone part (R37). -/
structure TonePart where
  pattern : Fin 32
  timing : ToneTiming
  deriving DecidableEq, Repr

/-- The lamp effects (R167). -/
inductive LampEffect where
  | chase
  | pulse
  | flash
  deriving DecidableEq, Repr

/-- The six states of a cue (03 §3.4). -/
inductive CueState where
  | waiting
  | held
  | playing
  | gap
  | ending
  | reporting
  deriving DecidableEq, Repr

/-- The phases of a playing cue (R71). -/
inductive CuePhase where
  | lead
  | main
  | tail
  deriving DecidableEq, Repr

/-- Why a cue is in ENDING (R37). -/
inductive EndCause where
  | cancelled
  | preempted
  | displaced
  | purged
  deriving DecidableEq, Repr

/-- The fade record of a cue in ENDING (09 R146): the factor F and the next expiry of its timer. -/
structure FadeRecord where
  factor : Nat
  timer : Nat
  deriving DecidableEq, Repr

/-- A cue record (R37), with the playback fields of chapter 4: the place of the latest start (R66), whether the speech
part adds a need in the present play (R66, R72), the ends recorded inside MAIN (R73), the hold and gap timers and the fade
record. `uid` is a serial of the model's own (log 8). -/
structure Cue where
  uid : Nat
  id : Nat
  origin : Origin
  cls : CueClass
  group : Nat
  deadline : Option Nat
  repeats : Nat
  gapLength : Nat
  speech : Option (List PhraseItem)
  tone : Option TonePart
  scene : Option (Fin 8)
  lamp : Option LampEffect
  hold : Nat
  state : CueState
  phase : Option CuePhase
  preempts : Nat
  repeatsLeft : Nat
  flags : CueFlags
  endCause : Option EndCause
  deadlinePassed : Bool
  posting : Nat
  outcome : Option CueOutcome
  latestStart : Nat
  speechPlays : Bool
  utteranceEnded : Bool
  patternEnded : Bool
  holdTimer : Option Nat
  gapTimer : Option Nat
  fade : Option FadeRecord
  deriving DecidableEq, Repr

/-- A panel entry (R53). -/
structure PanelEntry where
  pending : Option Cue
  current : Option Cue
  deriving DecidableEq, Repr

/-- The record of a playback resource (R59). -/
structure Resource where
  holder : Option CueRef
  reservation : Option CueRef
  deriving DecidableEq, Repr

/-- What the Cue Scheduler holds. `arbDue` says that an arbitration has been set off and not yet taken (log 6). -/
structure Sched where
  table : Vector (Option Cue) 24
  narration : PanelEntry
  feedback : PanelEntry
  markers : PerSide (List Nat)
  nextPosting : PerSide Nat
  lastAlarm : Option Side
  lastPrompt : Option Side
  lastChime : Option Side
  path : Resource
  voices : Vector Resource 4
  nextUid : Nat
  nextStart : Nat
  arbDue : Bool
  deriving DecidableEq, Repr

/-! ### Utterance Assembler, Store Interface and Speech Stream (chapters 5 to 7) -/

/-- A fragment entry of a directory, as the catalog holds it (01 §1.9; the scale not yet limited). -/
structure FragEntry where
  start : Nat
  count : Nat
  scale : Nat
  silence : Nat
  deriving DecidableEq, Repr

/-- An entry of the utterance list (R99). -/
inductive UttEntry where
  | fragment (e : FragEntry)
  | silence (ms : Nat)
  deriving DecidableEq, Repr

/-- The utterance list and its owner (R99). -/
structure Utterance where
  entries : List UttEntry
  owner : Option CueRef
  deriving DecidableEq, Repr

/-- OK or FAILED (R83). -/
inductive StoreState where
  | ok
  | failed
  deriving DecidableEq, Repr

/-- IDLE, PENDING or RUNNING (R83). -/
inductive CheckState where
  | idle
  | pending
  | running
  deriving DecidableEq, Repr

/-- One language of the catalog (R83, R85). -/
structure Language where
  wordOrder : Bool
  join : Bool
  entries : List FragEntry
  deriving DecidableEq, Repr

/-- The content of the catalog (R83): the store size in bytes, the languages below the count, the image start addresses.
The language count and the image count are the lengths. -/
structure Catalog where
  sizeBytes : Nat
  languages : List Language
  images : List Nat
  deriving DecidableEq, Repr

/-- The port user (R116). -/
inductive PortUser where
  | idle
  | s
  | g
  | check
  deriving DecidableEq, Repr

/-- Channel S (R118). -/
structure ChannelS where
  active : Bool
  index : Nat
  address : Nat
  count : Nat
  deriving DecidableEq, Repr

/-- A transfer of channel G (R121). -/
structure Transfer where
  link : Side
  slot : Fin 16
  start : Nat
  bytesDone : Nat
  deriving DecidableEq, Repr

/-- What the Store Interface holds (R83, R116, R118, R121). `races` counts the model's free choices of R91, and `grantedFirst` says
that channel G was granted first against the pending check, which then begins when that burst ends (R91, log 7). `askedAt` is the
moment at which a STORE_CHECK found the check state IDLE, while the check it made pending lasts: the other link's STORE_CHECK of the
same moment is answered by that check (R90, log 27). -/
structure Store where
  state : StoreState
  catalog : Option Catalog
  check : CheckState
  currentWaiters : PerSide Bool
  nextWaiters : PerSide Bool
  port : PortUser
  chanS : ChannelS
  chanG : List Transfer
  races : Nat
  grantedFirst : Bool
  askedAt : Option Nat
  deriving DecidableEq, Repr

/-- The Speech Stream's states (R124). -/
inductive StreamState where
  | idle
  | priming
  | playing
  deriving DecidableEq, Repr

/-- The section of the entry being output (R124). -/
inductive Section where
  | samples
  | trailing
  | silence
  deriving DecidableEq, Repr

/-- The half of a sample (R124). -/
inductive Half where
  | consume
  | blend
  deriving DecidableEq, Repr

/-- The Speech Stream and its sample ring, oldest byte first (R123, R124). -/
structure Stream where
  ring : List Byte
  state : StreamState
  threshold : Nat
  index : Nat
  part : Section
  bytesLeft : Nat
  scale : Nat
  half : Half
  eventsLeft : Nat
  lastOutput : Int
  stalled : Bool
  deriving DecidableEq, Repr

/-! ### Tone Unit (chapter 8) -/

/-- A step of a pattern (R130): `period` and `duty` in counts of the tone clock, `duration` in units of 10 ms. -/
structure ToneStep where
  period : Nat
  duty : Nat
  duration : Nat
  level : Nat
  halfRate : Bool
  inverse : Bool
  deriving DecidableEq, Repr

/-- The content of a defined entry of the pattern table (R130). -/
structure Pattern where
  loops : Nat
  steps : List ToneStep
  deriving DecidableEq, Repr

/-- A voice (R135). `pattern` and `copy` are none while the voice is IDLE. -/
structure Voice where
  playing : Bool
  pattern : Option (Fin 32)
  copy : Option Pattern
  stepIndex : Nat
  loopIndex : Nat
  countsLeft : Nat
  phase : Nat
  deriving DecidableEq, Repr

/-- The Tone Unit (R129, R135). -/
structure Tone where
  patterns : Vector (Option Pattern) 32
  voices : Vector Voice 4
  deriving DecidableEq, Repr

/-! ### Mixer and Speaker Stage (chapter 9) -/

/-- The stage states (R152). -/
inductive StageState where
  | disabled
  | driving
  | tripped
  | locked
  deriving DecidableEq, Repr

/-- How the gate lines are driven in the present carrier period (R150, R151). -/
structure GateDrive where
  duty : Nat
  deadTime : Nat
  deriving DecidableEq, Repr

/-- The Mixer and Speaker Stage. `gates` none: all four gate lines are off. The fade records stand in the cues. -/
structure Mixer where
  duck : Vector Nat 4
  mixed : Int
  stage : StageState
  enable : Bool
  deadTime : Nat
  trips : Nat
  retryTimer : Option Nat
  sense : Bool
  duty : Nat
  gates : Option GateDrive
  deriving DecidableEq, Repr

/-! ### Display Unit (chapter 10) -/

/-- A 128 × 16 dot picture, row by row, the leftmost dot in the most significant bit. -/
abbrev Picture := Vector (BitVec 128) 16

/-- A band of 128 × 8 dots. -/
abbrev Band := Vector (BitVec 128) 8

/-- A scene slot (R157): shown copy, staged copy, and which of the four chunks are marked. -/
structure SceneSlot where
  shown : Picture
  staged : Picture
  marks : Vector Bool 4
  deriving DecidableEq, Repr

/-- The ring levels of a machine (R157). -/
structure RingLevels where
  bright : Nat
  background : Nat
  deriving DecidableEq, Repr

/-- The ring effect (R157): the ring cue's slot and the moment its effect began. -/
structure RingEffect where
  cue : Fin 24
  start : Nat
  deriving DecidableEq, Repr

/-- FULL or DIMMED (R157). -/
inductive Backlight where
  | full
  | dimmed
  deriving DecidableEq, Repr

/-- IDLE or SENDING (R157). -/
inductive TransferState where
  | idle
  | sending
  deriving DecidableEq, Repr

/-- The brightness of the sixteen lamp outputs (R165). -/
structure Lamps where
  ring : Vector Nat 12
  focus : PerSide Nat
  backlight : Nat
  general : Nat
  deriving DecidableEq, Repr

/-- What the Display Unit holds (R157), with the frame last composed (R158) and the lamp outputs of the present PWM
period (R165). -/
structure Display where
  slots : Vector SceneSlot 16
  frozen : PerSide (Option Band)
  transfer : TransferState
  frame : Vector (BitVec 128) 32
  ringLevels : PerSide RingLevels
  backlightLevel : Nat
  generalLevel : Nat
  ringEffect : Option RingEffect
  backlight : Backlight
  idleTimer : Option Nat
  lamps : Lamps
  deriving DecidableEq, Repr

/-! ### Input Unit (chapter 11) -/

/-- The filter of a panel line (R170). -/
structure LineFilter where
  level : Bool
  run : Nat
  deriving DecidableEq, Repr

/-- What the Input Unit holds. The lines are numbered as in the present state (01 §1.9); the long-press timers are numbered
as the keys are listed in `Key`; class sets have bit k for class k. -/
structure Panel where
  sampled : Bool
  lines : Vector LineFilter 10
  keyN : Nat
  encoderN : Nat
  edgesPerDetent : Nat
  refA : Bool
  refB : Bool
  edgeCount : Int
  longTimers : Vector (Option Nat) 7
  summary : PerSide (BitVec 9)
  mask : PerSide (BitVec 9)
  deriving DecidableEq, Repr

end Sys2Proof.Machine
end

