-- ==== Sys2Proof/Machine/Bytes.lean ====
section
/-! DEFINITION. Byte order, signed bytes and dot rows (01 §1.9). -/

namespace Sys2Proof.Machine

/-- Two bytes, most significant first. -/
def be16 (hi lo : Byte) : Nat := hi.toNat * 256 + lo.toNat

/-- Three bytes, most significant first. -/
def be24 (hi mid lo : Byte) : Nat := hi.toNat * 65536 + mid.toNat * 256 + lo.toNat

/-- A byte as a two's complement number. -/
def signedByte (b : Byte) : Int := b.toInt

/-- The byte that carries a small number. -/
def byteOf (n : Nat) : Byte := BitVec.ofNat 8 n

/-- The byte that carries a signed number in two's complement. -/
def byteOfInt (n : Int) : Byte := BitVec.ofInt 8 n

/-- A 16-bit set as two bytes, most significant first. -/
def bytesOf16 (n : Nat) : List Byte := [byteOf (n / 256), byteOf n]

/-- One bit of a byte, at place `k`. -/
def bitAt (k : Nat) (b : Bool) : Nat := if b then 2 ^ k else 0

/-- Sixteen bytes as one row of 128 dots, the leftmost dot in bit 7 of the first byte (01 §1.9). -/
def rowOfBytes (bs : List Byte) : BitVec 128 :=
  bs.foldl (fun acc b => (acc <<< 8) ||| b.setWidth 128) 0

/-- Row `r` of a run of dot bytes, 16 bytes a row. -/
def rowAt (bytes : List Byte) (r : Nat) : BitVec 128 := rowOfBytes ((bytes.drop (16 * r)).take 16)

/-- One row of 128 dots as the sixteen bytes that carry it, the leftmost dot in bit 7 of the first byte (01 §1.9). -/
def bytesOfRow (row : BitVec 128) : List Byte := (List.range 16).map fun k => row.extractLsb' (120 - 8 * k) 8

/-- Write `count` rows, taken from `bytes`, from row `first` on (R122, R161). -/
def Picture.writeRows (p : Picture) (first count : Nat) (bytes : List Byte) : Picture :=
  Vector.ofFn fun r => if first ≤ r.val ∧ r.val < first + count then rowAt bytes (r.val - first) else p[r]

/-- Saturated to a range (00 §4). -/
def saturate (lo hi x : Int) : Int := max lo (min hi x)

/-- Clamped to a range (00 §4). -/
def clamp (lo hi x : Nat) : Nat := max lo (min hi x)

end Sys2Proof.Machine
end

