-- ==== Sys2Proof/Config.lean ====
section
/-! DEFINITION. What the part fixes: its times and its levels; and the two free values, the built-in font and a race of the store port. -/

namespace Sys2Proof.Config

/-- A glyph of the built-in font: that of a character code, or the box (10 R159). -/
inductive Glyph where
  | code (c : Byte)
  | box
  deriving DecidableEq, Repr

/-- FREE VALUE (10 R159: the dot patterns "are not given in this manual"): row `r`, 0 to 7, of a glyph's 6 × 8 dots,
the leftmost dot in the most significant bit. Log 14. -/
opaque glyphRow (g : Glyph) (r : Nat) : BitVec 6

/-- FREE VALUE (05 R91): at the `n`-th time since the reset that a pending check can begin at the very moment the port arbiter
would grant channel G a burst, whether the grant is taken first. Log 7. -/
opaque grantBeforeCheck (n : Nat) : Bool

/-- Microseconds in a millisecond: the part's own time counts microseconds (log 2). -/
def msec : Nat := 1000

/-- The link gap of 10 ms (01 R2). -/
def linkGap : Nat := 10 * msec
/-- The claim window of 10 s (02 R34). -/
def claimWindow : Nat := 10000 * msec
/-- The fade step of 1 ms (09 R146). -/
def fadeStep : Nat := msec
/-- The retry time of 500 ms (09 R153). -/
def retryTime : Nat := 500 * msec
/-- The long press of 1.5 s (11 R172). -/
def longPress : Nat := 1500 * msec
/-- The backlight idle time of 60 s (10 R157). -/
def backlightIdle : Nat := 60000 * msec
/-- The unit of 100 ms in which lifetimes, gaps and holds are sent (03 R37). -/
def unit100 : Nat := 100 * msec

end Sys2Proof.Config
end

