-- ==== Sys2Proof/Machine/Reset.lean ====
section
/-! DEFINITION. The value of each block after a power reset. -/

namespace Sys2Proof.Machine

/-- No cause (R16). -/
def noCauses : Causes :=
  { framing := false, overrun := false, reportDrop := false, store := false, speaker := false }

/-- A link after a power reset (R20: as R1, R5, R14, R15 and R16 give). The report order begins at 0 (log 8). -/
def resetLink : Link :=
  { asm := .search, gapTimer := none, queue := [], inService := none, reply := none, done := [], inputs := [],
    nextOrder := 0, focusMark := none, profileMark := none, profileEvent := none, profileShown := none, faultMark := none,
    pendingStore := false, pendingSpeaker := false, tx := .idle, fault := false, causes := noCauses }

/-- A context after a power reset (R22, third column). -/
def resetContext : Context :=
  { attached := false, phase := .idle, remaining := 0, speed := 0, temperature := 20, programs := [68], index := 0,
    wrap := false, bandText := [], bandBlink := false, bandHold := false, idleScene := none, language := 0, volume := 4,
    mutedFrom := 4, assist := false, lastInput := none }

/-- A resource nobody holds or has reserved (R59). -/
def freeResource : Resource := { holder := none, reservation := none }

/-- An empty panel entry (R53). -/
def emptyEntry : PanelEntry := { pending := none, current := none }

/-- The Cue Scheduler after a power reset (R36, R53, R58, R59, R63). The counters begin at 0 (log 8). -/
def resetSched : Sched :=
  { table := Vector.replicate 24 none, narration := emptyEntry, feedback := emptyEntry, markers := .both [],
    nextPosting := .both 0, lastAlarm := none, lastPrompt := none, lastChime := none, path := freeResource,
    voices := Vector.replicate 4 freeResource, nextUid := 0, nextStart := 0, arbDue := false }

/-- The released utterance list (R99). -/
def noUtterance : Utterance := { entries := [], owner := none }

/-- Channel S at rest (R118, R120). -/
def idleChannelS : ChannelS := { active := false, index := 1, address := 0, count := 0 }

/-- The Store Interface as a power reset ends: the first check is RUNNING and has the port (R83, R89, R116). No free
choice of R91 has been made (log 7). -/
def resetStore : Store :=
  { state := .failed, catalog := none, check := .running, currentWaiters := .both false, nextWaiters := .both false,
    port := .check, chanS := idleChannelS, chanG := [], races := 0, grantedFirst := false, askedAt := none }

/-- The Speech Stream at rest with an empty ring (R123, R124). -/
def idleStream : Stream :=
  { ring := [], state := .idle, threshold := 0, index := 1, part := .samples, bytesLeft := 0, scale := 0,
    half := .consume, eventsLeft := 0, lastOutput := 0, stalled := false }

/-- An IDLE voice with the values of R135. -/
def idleVoice : Voice :=
  { playing := false, pattern := none, copy := none, stepIndex := 0, loopIndex := 0, countsLeft := 0, phase := 0 }

/-- A step of a built-in pattern: half-rate and inverse are off (R131). -/
def plainStep (period duty duration level : Nat) : ToneStep :=
  { period, duty, duration, level, halfRate := false, inverse := false }

/-- CLICK (R131). -/
def patternClick : Pattern := { loops := 0, steps := [plainStep 500 250 2 6] }
/-- ACCEPT (R131). -/
def patternAccept : Pattern := { loops := 0, steps := [plainStep 1000 500 6 9, plainStep 750 375 6 9] }
/-- REJECT (R131). -/
def patternReject : Pattern := { loops := 0, steps := [plainStep 4000 1000 15 10] }
/-- ALARM (R131). -/
def patternAlarm : Pattern := { loops := 3, steps := [plainStep 400 200 25 15, plainStep 600 300 25 15] }
/-- END (R131). -/
def patternEnd : Pattern :=
  { loops := 0, steps := [plainStep 1000 500 20 11, plainStep 800 400 20 11, plainStep 667 333 20 11] }
/-- ATTENTION (R131). -/
def patternAttention : Pattern := { loops := 1, steps := [plainStep 600 300 8 12, plainStep 0 0 8 12] }
/-- WAKE (R131). -/
def patternWake : Pattern := { loops := 0, steps := [plainStep 1500 750 4 5] }
/-- TICK (R131). -/
def patternTick : Pattern := { loops := 0, steps := [plainStep 250 20 1 4] }

/-- The eight built-in patterns (R131), in the order of their entries. -/
def builtInPatterns : List Pattern :=
  [patternClick, patternAccept, patternReject, patternAlarm, patternEnd, patternAttention, patternWake, patternTick]

/-- The pattern table after a power reset (R129): 0 to 7 built in, 8 to 31 undefined. -/
def resetPatterns : Vector (Option Pattern) 32 := Vector.ofFn fun i => builtInPatterns[i.val]?

/-- The Tone Unit after a power reset (R129, R135). -/
def resetTone : Tone := { patterns := resetPatterns, voices := Vector.replicate 4 idleVoice }

/-- The Mixer and Speaker Stage after a power reset (09, opening table; R152). The duty is the rest duty (log 10), the sense
input inactive (log 17). -/
def resetMixer : Mixer :=
  { duck := Vector.replicate 4 256, mixed := 0, stage := .disabled, enable := false, deadTime := 8, trips := 0,
    retryTimer := none, sense := false, duty := 512, gates := none }

/-- A picture with all dots off. -/
def blankPicture : Picture := Vector.replicate 16 0

/-- A band with all dots off. -/
def blankBand : Band := Vector.replicate 8 0

/-- A scene slot after a power reset (R157). -/
def resetSlot : SceneSlot := { shown := blankPicture, staged := blankPicture, marks := Vector.replicate 4 false }

/-- The ring levels after a power reset and after ATTACH (R157, R163). -/
def resetRingLevels : RingLevels := { bright := 48, background := 4 }

/-- All lamps dark (log 10). -/
def darkLamps : Lamps := { ring := Vector.replicate 12 0, focus := .both 0, backlight := 0, general := 0 }

/-- The Display Unit after a power reset (R157); the frame and the lamp outputs are those of log 10. -/
def resetDisplay : Display :=
  { slots := Vector.replicate 16 resetSlot, frozen := .both none, transfer := .idle, frame := Vector.replicate 32 0,
    ringLevels := .both resetRingLevels, backlightLevel := 40, generalLevel := 0, ringEffect := none, backlight := .full,
    idleTimer := some Config.backlightIdle, lamps := darkLamps }

/-- All nine classes (R176). -/
def allClasses : BitVec 9 := 511#9

/-- The Input Unit after a power reset (11, opening table; R170, R171, R179). Until the first sample the filtered levels are
inactive (log 9). -/
def resetPanel : Panel :=
  { sampled := false, lines := Vector.replicate 10 { level := false, run := 0 }, keyN := 5, encoderN := 2,
    edgesPerDetent := 4, refA := false, refB := false, edgeCount := 0, longTimers := Vector.replicate 7 none,
    summary := .both 0, mask := .both allClasses }

end Sys2Proof.Machine
end

