-- ==== Sys2Proof/Machine/State.lean ====
section
/-! DEFINITION. The state of the part, its faults and refusals (none is reached), and the state after a power reset. -/

namespace Sys2Proof.Machine

/-- No command stops the part: the spec's faults are flags of a link (R16), kept in `Link.fault` and `Link.causes`. -/
inductive Fault where
  deriving DecidableEq, Repr

/-- Why a step has no meaning. -/
inductive Refusal where
  /-- Raised only by an arm of `exec` for a command without a meaning; no arm raises it. Safe: the model stops. -/
  | notModelled (mnemonic : String)
  deriving DecidableEq, Repr

/-- The whole part: the blocks of 00 §2, the part's own time in microseconds since the end of the last power reset, the
reset input, and the commands waiting to be taken, first in first out. -/
structure State where
  now : Nat
  resetHeld : Bool
  partState : PartState
  focus : Option Side
  ctx : PerSide Context
  links : PerSide Link
  sched : Sched
  utt : Utterance
  store : Store
  stream : Stream
  tone : Tone
  mixer : Mixer
  display : Display
  panel : Panel
  pending : List Instr
  deriving DecidableEq, Repr

/-- The part as a power reset ends (R20, R21, R22, R31, R58, R83, R89, R135, R157). -/
def State.reset : State :=
  { now := 0, resetHeld := false, partState := .starting, focus := none, ctx := .both resetContext,
    links := .both resetLink, sched := resetSched, utt := noUtterance, store := resetStore, stream := idleStream,
    tone := resetTone, mixer := resetMixer, display := resetDisplay, panel := resetPanel, pending := [] }

end Sys2Proof.Machine
end

