-- ==== Sys2Proof/Machine/Ops.lean ====
section
/-! DEFINITION. The named operations over the parts of State: one home for every read and write of a block, of a cue and of a
resource. -/

namespace Sys2Proof.Machine

/-! ### Updating one block -/

/-- Change the link of machine `m`. -/
def State.onLink (s : State) (m : Side) (f : Link → Link) : State := { s with links := s.links.modify m f }
/-- Change the context of machine `m`. -/
def State.onCtx (s : State) (m : Side) (f : Context → Context) : State := { s with ctx := s.ctx.modify m f }
/-- Change the Cue Scheduler. -/
def State.onSched (s : State) (f : Sched → Sched) : State := { s with sched := f s.sched }
/-- Change the Store Interface. -/
def State.onStore (s : State) (f : Store → Store) : State := { s with store := f s.store }
/-- Change the Speech Stream. -/
def State.onStream (s : State) (f : Stream → Stream) : State := { s with stream := f s.stream }
/-- Change the Tone Unit. -/
def State.onTone (s : State) (f : Tone → Tone) : State := { s with tone := f s.tone }
/-- Change the Mixer and Speaker Stage. -/
def State.onMixer (s : State) (f : Mixer → Mixer) : State := { s with mixer := f s.mixer }
/-- Change the Display Unit. -/
def State.onDisplay (s : State) (f : Display → Display) : State := { s with display := f s.display }
/-- Change the Input Unit. -/
def State.onPanel (s : State) (f : Panel → Panel) : State := { s with panel := f s.panel }
/-- Replace the utterance list and its owner. -/
def State.setUtt (s : State) (u : Utterance) : State := { s with utt := u }

/-- The link of machine `m`. -/
def State.link (s : State) (m : Side) : Link := s.links.get m
/-- The context of machine `m`. -/
def State.context (s : State) (m : Side) : Context := s.ctx.get m
/-- Whether machine `m` is attached (R22). -/
def State.attached (s : State) (m : Side) : Bool := (s.context m).attached

/-! ### Cues -/

/-- No flag (R37). -/
def noFlags : CueFlags := { isPartial := false, silent := false, stalled := false }

/-- In its purge fade (R57). -/
def Cue.purged (c : Cue) : Bool := c.state = .ending && c.endCause = some .purged

/-- Live (R41): not in REPORTING and not in a purge fade. -/
def Cue.live (c : Cue) : Bool := c.state ≠ .reporting && !c.purged

/-- One of machine `m`'s cues (R36, R57). -/
def Cue.ofMachine (c : Cue) (m : Side) : Bool := c.origin = .machine m && !c.purged

/-- PLAYING or ENDING: the cue has its scene and lamp parts on the display (R164, R166). -/
def Cue.onStage (c : Cue) : Bool := c.state = .playing || c.state = .ending

/-- The cue a reference names: a table cue, or the current cue of a panel entry. -/
def Sched.cue? (sc : Sched) : CueRef → Option Cue
  | .slot i => sc.table[i]
  | .narration => sc.narration.current
  | .feedback => sc.feedback.current

/-- Replace the cue a reference names. -/
def Sched.setCue (sc : Sched) (r : CueRef) (c : Option Cue) : Sched :=
  match r with
  | .slot i => { sc with table := sc.table.set i c }
  | .narration => { sc with narration := { sc.narration with current := c } }
  | .feedback => { sc with feedback := { sc.feedback with current := c } }

/-- The cue a reference names. -/
def State.cue? (s : State) (r : CueRef) : Option Cue := s.sched.cue? r

/-- Replace the cue a reference names. -/
def State.setCue (s : State) (r : CueRef) (c : Option Cue) : State := s.onSched (·.setCue r c)

/-- Change the cue a reference names, if there is one. -/
def State.modCue (s : State) (r : CueRef) (f : Cue → Cue) : State := s.setCue r ((s.cue? r).map f)

/-- The occupied slots with their cues. -/
def State.tableCues (s : State) : List (Fin 24 × Cue) :=
  (List.finRange 24).filterMap fun i => (s.sched.table[i]).map fun c => (i, c)

/-- The table total (R36): every occupied slot. -/
def State.tableTotal (s : State) : Nat := s.tableCues.length

/-- The machine count (R36). -/
def State.machineCount (s : State) (m : Side) : Nat := (s.tableCues.filter fun p => p.2.ofMachine m).length

/-- A free slot, the lowest (log 8: slots are not visible, R36). -/
def State.freeSlot (s : State) : Option (Fin 24) := (List.finRange 24).find? fun i => (s.sched.table[i]).isNone

/-- The slot of machine `m`'s cue with an id, in any state (R40 check 2, R48). -/
def State.slotOfId (s : State) (m : Side) (id : Nat) : Option (Fin 24) :=
  (s.tableCues.find? fun p => p.2.ofMachine m && p.2.id = id).map Prod.fst

/-- Whether any cue, of the table or of a panel entry, is PLAYING (R169). -/
def State.anyPlaying (s : State) : Bool :=
  s.tableCues.any (fun p => p.2.state = .playing) ||
    s.sched.narration.current.any (fun c => c.state = .playing) ||
    s.sched.feedback.current.any (fun c => c.state = .playing)

/-- Say that an arbitration has been set off (R61). -/
def State.setArb (s : State) : State := s.onSched fun sc => { sc with arbDue := true }

/-! ### Resources (R59) -/

/-- The voices in order. -/
def allVoices : List (Fin 4) := [0, 1, 2, 3]

/-- The voices shared by the table cues (R59). -/
def tableVoices : List (Fin 4) := [1, 2, 3]

/-- Change the speech path's record. -/
def State.onPath (s : State) (f : Resource → Resource) : State := s.onSched fun sc => { sc with path := f sc.path }

/-- Change a voice's record. -/
def State.onVoiceRes (s : State) (v : Fin 4) (f : Resource → Resource) : State :=
  s.onSched fun sc => { sc with voices := sc.voices.set v (f sc.voices[v]) }

/-- Change a voice of the Tone Unit. -/
def State.onVoice (s : State) (v : Fin 4) (f : Voice → Voice) : State :=
  s.onTone fun t => { t with voices := t.voices.set v (f t.voices[v]) }

/-- The voice a cue holds (R59: no cue holds more than one). -/
def State.voiceOf (s : State) (r : CueRef) : Option (Fin 4) :=
  allVoices.find? fun v => (s.sched.voices[v]).holder = some r

/-- Whether a record is reserved for a cue. -/
def Resource.reservedFor (x : Resource) (r : CueRef) : Bool := x.reservation = some r

/-- Drop a cue's reservation of one resource. -/
def Resource.unreserve (x : Resource) (r : CueRef) : Resource :=
  if x.reservation = some r then { x with reservation := none } else x

/-- Drop every reservation of a cue (R66, R69). -/
def State.dropReservations (s : State) (r : CueRef) : State :=
  s.onSched fun sc =>
    { sc with path := sc.path.unreserve r, voices := Vector.ofFn fun v => (sc.voices[v]).unreserve r }

/-- Whether a cue has a reservation on a resource that is free now. -/
def State.reservesFree (s : State) (r : CueRef) : Bool :=
  (s.sched.path.reservedFor r && s.sched.path.holder.isNone) ||
    allVoices.any fun v => (s.sched.voices[v]).reservedFor r && (s.sched.voices[v]).holder.isNone

/-- The reservations of a cue that leaves WAITING without starting end; an arbitration follows if a reserved resource is
free (R69). -/
def State.endReservations (s : State) (r : CueRef) : State :=
  if s.reservesFree r then (s.dropReservations r).setArb else s.dropReservations r

/-! ### Store values other blocks read -/

/-- The language count the Store Interface gives (R88). -/
def State.languageCount (s : State) : Nat :=
  match s.store.state, s.store.catalog with
  | .ok, some c => c.languages.length
  | _, _ => 1

/-- Whether a store check is pending or running (R82). -/
def State.checkActive (s : State) : Bool := s.store.check ≠ .idle

/-! ### Timers of the display that several blocks restart (R169) -/

/-- Restart the backlight idle timer. -/
def State.restartIdle (s : State) : State :=
  s.onDisplay fun d => { d with idleTimer := some (s.now + Config.backlightIdle) }

/-- Stop the backlight idle timer. -/
def State.stopIdle (s : State) : State := s.onDisplay fun d => { d with idleTimer := none }

/-- The backlight becomes FULL. -/
def State.wakeBacklight (s : State) : State := s.onDisplay fun d => { d with backlight := .full }

end Sys2Proof.Machine
end

