-- ==== Sys2Proof/Machine/Flags.lean ====
section
/-! DEFINITION. The FAULT flag with its causes, the report marks, the condition byte, the cue flags and the class sets. -/

namespace Sys2Proof.Machine

/-! ### FAULT flag and causes (R16) -/

/-- Adding a cause sets the flag; a cause already present stays present. -/
def Link.addCause (l : Link) (f : Causes → Causes) : Link := { l with fault := true, causes := f l.causes }

def Causes.withFraming (c : Causes) : Causes := { c with framing := true }
def Causes.withOverrun (c : Causes) : Causes := { c with overrun := true }
def Causes.withReportDrop (c : Causes) : Causes := { c with reportDrop := true }
def Causes.withStore (c : Causes) : Causes := { c with store := true }
def Causes.withSpeaker (c : Causes) : Causes := { c with speaker := true }

/-- Clear the flag and the cause set (R16). -/
def Link.clearFault (l : Link) : Link := { l with fault := false, causes := noCauses }

/-- The fault byte of STATUS (01 §1.9): bit 0 the flag, bits 1 to 5 the causes. -/
def Link.faultByte (l : Link) : Byte :=
  byteOf (bitAt 0 l.fault + bitAt 1 l.causes.framing + bitAt 2 l.causes.overrun + bitAt 3 l.causes.reportDrop +
    bitAt 4 l.causes.store + bitAt 5 l.causes.speaker)

/-! ### Report marks (R14) -/

/-- A mark that goes from clear to set takes the next report-order number; one already set is left. -/
def Link.setFocusMark (l : Link) : Link :=
  match l.focusMark with
  | some _ => l
  | none => { l with focusMark := some l.nextOrder, nextOrder := l.nextOrder + 1 }

def Link.setProfileMark (l : Link) : Link :=
  match l.profileMark with
  | some _ => l
  | none => { l with profileMark := some l.nextOrder, nextOrder := l.nextOrder + 1 }

def Link.setFaultMark (l : Link) : Link :=
  match l.faultMark with
  | some _ => l
  | none => { l with faultMark := some l.nextOrder, nextOrder := l.nextOrder + 1 }

/-- Clear the three marks and the pending report causes (R14, R18). -/
def Link.clearMarks (l : Link) : Link :=
  { l with focusMark := none, profileMark := none, faultMark := none, pendingStore := false, pendingSpeaker := false }

/-- Apply `f` to the link of every attached machine. -/
def State.onAttachedLinks (s : State) (f : Link → Link) : State :=
  { s with links := { w := if s.attached .w then f s.links.w else s.links.w,
                      d := if s.attached .d then f s.links.d else s.links.d } }

/-- The store fault on one link (R96): cause, flag, mark and pending cause. -/
def Link.storeFault (l : Link) : Link :=
  let l := (l.addCause Causes.withStore).setFaultMark
  { l with pendingStore := true }

/-- The speaker fault on one link (R153). -/
def Link.speakerFault (l : Link) : Link :=
  let l := (l.addCause Causes.withSpeaker).setFaultMark
  { l with pendingSpeaker := true }

/-! ### The condition byte (R11) -/

/-- SPEAKING (R11, R59): the speech path has a holder. -/
def State.speaking (s : State) : Bool := s.sched.path.holder.isSome

/-- FULL (R11): this machine has 16 cues in the cue table. -/
def State.full (s : State) (m : Side) : Bool := s.machineCount m = 16

/-- FOCUS (R11): this machine holds focus. -/
def State.hasFocus (s : State) (m : Side) : Bool := s.focus = some m

/-- The condition byte of a reply formed now on link `m` (R11; 01 §1.9). -/
def State.conditionByte (s : State) (m : Side) : Byte :=
  byteOf (bitAt 0 s.speaking + bitAt 1 (s.full m) + bitAt 2 (s.hasFocus m) + bitAt 3 (s.link m).fault)

/-! ### Cue flags (R79 to R81) -/

def Cue.markPartial (c : Cue) : Cue := { c with flags := { c.flags with isPartial := true } }
def Cue.markSilent (c : Cue) : Cue := { c with flags := { c.flags with silent := true } }
def Cue.markStalled (c : Cue) : Cue := { c with flags := { c.flags with stalled := true } }

/-- The cue flags byte (01 §1.9). -/
def CueFlags.toByte (f : CueFlags) : Byte :=
  byteOf (bitAt 0 f.isPartial + bitAt 1 f.silent + bitAt 2 f.stalled)

/-- Mark a table cue; panel cues keep no flags (R79). -/
def State.markTableCue (s : State) (r : CueRef) (f : Cue → Cue) : State :=
  match r with
  | .slot _ => s.modCue r f
  | _ => s

/-! ### Class sets of the Input Unit (R176) -/

/-- The code of an input class (01 §1.9). -/
def classCode : InputClass → Nat
  | .knob => 0
  | .push => 1
  | .start => 2
  | .options => 3
  | .back => 4
  | .swap => 5
  | .volume => 6
  | .assist => 7
  | .proximity => 8

/-- Whether a set has a class. -/
def hasClass (set : BitVec 9) (c : InputClass) : Bool := set.getLsbD (classCode c)

/-- A set with a class added. -/
def addClass (set : BitVec 9) (c : InputClass) : BitVec 9 := set ||| (1#9 <<< classCode c)

end Sys2Proof.Machine
end

