-- ==== Sys2Proof/Machine/Operands.lean ====
section
/-! DEFINITION. Every payload form (01 §1.9): kind codes, allowed lengths, and the fields of each request after the treatment R8
gives them. A parser answers none where R8 says FORMAT. -/

namespace Sys2Proof.Machine

/-! ### Kinds and lengths -/

/-- The kind code of a request (01 §1.9). -/
def RequestKind.code : RequestKind → BitVec 7
  | .attach => 0x01
  | .status => 0x02
  | .context => 0x03
  | .programs => 0x04
  | .bandText => 0x05
  | .profile => 0x06
  | .focusClaim => 0x07
  | .cuePost => 0x10
  | .cueCancel => 0x11
  | .cueQuery => 0x12
  | .fence => 0x13
  | .toneDefine => 0x18
  | .sceneWrite => 0x20
  | .sceneFromStore => 0x21
  | .lampSet => 0x22
  | .inputMask => 0x28
  | .inputForce => 0x29
  | .inputFilter => 0x2A
  | .storeCheck => 0x30
  | .speakerSetup => 0x38
  | .speakerReset => 0x39

/-- The 21 request kinds. -/
def allKinds : List RequestKind :=
  [.attach, .status, .context, .programs, .bandText, .profile, .focusClaim, .cuePost, .cueCancel, .cueQuery, .fence,
   .toneDefine, .sceneWrite, .sceneFromStore, .lampSet, .inputMask, .inputForce, .inputFilter, .storeCheck,
   .speakerSetup, .speakerReset]

/-- The request kind of a code, if it is one of the 21 (R7 check 2). -/
def kindOfCode (c : BitVec 7) : Option RequestKind := allKinds.find? fun k => k.code = c

/-- The length in bytes of a phrase item by its type byte; none for an unknown type (01 §1.9). -/
def itemLength (type : Byte) : Option Nat :=
  match type.toNat with
  | 1 => some 3
  | 2 => some 4
  | 3 => some 2
  | 4 => some 2
  | _ => none

/-- Whether `n` items, read one after another by their type byte, fill `rest` exactly (note under the kind code table). -/
def itemsFill : Nat → List Byte → Bool
  | 0, rest => rest.isEmpty
  | _ + 1, [] => false
  | n + 1, t :: rest =>
    match itemLength t with
    | none => false
    | some len => len ≤ rest.length + 1 && itemsFill n (rest.drop (len - 1))

/-- The number of steps a TONE_DEFINE of this LEN carries (08 §8.3). -/
def toneStepCount (len : Nat) : Option Nat :=
  ((List.range 16).map (· + 1)).find? fun n => 2 + 5 * n + (n + 1) / 2 = len

/-- Whether the kind code table allows the payload's length (R7 check 5). -/
def lenAllowed (k : RequestKind) (p : List Byte) : Bool :=
  match k with
  | .attach | .status | .focusClaim | .fence | .storeCheck | .speakerReset => p.length = 0
  | .context => p.length = 7
  | .programs => match p with
    | [] => false
    | c :: _ => p.length = 3 + 2 * c.toNat
  | .bandText => 1 ≤ p.length && p.length ≤ 96
  | .profile | .inputForce | .inputFilter => p.length = 3
  | .cuePost => 14 ≤ p.length && p.length ≤ 96 && itemsFill (p.getD 13 0).toNat (p.drop 14)
  | .cueCancel | .sceneFromStore | .inputMask | .speakerSetup => p.length = 2
  | .cueQuery => p.length = 1
  | .toneDefine => (toneStepCount p.length).isSome
  | .sceneWrite => p.length = 66
  | .lampSet => p.length = 4

/-! ### Context Unit requests -/

/-- The machine phases in the order of their codes (01 §1.9). -/
def phaseOfCode (n : Nat) : Option MachinePhase :=
  [MachinePhase.idle, .fill, .wash, .rinse, .spin, .dry, .cool, .done, .fault][n]?

/-- The fields of CONTEXT (R24); the index is clamped against the program count at dispatch. -/
structure ContextReq where
  phase : MachinePhase
  remaining : Nat
  speed : Nat
  temperature : Int
  index : Nat
  deriving DecidableEq, Repr

/-- CONTEXT (R24). -/
def parseContext : List Byte → Option ContextReq
  | [ph, r1, r0, s1, s0, t, i] =>
    (phaseOfCode ph.toNat).map fun phase =>
      { phase, remaining := min (be16 r1 r0) 999, speed := min (be16 s1 s0) 1600,
        temperature := saturate (-20) 95 (signedByte t), index := i.toNat }
  | _ => none

/-- A yes/no byte: 0 or 1, else FORMAT. -/
def parseFlag (b : Byte) : Option Bool :=
  match b.toNat with
  | 0 => some false
  | 1 => some true
  | _ => none

/-- A local scene slot 0 to 7. -/
def localSlot (b : Byte) : Option (Fin 8) := if h : b.toNat < 8 then some ⟨b.toNat, h⟩ else none

/-- Phrase codes of PROGRAMS: two bytes each, above 1023 becoming 1023 (R25). -/
def phraseCodes : List Byte → List Nat
  | hi :: lo :: rest => min (be16 hi lo) 1023 :: phraseCodes rest
  | _ => []

/-- The fields of PROGRAMS (R25). -/
structure ProgramsReq where
  wrap : Bool
  idleScene : Option (Fin 8)
  codes : List Nat
  deriving DecidableEq, Repr

/-- PROGRAMS (R25), its checks in order. -/
def parsePrograms : List Byte → Option ProgramsReq
  | c :: w :: i :: rest =>
    if c.toNat = 0 ∨ 24 < c.toNat then none
    else match parseFlag w with
      | none => none
      | some wrap =>
        if i = 0xFF then some { wrap, idleScene := none, codes := (phraseCodes rest).take c.toNat }
        else (localSlot i).map fun k => { wrap, idleScene := some k, codes := (phraseCodes rest).take c.toNat }
  | _ => none

/-- The fields of BAND_TEXT (R26). -/
structure BandReq where
  blink : Bool
  hold : Bool
  text : List Byte
  deriving DecidableEq, Repr

/-- BAND_TEXT (R26). -/
def parseBandText : List Byte → Option BandReq
  | f :: text => some { blink := f.getLsbD 0, hold := f.getLsbD 1, text := text.take 16 }
  | [] => none

/-- The fields of PROFILE (R27); the language is clamped at dispatch. -/
structure ProfileReq where
  language : Nat
  volume : Nat
  assist : Bool
  deriving DecidableEq, Repr

/-- PROFILE (R27). -/
def parseProfile : List Byte → Option ProfileReq
  | [l, v, a] =>
    if 7 < v.toNat then none
    else (parseFlag a).map fun assist => { language := l.toNat, volume := v.toNat, assist }
  | _ => none

/-! ### Cue Scheduler requests -/

/-- The classes a machine may post (R39): ECHO is FORMAT. -/
def classOfCode (n : Nat) : Option CueClass := [CueClass.alarm, .prompt, .chime][n]?

def timingOfCode (n : Nat) : Option ToneTiming := [ToneTiming.before, .together, .after][n]?

def effectOfCode (n : Nat) : Option LampEffect := [LampEffect.chase, .pulse, .flash][n]?

def fieldOfCode (n : Nat) : Option ContextField :=
  [ContextField.remaining, .temperature, .speed, .program, .phase][n]?

/-- One phrase item with the bytes behind it; none is FORMAT (01 §1.9). -/
def parseItem : List Byte → Option (PhraseItem × List Byte)
  | t :: rest =>
    match t.toNat, rest with
    | 1, hi :: lo :: rest => if be16 hi lo ≤ 1023 then some (.fragment (be16 hi lo), rest) else none
    | 2, hi :: lo :: u :: rest =>
      if 9999 < be16 hi lo then none
      else if u = 0xFF then some (.number (be16 hi lo) none, rest)
      else if u.toNat ≤ 15 then some (.number (be16 hi lo) (some u.toNat), rest)
      else none
    | 3, f :: rest => (fieldOfCode f.toNat).map fun x => (.field x, rest)
    | 4, p :: rest => if 1 ≤ p.toNat then some (.pause p.toNat, rest) else none
    | _, _ => none
  | [] => none

/-- `n` phrase items filling the bytes exactly. -/
def parseItems : Nat → List Byte → Option (List PhraseItem)
  | 0, rest => if rest.isEmpty then some [] else none
  | n + 1, bytes =>
    match parseItem bytes with
    | none => none
    | some (item, rest) => (parseItems n rest).map (item :: ·)

/-- The fields of CUE_POST (R39). The tone pattern and the scene slot keep their bytes: they are checked by R40. -/
structure CuePostReq where
  id : Nat
  cls : CueClass
  group : Nat
  lifetime : Nat
  repeats : Nat
  gapLength : Nat
  hold : Nat
  speech : Option (List PhraseItem)
  tone : Option (Nat × ToneTiming)
  scene : Option Nat
  lamp : Option LampEffect
  deriving DecidableEq, Repr

/-- The part of a field that is read only when its part is present: absent gives no part, present gives a value or FORMAT. -/
def whenPresent {α : Type} (present : Bool) (x : Option α) : Option (Option α) :=
  if present then x.map some else some none

/-- CUE_POST (R39). -/
def parseCuePost : List Byte → Option CuePostReq
  | id :: cls :: group :: l1 :: l0 :: rep :: gap :: hold :: parts :: pat :: tim :: scene :: lamp :: n :: items => do
    let c ← classOfCode cls.toNat
    let speech ← whenPresent (parts.getLsbD 0)
      (if 1 ≤ n.toNat ∧ n.toNat ≤ 16 then parseItems n.toNat items else none)
    let timing ← whenPresent (parts.getLsbD 1) (timingOfCode tim.toNat)
    let effect ← whenPresent (parts.getLsbD 3) (effectOfCode lamp.toNat)
    let fields : CuePostReq :=
      { id := id.toNat, cls := c, group := group.toNat, lifetime := min (be16 l1 l0) 6000, repeats := rep.toNat,
        gapLength := gap.toNat, hold := max 1 hold.toNat, speech,
        tone := timing.map fun t => (pat.toNat, t),
        scene := if parts.getLsbD 2 then some scene.toNat else none, lamp := effect }
    if id.toNat = 0 ∨ 15 < group.toNat ∨ 15 < rep.toNat ∨ 15 < parts.toNat ∨
        (parts.getLsbD 0 = false ∧ (n.toNat ≠ 0 ∨ items ≠ [])) then none
    else some fields
  | _ => none

/-- What CUE_CANCEL selects by (R46). -/
inductive CancelMode where
  | byId (id : Nat)
  | byGroup (group : Nat)
  | all
  deriving DecidableEq, Repr

/-- CUE_CANCEL (01 §1.9). -/
def parseCueCancel : List Byte → Option CancelMode
  | [m, x] =>
    match m.toNat with
    | 0 => some (.byId x.toNat)
    | 1 => if x.toNat ≤ 15 then some (.byGroup x.toNat) else none
    | 2 => some .all
    | _ => none
  | _ => none

/-- CUE_QUERY (01 §1.9). -/
def parseCueQuery : List Byte → Option Nat
  | [id] => some id.toNat
  | _ => none

/-! ### Tone Unit, Display Unit, Input Unit and stage requests -/

/-- A period after its treatment: 0 is a rest, 1 to 124 becomes 125, above 20000 becomes 20000 (R133). -/
def treatPeriod (p : Nat) : Nat := if p = 0 then 0 else clamp 125 20000 p

/-- One step record of TONE_DEFINE, with its level nibble (R133). -/
def parseToneStep (p1 p0 d1 d0 dur : Byte) (level : Nat) : ToneStep :=
  let period := treatPeriod (be16 p1 p0 % 32768)
  { period, duty := min (be16 d1 d0 % 32768) period, duration := max 1 dur.toNat, level,
    halfRate := p1.getLsbD 7, inverse := d1.getLsbD 7 }

/-- The level nibble of step `k`: step 2k in bits 3–0 and step 2k + 1 in bits 7–4 (01 §1.9). -/
def levelNibble (levels : List Byte) (k : Nat) : Nat :=
  let b := (levels.getD (k / 2) 0).toNat
  if k % 2 = 0 then b % 16 else b / 16

/-- `n` step records from step `k` on. -/
def parseToneSteps (levels : List Byte) : Nat → Nat → List Byte → List ToneStep
  | n + 1, k, p1 :: p0 :: d1 :: d0 :: dur :: rest =>
    parseToneStep p1 p0 d1 d0 dur (levelNibble levels k) :: parseToneSteps levels n (k + 1) rest
  | _, _, _ => []

/-- TONE_DEFINE: the entry number and the pattern with its treatments (R132, R133). -/
def parseToneDefine : List Byte → Option (Nat × Pattern)
  | entry :: loop :: rest =>
    (toneStepCount (rest.length + 2)).map fun n =>
      (entry.toNat, { loops := min loop.toNat 15, steps := parseToneSteps (rest.drop (5 * n)) n 0 rest })
  | _ => none

/-- SCENE_WRITE: slot byte, chunk 0 to 3, 64 bytes of dots (R161). -/
def parseSceneWrite : List Byte → Option (Byte × Fin 4 × List Byte)
  | slot :: chunk :: dots => if h : chunk.toNat < 4 then some (slot, ⟨chunk.toNat, h⟩, dots) else none
  | _ => none

/-- SCENE_FROM_STORE: slot byte and image number (R162). -/
def parseSceneFromStore : List Byte → Option (Byte × Nat)
  | [slot, image] => some (slot, image.toNat)
  | _ => none

/-- LAMP_SET: four levels, each clamped to 63 (R165). -/
def parseLampSet : List Byte → Option (Nat × Nat × Nat × Nat)
  | [a, b, c, d] => some (min a.toNat 63, min b.toNat 63, min c.toNat 63, min d.toNat 63)
  | _ => none

/-- INPUT_MASK: a class set; bits 9 to 15 are ignored (R176). -/
def parseInputMask : List Byte → Option (BitVec 9)
  | [hi, lo] => some (BitVec.ofNat 9 (be16 hi lo))
  | _ => none

/-- A panel event (11, opening): `up` is a forward detent. -/
inductive PanelEvent where
  | detent (up : Bool)
  | key (k : Key) (a : KeyAction)
  | proximity
  deriving DecidableEq, Repr

/-- The key of an input class code, for PUSH and the key classes (01 §1.9). -/
def keyOfCode (n : Nat) : Option Key :=
  [none, some Key.push, some .start, some .options, some .back, some .swap, some .volume, some .assist][n]?.join

def actionOfCode (n : Nat) : Option KeyAction := [KeyAction.press, .long, .release][n]?

/-- INPUT_FORCE: the event it makes (R178). -/
def parseInputForce : List Byte → Option PanelEvent
  | [cls, step, action] =>
    match cls.toNat with
    | 0 => if step = 1 then some (.detent true) else if step = 0xFF then some (.detent false) else none
    | 8 => some .proximity
    | n => match keyOfCode n, actionOfCode action.toNat with
      | some k, some a => some (.key k a)
      | _, _ => none
  | _ => none

/-- INPUT_FILTER: key filter N, encoder filter N, edges per detent (R179). -/
def parseInputFilter : List Byte → Option (Nat × Nat × Nat)
  | [k, e, d] =>
    if d.toNat = 2 ∨ d.toNat = 4 then some (clamp 2 16 k.toNat, clamp 1 4 e.toNat, d.toNat) else none
  | _ => none

/-- SPEAKER_SETUP: enable and dead time (R155). -/
def parseSpeakerSetup : List Byte → Option (Bool × Nat)
  | [e, dt] => (parseFlag e).map fun enable => (enable, clamp 1 16 dt.toNat)
  | _ => none

end Sys2Proof.Machine
end

