-- ==== Sys2Proof/Machine/Link.lean ====
section
/-! DEFINITION. The Link Interface (chapter 1): reception, the request queue, replies, reports and the transmitter. -/

namespace Sys2Proof.Machine

/-! ### Reception (R1 to R5) -/

/-- A completed frame is offered to the request queue (R4): it joins while fewer than 4 entries are held, and is discarded with
OVERRUN otherwise. -/
def Link.offer (l : Link) (e : QueueEntry) : Link :=
  if l.queue.length < 4 then { l with queue := l.queue ++ [e] } else l.addCause Causes.withOverrun

/-- The sum check (R4): LEN, KIND, every payload byte and CHECK add up to 0 modulo 256. -/
def sumPasses (len : Nat) (got : List Byte) : Bool := (len + (got.map BitVec.toNat).sum) % 256 = 0

/-- The queue entry of a completed frame (R4): `got` is KIND, the payload and CHECK. -/
def frameEntry (len : Nat) (got : List Byte) : QueueEntry :=
  if sumPasses len got then
    let kind := got.getD 0 0
    .request (kind.setWidth 7) (kind.getLsbD 7) ((got.drop 1).take len)
  else .badCheck

/-- One character taken by the receive assembler (R1, R3, R4). -/
def Link.assemble (l : Link) (c : Byte) : Link :=
  match l.asm with
  | .search => if c = 0xC5 then { l with asm := .length } else l
  | .length =>
    if c.toNat ≤ 96 then { l with asm := .body c.toNat [] }
    else { l with asm := .discard }.addCause Causes.withFraming
  | .body len got =>
    if got.length + 1 < len + 2 then { l with asm := .body len (got ++ [c]) }
    else { l with asm := .search }.offer (frameEntry len (got ++ [c]))
  | .discard => l

/-- A character delivered to the link restarts the gap timer and is assembled (R1, R2). -/
def Link.receive (l : Link) (c : Byte) (now : Nat) : Link :=
  { l with gapTimer := some (now + Config.linkGap) }.assemble c

/-- A character whose stop bit was sampled low: not delivered; a partial frame is abandoned (R2). -/
def Link.badStop (l : Link) : Link :=
  match l.asm with
  | .length | .body _ _ => { l with asm := .search }
  | .search | .discard => l

/-- The gap timer expires (R2): a partial frame is abandoned, DISCARD ends. -/
def Link.gapExpiry (l : Link) : Link := { l with asm := .search, gapTimer := none }

/-- The ready line (R5): low while the queue holds 4 entries or the reset input is held low. -/
def State.readyLine (s : State) (m : Side) : Bool := !s.resetHeld && (s.link m).queue.length < 4

/-- Whether the link may dispatch, leaving the queue aside (R6). -/
def Link.free (l : Link) : Bool := l.inService.isNone && l.reply.isNone

/-! ### Replies (R9 to R11) -/

/-- Form a reply into the slot (R10); its condition byte is taken now (R11). -/
def State.formReply (s : State) (m : Side) (echo : BitVec 7) (body : ReplyBody) (note : Bool) : State :=
  s.onLink m fun l =>
    { l with reply := some { echo, body, condition := if note then some (s.conditionByte m) else none } }

/-- The end of deferred work (R9): the DONE reply is formed and the request in service cleared. -/
def State.finishDeferred (s : State) (m : Side) (result : List Byte) : State :=
  match (s.link m).inService with
  | none => s
  | some r =>
    let echo := match r.kind with
      | .sceneFromStore => RequestKind.sceneFromStore.code
      | .storeCheck => RequestKind.storeCheck.code
    (s.formReply m echo (.done result) r.note).onLink m fun l => { l with inService := none }

/-! ### Reports (R12 to R14) -/

/-- A CUE_DONE report joins the tail of the done-report list (R12). -/
def Link.joinDone (l : Link) (uid id : Nat) (outcome : CueOutcome) (flags : CueFlags) (preempts : Nat) : Link :=
  { l with done := l.done ++ [{ order := l.nextOrder, uid, id, outcome, flags, preempts }], nextOrder := l.nextOrder + 1 }

/-- Whether the input report at the tail has not begun to be sent (R177). -/
def Link.tailUnsent (l : Link) (r : InputReport) : Bool :=
  match l.tx with
  | .sending (.input x) => x.order ≠ r.order
  | _ => true

/-- An INPUT report is merged, joins or is dropped (R13, R177). -/
def Link.addInput (l : Link) (c : InputContent) : Link :=
  let join :=
    if l.inputs.length < 16 then
      { l with inputs := l.inputs ++ [{ order := l.nextOrder, content := c }], nextOrder := l.nextOrder + 1 }
    else l.addCause Causes.withReportDrop
  match l.inputs.getLast?, c with
  | some r, .knob steps index atEnd =>
    match r.content with
    | .knob steps0 _ atEnd0 =>
      if l.tailUnsent r then
        { l with inputs := l.inputs.dropLast ++
            [{ r with content := .knob (saturate (-128) 127 (steps0 + steps)) index (atEnd0 || atEnd) }] }
      else join
    | _ => join
  | _, _ => join

/-! ### The transmitter (R14, R15) -/

/-- What a link may send besides a reply. -/
inductive ReportChoice where
  | done (r : DoneReport)
  | input (r : InputReport)
  | focus
  | profile
  | fault
  deriving DecidableEq, Repr

/-- The reports that may go out next, each with its report-order number (R15). -/
def Link.available (l : Link) : List (Nat × ReportChoice) :=
  (l.done.head?.map fun r => (r.order, .done r)).toList ++ (l.inputs.head?.map fun r => (r.order, .input r)).toList ++
    (l.focusMark.map fun n => (n, .focus)).toList ++ (l.profileMark.map fun n => (n, .profile)).toList ++
    (l.faultMark.map fun n => (n, .fault)).toList

/-- The choice with the lowest report-order number (R15). -/
def earliest : List (Nat × ReportChoice) → Option ReportChoice
  | [] => none
  | x :: rest => some (rest.foldl (fun best y => if y.1 < best.1 then y else best) x).2

/-- The PROFILE report of a machine's current values (R14). -/
def Context.profileFrame (c : Context) : TxFrame := .profile c.language c.volume c.mutedFrom c.assist

/-- Begin a report's frame: a state report reads its content now and its mark is cleared (R14). A PROFILE frame keeps the moment of
the panel event it reports (R27, log 25). -/
def State.beginReport (s : State) (m : Side) (c : ReportChoice) : State :=
  match c with
  | .done r => s.onLink m fun l => { l with tx := .sending (.done r) }
  | .input r => s.onLink m fun l => { l with tx := .sending (.input r) }
  | .focus => s.onLink m fun l => { l with tx := .sending (.focus s.focus), focusMark := none }
  | .profile =>
    s.onLink m fun l =>
      { l with tx := .sending (s.context m).profileFrame, profileMark := none, profileShown := l.profileEvent }
  | .fault =>
    s.onLink m fun l =>
      { l with tx := .sending (.fault l.pendingStore l.pendingSpeaker s.mixer.trips), faultMark := none,
               pendingStore := false, pendingSpeaker := false }

/-- A PROFILE request is taken at moment `now` (R27): the PROFILE report of a panel event taken earlier at that moment carries the
request's values, also where its frame has begun (DESIGN CHOICE, log 25). Any other frame begun goes out as it read (R14). -/
def Link.retakeProfile (l : Link) (c : Context) (now : Nat) : Link :=
  match l.tx with
  | .sending (.profile _ _ _ _) => if l.profileShown = some now then { l with tx := .sending c.profileFrame } else l
  | _ => l

/-- An IDLE transmitter chooses its next frame: the reply first, then the earliest report (R15). -/
def State.txChoose (s : State) (m : Side) : State :=
  match (s.link m).tx with
  | .sending _ => s
  | .idle =>
    match (s.link m).reply with
    | some r => s.onLink m fun l => { l with tx := .sending (.reply r) }
    | none =>
      match earliest (s.link m).available with
      | none => s
      | some c => s.beginReport m c

/-- What leaves the link when a frame's last character has been sent (R10, R12, R13). A report entry leaves only if it still
heads its list: ATTACH may have emptied the list meanwhile (R19). -/
def Link.sent (l : Link) (f : TxFrame) : Link :=
  match f with
  | .reply _ => { l with reply := none, tx := .idle }
  | .done r => { l with done := l.done.filter (fun x => x.order ≠ r.order), tx := .idle }
  | .input r => { l with inputs := l.inputs.filter (fun x => x.order ≠ r.order), tx := .idle }
  | .focus _ | .profile _ _ _ _ | .fault _ _ _ => { l with tx := .idle }

/-- The notice that a CUE_DONE report has been transmitted frees the cue's slot (R52); it finds no slot if the cue was purged
(R19). The cue is known by its serial (log 8). -/
def State.releaseReported (s : State) (uid : Nat) : State :=
  match s.tableCues.find? fun p => p.2.uid = uid && p.2.state = .reporting with
  | none => s
  | some p => s.setCue (.slot p.1) none

/-- The last character of the frame in transmission is sent (R12, R15, R52). -/
def State.frameSent (s : State) (m : Side) : State :=
  match (s.link m).tx with
  | .idle => s
  | .sending f =>
    let s' := s.onLink m fun l => l.sent f
    match f with
    | .done r => s'.releaseReported r.uid
    | _ => s'

/-! ### The bytes of a frame (01 §1.9) -/

def Reason.code : Reason → Byte
  | .format => 1
  | .unknownKind => 2
  | .badCheck => 3
  | .notReady => 4
  | .notAttached => 5
  | .idInUse => 6
  | .quota => 7
  | .tableFull => 8
  | .emptyCue => 9
  | .noSuchCue => 10
  | .badSlot => 11
  | .badPattern => 12
  | .patternLocked => 13
  | .patternBusy => 14
  | .fenceLimit => 15
  | .focusBusy => 16
  | .noFocus => 17
  | .storeFailed => 18
  | .badImage => 19

def CueOutcome.code : CueOutcome → Byte
  | .completed => 0
  | .cancelled => 1
  | .expired => 2
  | .displaced => 3

/-- The focus byte: 0 nobody, 1 W, 2 D. -/
def focusCode : Option Side → Byte
  | none => 0
  | some .w => 1
  | some .d => 2

def KeyAction.code : KeyAction → Byte
  | .press => 0
  | .long => 1
  | .release => 2

/-- The input class of a key (R176). -/
def keyClass : Key → InputClass
  | .push => .push
  | .start => .start
  | .options => .options
  | .back => .back
  | .swap => .swap
  | .volume => .volume
  | .assist => .assist

def boolByte (b : Bool) : Byte := if b then 1 else 0

/-- The payload of an INPUT report. -/
def InputContent.payload : InputContent → List Byte
  | .knob steps index atEnd => [0, byteOfInt steps, byteOf index, boolByte atEnd]
  | .key k a => [byteOf (classCode (keyClass k)), a.code, 0, 0]
  | .proximity => [8, 0, 0, 0]

/-- The payload of a reply: the echoed kind code, the reason or the result, the condition byte. -/
def Reply.payload (r : Reply) : List Byte :=
  [r.echo.setWidth 8] ++
    (match r.body with
      | .done result => result
      | .refused reason => [reason.code]) ++ r.condition.toList

/-- The kind code of a frame the part sends. -/
def TxFrame.kind : TxFrame → Byte
  | .reply r => match r.body with
    | .done _ => 0x60
    | .refused _ => 0x61
  | .done _ => 0x70
  | .input _ => 0x71
  | .focus _ => 0x72
  | .profile _ _ _ _ => 0x73
  | .fault _ _ _ => 0x74

/-- The note flag of a frame: set when the condition byte is present (R11). -/
def TxFrame.note : TxFrame → Bool
  | .reply r => r.condition.isSome
  | _ => false

/-- The payload of a frame the part sends. -/
def TxFrame.payload : TxFrame → List Byte
  | .reply r => r.payload
  | .done r => [byteOf r.id, r.outcome.code, r.flags.toByte, byteOf r.preempts]
  | .input r => r.content.payload
  | .focus h => [focusCode h]
  | .profile language volume mutedFrom assist => [byteOf language, byteOf volume, byteOf mutedFrom, boolByte assist]
  | .fault store speaker trips => [byteOf (bitAt 4 store + bitAt 5 speaker), byteOf trips]

/-- The check byte that makes a frame's sum 0 modulo 256. -/
def checkByte (len : Nat) (kind : Byte) (payload : List Byte) : Byte :=
  byteOf (256 - (len + kind.toNat + (payload.map BitVec.toNat).sum) % 256)

/-- The characters of a frame on the line. -/
def TxFrame.bytes (f : TxFrame) : List Byte :=
  let kind := f.kind ||| (if f.note then 0x80 else 0)
  [0xC5, byteOf f.payload.length, kind] ++ f.payload ++ [checkByte f.payload.length kind f.payload]

end Sys2Proof.Machine
end

