-- ==== Sys2Proof/Machine/Store.lean ====
section
/-! DEFINITION. The Store Interface (chapters 5 and 7): lookups, the catalog check, the port arbiter and the two fetch
channels. -/

namespace Sys2Proof.Machine

/-! ### What the flash returns (log 4) -/

/-- The byte the flash returns at an address. -/
def flashRead (f : Flash) (a : Nat) : Byte := (f.cells.lookup a).getD f.fill

/-- `n` bytes from consecutive addresses. -/
def flashSpan (f : Flash) (a n : Nat) : List Byte := (List.range n).map fun k => flashRead f (a + k)

/-! ### Lookups (R84, R86, R87) -/

/-- A span lies inside the store: the sum is a plain number (R84). -/
def liesInside (size a n : Nat) : Bool := a + n ≤ size

/-- The lookup of a fragment by language and code; none is *absent* (R86). A usable entry has its scale limited to 8. -/
def State.lookupFragment (s : State) (l c : Nat) : Option FragEntry :=
  match s.store.state, s.store.catalog with
  | .ok, some cat =>
    match cat.languages[l]? with
    | none => none
    | some lang =>
      match lang.entries[c]? with
      | none => none
      | some e =>
        if e.count = 0 ∨ liesInside cat.sizeBytes e.start e.count = false then none
        else some { e with scale := min e.scale 8 }
  | _, _ => none

/-- The three answers of an image lookup (R87). -/
inductive ImageAnswer where
  | storeFailed
  | notUsable
  | usable (start : Nat)
  deriving DecidableEq, Repr

/-- The lookup of image `n` (R87). -/
def State.lookupImage (s : State) (n : Nat) : ImageAnswer :=
  match s.store.state, s.store.catalog with
  | .ok, some cat =>
    match cat.images[n]? with
    | none => .notUsable
    | some a => if liesInside cat.sizeBytes a 256 then .usable a else .notUsable
  | _, _ => .storeFailed

/-! ### The catalog check (R92, R93) -/

/-- The header fields the check tests and keeps (R84). -/
structure Header where
  mark : List Byte
  sizeUnits : Nat
  languages : Nat
  images : Nat
  languageAddrs : List Nat
  imageDir : Nat
  sum : Nat
  deriving DecidableEq, Repr

/-- A 3-byte address inside a list of bytes. -/
def addrAt (bs : List Byte) (k : Nat) : Nat := be24 (bs.getD k 0) (bs.getD (k + 1) 0) (bs.getD (k + 2) 0)

/-- A 2-byte number inside a list of bytes. -/
def numAt (bs : List Byte) (k : Nat) : Nat := be16 (bs.getD k 0) (bs.getD (k + 1) 0)

/-- The store header's fields from its 25 bytes (01 §1.9). -/
def headerOf (h : List Byte) : Header :=
  { mark := h.take 4, sizeUnits := numAt h 4, languages := (h.getD 6 0).toNat, images := (h.getD 7 0).toNat,
    languageAddrs := (List.range (h.getD 6 0).toNat).map fun k => addrAt h (8 + 3 * k), imageDir := addrAt h 20,
    sum := numAt h 23 }

/-- The four characters "SJPS" (R84). -/
def storeMark : List Byte := [0x53, 0x4A, 0x50, 0x53]

/-- The tests of step 1 (R92), in order; a conjunction of tests has no order to see. -/
def headerPasses (h : Header) : Bool :=
  h.mark = storeMark && (1 ≤ h.sizeUnits && h.sizeUnits ≤ 4096) && (1 ≤ h.languages && h.languages ≤ 4) &&
    h.images ≤ 64 && h.languageAddrs.all (fun a => liesInside (h.sizeUnits * 4096) a 4) &&
    (h.images = 0 || liesInside (h.sizeUnits * 4096) h.imageDir (3 * h.images))

/-- A fragment directory entry from its 8 bytes; byte 7 is not read (01 §1.9). -/
def fragEntryOf (bs : List Byte) : FragEntry :=
  { start := addrAt bs 0, count := numAt bs 3, scale := (bs.getD 5 0).toNat, silence := (bs.getD 6 0).toNat }

/-- The 1024 entries of the fragment directory at an address (R85). -/
def readDirectory (f : Flash) (a : Nat) : List FragEntry :=
  (List.range 1024).map fun c => fragEntryOf (flashSpan f (a + 8 * c) 8)

/-- A language as the catalog holds it: flags and directory (R85). -/
def readLanguage (f : Flash) (header : List Byte) : Language :=
  { wordOrder := (header.getD 0 0).getLsbD 0, join := (header.getD 0 0).getLsbD 1,
    entries := readDirectory f (addrAt header 1) }

/-- The sum of some bytes as plain numbers. -/
def byteSum (bs : List Byte) : Nat := (bs.map BitVec.toNat).sum

/-- Bytes 0 to 6 of each of the 1024 entries of a directory, added up (R93). -/
def directorySum (f : Flash) (a : Nat) : Nat :=
  ((List.range 1024).map fun c => byteSum (flashSpan f (a + 8 * c) 7)).sum

/-- The check of R92: the catalog of a store that passes every test, none for one that fails. -/
def runCheck (f : Flash) : Option Catalog :=
  let headerBytes := flashSpan f 0 25
  let h := headerOf headerBytes
  let size := h.sizeUnits * 4096
  if headerPasses h = false then none
  else
    let langHeaders := h.languageAddrs.map fun a => flashSpan f a 4
    if langHeaders.all (fun lh => liesInside size (addrAt lh 1) 8192) = false then none
    else
      let imageBytes := if h.images = 0 then [] else flashSpan f h.imageDir (3 * h.images)
      let sum := byteSum (headerBytes.take 23) + (langHeaders.map byteSum).sum + byteSum imageBytes +
        (langHeaders.map fun lh => directorySum f (addrAt lh 1)).sum
      if sum % 65536 = h.sum then
        some { sizeBytes := size, languages := langHeaders.map (readLanguage f),
               images := (List.range h.images).map fun n => addrAt imageBytes (3 * n) }
      else none

/-! ### The port arbiter (R116) -/

/-- Channel S has data left (R118). -/
def ChannelS.dataLeft (c : ChannelS) : Bool := c.active && 0 < c.count

/-- Channel S is eligible (R116): data left and at least 32 free bytes in the ring. -/
def State.eligibleS (s : State) : Bool := s.store.chanS.dataLeft && s.stream.ring.length + 32 ≤ 512

/-- Channel G is eligible (R116): a transfer waits and no check is running. -/
def State.eligibleG (s : State) : Bool := !s.store.chanG.isEmpty && s.store.check ≠ .running

/-- The arbiter decides while the port user is IDLE: S before G (R116). -/
def State.portDecide (s : State) : State :=
  match s.store.port with
  | .idle =>
    if s.eligibleS then s.onStore fun st => { st with port := .s }
    else if s.eligibleG then s.onStore fun st => { st with port := .g }
    else s
  | _ => s

/-- The conditions under which a pending check begins (R91). -/
def State.checkCanBegin (s : State) : Bool :=
  s.store.check = .pending && s.sched.path.holder.isNone && s.sched.path.reservation.isNone && s.store.port ≠ .g

/-- The port user a race of R91 leaves: channel G if the grant is taken first. -/
def racePort (grantFirst : Bool) (p : PortUser) : PortUser := if grantFirst then .g else p

/-- R91, "Beginning against a G grant": a pending check can begin at the moment the arbiter would grant channel G a burst. A free
value says whether the grant is taken first (log 7). It is asked once for a pending check: after a grant taken first the check begins
when that burst ends. -/
def State.grantRace (s : State) : State :=
  if s.checkCanBegin && !s.store.grantedFirst && s.store.port = .idle && !s.eligibleS && s.eligibleG then
    s.onStore fun st =>
      { st with races := st.races + 1, grantedFirst := Config.grantBeforeCheck st.races,
                port := racePort (Config.grantBeforeCheck st.races) st.port }
  else s

/-- A pending check begins as soon as it can, and takes the port (R91, R116). -/
def State.tryBeginCheck (s : State) : State :=
  if s.checkCanBegin then
    s.onStore fun st => { st with check := .running, port := .check, grantedFirst := false }
  else s

/-! ### Channel S (R118 to R120) -/

/-- The first fragment entry of a list from a 1-based position on, with the position after it. -/
def firstFragment : List UttEntry → Nat → Option (FragEntry × Nat)
  | [], _ => none
  | .fragment e :: _, i => some (e, i + 1)
  | .silence _ :: rest, i => firstFragment rest (i + 1)

/-- To *load* (R118): take the next fragment entry, or become IDLE with the index after the last entry. -/
def ChannelS.load (c : ChannelS) (entries : List UttEntry) : ChannelS :=
  match firstFragment (entries.drop (c.index - 1)) c.index with
  | some (e, i) => { active := true, index := i, address := e.start, count := e.count }
  | none => { c with active := false, index := entries.length + 1 }

/-- Length of the S burst in progress: the current count or 32, whichever is less (R117). -/
def ChannelS.burst (c : ChannelS) : Nat := min c.count 32

/-- The channel's counts advance by a burst of `n` bytes; at terminal count it loads (R119). DESIGN CHOICE (log 24): the current
address rises as a plain number; after a fragment that ends at the last byte of a 16 MiB store it is 2^24, one past the 24 bits of
R118, where the spec does not say whether it wraps. Nothing reads it before the next load replaces it. -/
def ChannelS.advance (c : ChannelS) (entries : List UttEntry) (n : Nat) : ChannelS :=
  let c' := { c with address := c.address + n, count := c.count - n }
  if c'.count = 0 then c'.load entries else c'

/-- Channel S is stopped (R120): its burst is cut off, its state cleared, the ring flushed; the Speech Stream becomes IDLE
(R128). -/
def State.stopSpeech (s : State) : State :=
  (s.onStore fun st =>
    { st with chanS := idleChannelS, port := if st.port = .s then .idle else st.port }).onStream fun _ => idleStream

/-! ### Channel G (R121, R122) -/

/-- A scene slot in the part's numbering (R121): local slot k of the washer is k, of the dryer 8 + k. -/
def sceneSlot (m : Side) (k : Fin 8) : Fin 16 :=
  match m with
  | .w => ⟨k.val, by omega⟩
  | .d => ⟨8 + k.val, by omega⟩

/-- Change a scene slot. -/
def State.onSlot (s : State) (i : Fin 16) (f : SceneSlot → SceneSlot) : State :=
  s.onDisplay fun d => { d with slots := d.slots.set i (f d.slots[i]) }

/-- No chunk marked. -/
def noMarks : Vector Bool 4 := Vector.replicate 4 false

/-- All four chunks marked. -/
def allMarks : Vector Bool 4 := Vector.replicate 4 true

/-- An accepted image load joins the transfer list, and the slot's chunk marks are cleared (R121). -/
def State.startTransfer (s : State) (m : Side) (k : Fin 8) (start : Nat) : State :=
  (s.onStore fun st =>
    { st with chanG := st.chanG ++ [{ link := m, slot := sceneSlot m k, start, bytesDone := 0 }] }).onSlot
      (sceneSlot m k) fun x => { x with marks := noMarks }

/-- The end of a G burst (R122): 32 bytes, two rows, into the staged copy; at 256 bytes the marks are set, the deferred reply
formed and the transfer leaves the list. -/
def State.endBurstG (s : State) (f : Flash) : State :=
  match s.store.chanG with
  | [] => s
  | t :: rest =>
    let bytes := flashSpan f (t.start + t.bytesDone) 32
    let s := s.onSlot t.slot fun x => { x with staged := x.staged.writeRows (t.bytesDone / 16) 2 bytes }
    if t.bytesDone + 32 < 256 then
      s.onStore fun st => { st with chanG := { t with bytesDone := t.bytesDone + 32 } :: rest }
    else
      ((s.onSlot t.slot fun x => { x with marks := allMarks }).finishDeferred t.link []).onStore
        fun st => { st with chanG := rest }

/-! ### STORE_CHECK and its waiters (R90) -/

/-- The speech path's reservation ends, and the voice reservation of the same cue with it (R69, R82). -/
def State.endPathReservation (s : State) : State :=
  match s.sched.path.reservation with
  | none => s
  | some r => s.endReservations r

/-- A check becomes pending (R82, R90). -/
def State.checkPending (s : State) : State :=
  (s.onStore fun st => { st with check := .pending }).endPathReservation

/-- A link waits for the check that is pending or about to begin (R90). -/
def Store.joinCurrent (st : Store) (m : Side) : Store := { st with currentWaiters := st.currentWaiters.set m true }

/-- A link waits for a check after the running one (R90). -/
def Store.joinNext (st : Store) (m : Side) : Store := { st with nextWaiters := st.nextWaiters.set m true }

/-- A STORE_CHECK taken from link `m` (R90). "Both links at once": a check that the other link's STORE_CHECK of this very moment made
pending answers this one too, also where it has begun at once (log 27). -/
def State.takeStoreCheck (s : State) (m : Side) : State :=
  match s.store.check with
  | .idle => (s.onStore fun st =>
      { st with currentWaiters := (PerSide.both false).set m true, askedAt := some s.now }).checkPending
  | .pending => s.onStore fun st => st.joinCurrent m
  | .running => s.onStore fun st => if st.askedAt = some s.now then st.joinCurrent m else st.joinNext m

end Sys2Proof.Machine
end

