-- ==== Sys2Proof/Machine/Speech.lean ====
section
/-! DEFINITION. The Speech Stream (chapter 7): from the sample ring to one output value at each sample event. -/

namespace Sys2Proof.Machine

/-- The utterance data (R119): the total of the sample counts of a list's fragment entries. -/
def utteranceData (entries : List UttEntry) : Nat :=
  (entries.map fun e => match e with
    | .fragment f => f.count
    | .silence _ => 0).sum

/-- To *take up* an entry (R124). -/
def Stream.takeUp (st : Stream) (e : UttEntry) : Stream :=
  match e with
  | .fragment f =>
    { st with state := .playing, part := .samples, bytesLeft := f.count, scale := f.scale, half := .consume }
  | .silence ms => { st with state := .playing, part := .silence, eventsLeft := 16 * ms }

/-- From PRIMING to PLAYING when the ring holds at least the threshold (R124). -/
def Stream.prime (st : Stream) (entries : List UttEntry) : Stream :=
  match st.state with
  | .priming =>
    if st.threshold ≤ st.ring.length then
      match entries.head? with
      | some e => { st with index := 1 }.takeUp e
      | none => st
    else st
  | _ => st

/-- The Stream starts as its owner enters MAIN (R124): PRIMING with its threshold, then the ring is tested at once. -/
def Stream.start (st : Stream) (entries : List UttEntry) : Stream :=
  { st with state := .priming, threshold := min (utteranceData entries) 256 }.prime entries

/-- Channel S and the Stream start together (R114, R118, R124). -/
def State.startSpeech (s : State) : State :=
  (s.onStore fun st => { st with chanS := { st.chanS with index := 1 }.load s.utt.entries }).onStream
    fun st => st.start s.utt.entries

/-- What one sample event makes of the Stream: its output, its next state, whether an underrun is reported and whether the
utterance has ended. -/
structure StreamEvent where
  out : Int
  stream : Stream
  underrun : Bool
  ended : Bool
  deriving DecidableEq, Repr

/-- The converted value of a stored byte: v × 2^scale (R125). -/
def converted (b : Byte) (scale : Nat) : Int := signedByte b * 2 ^ scale

/-- To *advance* (R126): the next entry is taken up, or the utterance has ended. -/
def Stream.advance (st : Stream) (entries : List UttEntry) (out : Int) : StreamEvent :=
  match entries[st.index]? with
  | some e => { out, stream := { st with index := st.index + 1 }.takeUp e, underrun := false, ended := false }
  | none =>
    { out, stream := { st with index := st.index + 1, state := .idle }, underrun := false, ended := true }

/-- A CONSUME event (R125, R127). -/
def Stream.consume (st : Stream) : StreamEvent :=
  match st.ring with
  | b :: rest =>
    { out := converted b st.scale,
      stream := { st with ring := rest, lastOutput := converted b st.scale, bytesLeft := st.bytesLeft - 1,
                          half := .blend, stalled := false },
      underrun := false, ended := false }
  | [] => { out := 0, stream := { st with stalled := true }, underrun := !st.stalled, ended := false }

/-- The value a BLEND event blends towards (R125). -/
def Stream.blendTarget (st : Stream) : Int :=
  if st.bytesLeft = 0 then 0
  else match st.ring with
    | b :: _ => converted b st.scale
    | [] => 0

/-- A BLEND event (R125): the fragment's last blend leads to section TRAILING with the trailing silence's events, and on at once when
there are none. -/
def Stream.blend (st : Stream) (entries : List UttEntry) : StreamEvent :=
  let out := (st.lastOutput + st.blendTarget) / 2
  if 0 < st.bytesLeft then { out, stream := { st with half := .consume }, underrun := false, ended := false }
  else
    match entries[st.index - 1]? with
    | some (.fragment f) =>
      let trailing := { st with part := .trailing, eventsLeft := 16 * f.silence }
      if 0 < f.silence then { out, stream := trailing, underrun := false, ended := false }
      else trailing.advance entries out
    | _ => st.advance entries out

/-- One output sample event of the Stream (R124 to R127). -/
def Stream.event (st : Stream) (entries : List UttEntry) : StreamEvent :=
  match st.state with
  | .idle | .priming => { out := 0, stream := st, underrun := false, ended := false }
  | .playing =>
    match st.part with
    | .samples =>
      match st.half with
      | .consume => st.consume
      | .blend => st.blend entries
    | .trailing | .silence =>
      if st.eventsLeft ≤ 1 then { st with eventsLeft := 0 }.advance entries 0
      else { out := 0, stream := { st with eventsLeft := st.eventsLeft - 1 }, underrun := false, ended := false }

/-- The end of an S burst (R117, R119, R123, R124): the bytes join the ring, the counts advance, a priming Stream tests the
ring. -/
def State.endBurstS (s : State) (f : Flash) : State :=
  let n := s.store.chanS.burst
  let bytes := flashSpan f s.store.chanS.address n
  let s := s.onStream fun st => { st with ring := st.ring ++ bytes }
  let s := s.onStore fun st => { st with chanS := st.chanS.advance s.utt.entries n }
  s.onStream fun st => st.prime s.utt.entries

end Sys2Proof.Machine
end

