-- ==== Sys2Proof/Machine/ToneUnit.lean ====
section
/-! DEFINITION. The Tone Unit (chapter 8): the pattern table, the voices and the pulse wave. -/

namespace Sys2Proof.Machine

/-- The owner of a pattern entry (R129): none for the part's own 0 to 7. -/
def patternOwner (p : Fin 32) : Option Side :=
  if p.val < 8 then none else if p.val < 20 then some .w else some .d

/-- Whether a machine may name an entry in a cue (R40 check 6). -/
def mayUsePattern (m : Side) (p : Fin 32) : Bool :=
  match patternOwner p with
  | none => true
  | some o => o = m

/-- Every entry of a machine becomes undefined at its ATTACH (R129). -/
def Tone.undefineOf (t : Tone) (m : Side) : Tone :=
  { t with patterns := Vector.ofFn fun p => if patternOwner p = some m then none else t.patterns[p] }

/-- Step counts of a step: duration × 10,000 (R130, R136). -/
def stepCounts (p : Pattern) (k : Nat) : Nat :=
  match p.steps[k]? with
  | some st => st.duration * 10000
  | none => 0

/-- A voice beginning a pattern (R136). -/
def beginVoice (number : Fin 32) (p : Pattern) : Voice :=
  { playing := true, pattern := some number, copy := some p, stepIndex := 0, loopIndex := 0,
    countsLeft := stepCounts p 0, phase := 0 }

/-- A voice begins a pattern of the table (R136). Every cue that begins one finds it defined (R129); an undefined entry would
leave the voice as it is (log 13). -/
def State.beginPattern (s : State) (v : Fin 4) (number : Fin 32) : State :=
  match s.tone.patterns[number] with
  | some p => s.onVoice v fun _ => beginVoice number p
  | none => s

/-- A voice is stopped (R140). -/
def State.stopVoice (s : State) (v : Fin 4) : State := s.onVoice v fun _ => idleVoice

/-- The step a voice is playing. -/
def Voice.step? (v : Voice) : Option ToneStep :=
  match v.playing, v.copy with
  | true, some p => p.steps[v.stepIndex]?
  | _, _ => none

/-- The cycle length of a tone step (R138): 0 for a rest. -/
def ToneStep.cycle (st : ToneStep) : Nat := if st.halfRate then 2 * st.period else st.period

/-- The counts of each cycle in which the uninverted wave is high (R138). -/
def ToneStep.high (st : ToneStep) : Nat := if st.halfRate then 2 * st.duty else st.duty

/-- One count of the tone clock (R137, R138): step counts left falls by one, the phase counter rises by one and returns to 0 at
the cycle length; during a rest it stays at 0. The last count of a step moves the phase counter as any other, so a sample taken at
that moment before the step's end sees the old step at the phase after it (DESIGN CHOICE, log 28). -/
def Voice.tick (v : Voice) : Voice :=
  match v.step? with
  | none => v
  | some st =>
    { v with countsLeft := v.countsLeft - 1,
             phase := if st.period = 0 then 0 else if v.phase + 1 = st.cycle then 0 else v.phase + 1 }

/-- The step of a PLAYING voice is over: its step counts left have reached 0 (R137). -/
def Voice.stepOver (v : Voice) : Bool := v.playing && v.countsLeft = 0

/-- The lowest voice whose step is over. Its end is due at this very moment (R137). -/
def State.stepDue? (s : State) : Option (Fin 4) := allVoices.find? fun v => (s.tone.voices[v]).stepOver

/-- The end of a step that is not the pattern's last (R137): the next step or the next play of the list; none when the pattern
has ended. -/
def Voice.nextStep (v : Voice) : Option Voice :=
  match v.copy with
  | none => none
  | some p =>
    if v.stepIndex + 1 < p.steps.length then
      some { v with stepIndex := v.stepIndex + 1, countsLeft := stepCounts p (v.stepIndex + 1), phase := 0 }
    else if v.loopIndex < p.loops then
      some { v with stepIndex := 0, loopIndex := v.loopIndex + 1, countsLeft := stepCounts p 0, phase := 0 }
    else none

/-- High, low or silent (R138). -/
inductive Wave where
  | high
  | low
  | silent
  deriving DecidableEq, Repr

/-- The wave of a step at a phase counter (R138). -/
def ToneStep.wave (st : ToneStep) (phase : Nat) : Wave :=
  if st.period = 0 then .silent
  else if decide (phase < st.high) = st.inverse then .low else .high

/-- The wave of a voice: silent while IDLE (R138). -/
def Voice.wave (v : Voice) : Wave :=
  match v.step? with
  | some st => st.wave v.phase
  | none => .silent

/-- The value a voice hands the Mixer (R139): +A, −A or 0 with A = level × 2048. -/
def Voice.output (v : Voice) : Int :=
  match v.step? with
  | none => 0
  | some st =>
    match st.wave v.phase with
    | .high => (st.level : Int) * 2048
    | .low => -((st.level : Int) * 2048)
    | .silent => 0

/-- The patterns of the panel's own feedback (R131, R141). -/
def clickPattern : Fin 32 := 0
def acceptPattern : Fin 32 := 1
def rejectPattern : Fin 32 := 2
def wakePattern : Fin 32 := 6

end Sys2Proof.Machine
end

