-- ==== Sys2Proof/Machine/Utterance.lean ====
section
/-! DEFINITION. The Utterance Assembler (chapter 6): from phrase items to the utterance list. -/

namespace Sys2Proof.Machine

/-! ### Numbers and unit words (R103 to R105) -/

/-- Step 5 of R104: the last two digits. -/
def tensCodes (wordOrder : Bool) (r : Nat) : List Nat :=
  if r = 0 then []
  else if r < 20 then [r]
  else if r % 10 = 0 then [18 + r / 10]
  else if wordOrder then [r % 10, 30, 18 + r / 10]
  else [18 + r / 10, r % 10]

/-- The number expansion of `n`, 0 to 9999, under the ORDER and JOIN flags (R104). -/
def numberCodes (wordOrder join : Bool) (n : Nat) : List Nat :=
  if n = 0 then [0]
  else
    let thousands := if 0 < n / 1000 then [n / 1000, 29] else []
    let hundreds := if 0 < n % 1000 / 100 then [n % 1000 / 100, 28] else []
    let link := if 0 < n % 100 ∧ join ∧ 100 ≤ n then [30] else []
    thousands ++ hundreds ++ link ++ tensCodes wordOrder (n % 100)

/-- The unit word of unit `u` for a value: singular for 1, plural for every other (R105). -/
def unitWord (u n : Nat) : Nat := if n = 1 then 32 + 2 * u else 33 + 2 * u

/-- The units the fields use (R103). -/
def unitMinute : Nat := 0
def unitHour : Nat := 1
def unitDegree : Nat := 2
def unitRevolution : Nat := 3

/-! ### Fields (R106 to R108) -/

/-- FIELD REMAINING (R106). -/
def remainingCodes (wordOrder join : Bool) (m : Nat) : List Nat :=
  if m < 60 then numberCodes wordOrder join m ++ [unitWord unitMinute m]
  else
    numberCodes wordOrder join (m / 60) ++ [unitWord unitHour (m / 60)] ++
      (if 0 < m % 60 then 30 :: numberCodes wordOrder join (m % 60) ++ [unitWord unitMinute (m % 60)] else [])

/-- FIELD TEMPERATURE (R107). -/
def temperatureCodes (wordOrder join : Bool) (t : Int) : List Nat :=
  (if t < 0 then [31] else []) ++ numberCodes wordOrder join t.natAbs ++ [unitWord unitDegree t.natAbs]

/-- The place of a phase in the order IDLE to FAULT (R108). -/
def phaseIndex : MachinePhase → Nat
  | .idle => 0
  | .fill => 1
  | .wash => 2
  | .rinse => 3
  | .spin => 4
  | .dry => 5
  | .cool => 6
  | .done => 7
  | .fault => 8

/-- The codes of a FIELD item for a context (R106 to R108). -/
def fieldCodes (wordOrder join : Bool) (c : Context) : ContextField → List Nat
  | .remaining => remainingCodes wordOrder join c.remaining
  | .temperature => temperatureCodes wordOrder join c.temperature
  | .speed => numberCodes wordOrder join c.speed ++ [unitWord unitRevolution c.speed]
  | .program => [c.programs.getD c.index 0]
  | .phase => [69 + phaseIndex c.phase]

/-- What an item yields: codes to look up, and silences (R102). -/
inductive Piece where
  | code (c : Nat)
  | silence (ms : Nat)
  deriving DecidableEq, Repr

/-- The pieces of a phrase item (R102, R105, R109). -/
def itemPieces (wordOrder join : Bool) (c : Context) : PhraseItem → List Piece
  | .fragment code => [.code code]
  | .number n u =>
    (numberCodes wordOrder join n ++ (u.map fun u => unitWord u n).toList).map Piece.code
  | .field f => (fieldCodes wordOrder join c f).map Piece.code
  | .pause p => [.silence (10 * p)]

/-! ### Lookup, limit and result (R110 to R113) -/

/-- The limit of the utterance list (R112). -/
def maxEntries : Nat := 48

/-- The lookup of a code with its fallback to language 0 (R110). -/
def State.findFragment (s : State) (language code : Nat) : Option FragEntry :=
  match s.lookupFragment language code with
  | some e => some e
  | none => if language = 0 then none else s.lookupFragment 0 code

/-- An assembly under way: the entries so far, whether a code was skipped, whether the list was cut. -/
structure Assembly where
  entries : List UttEntry
  skipped : Bool
  cut : Bool
  deriving DecidableEq, Repr

/-- An entry is due: it is appended, or the list is cut at its limit (R112). -/
def Assembly.push (a : Assembly) (e : UttEntry) : Assembly :=
  if a.entries.length < maxEntries then { a with entries := a.entries ++ [e] } else { a with cut := true }

/-- One piece taken into an assembly; nothing is taken after a cut (R110, R112). -/
def Assembly.take (s : State) (language : Nat) (a : Assembly) (p : Piece) : Assembly :=
  if a.cut then a
  else match p with
    | .silence ms => a.push (.silence ms)
    | .code c =>
      match s.findFragment language c with
      | some e => a.push (.fragment e)
      | none => { a with skipped := true }

/-- The ORDER and JOIN flags of a language, as the catalog holds them (R111). -/
def State.languageFlags (s : State) (language : Nat) : Bool × Bool :=
  match s.store.catalog with
  | some cat =>
    match cat.languages[language]? with
    | some l => (l.wordOrder, l.join)
    | none => (false, false)
  | none => (false, false)

/-- The assembly of a list of items from a context in its language (R101, R102). -/
def State.assembleItems (s : State) (c : Context) (items : List PhraseItem) : Assembly :=
  let flags := s.languageFlags c.language
  (items.flatMap (itemPieces flags.1 flags.2 c)).foldl (Assembly.take s c.language)
    { entries := [], skipped := false, cut := false }

/-- The result is partial or empty (R113). -/
def Assembly.isPartial (a : Assembly) : Bool := a.skipped || a.cut || a.entries.isEmpty

/-- The context an assembly reads (R101): the origin machine's, or the focus holder's for a panel cue. A panel cue always
finds a focus holder (R101); without one its fresh context stands in (log 13). -/
def State.assemblyContext (s : State) (c : Cue) : Context :=
  match c.origin with
  | .machine m => s.context m
  | .panel => match s.focus with
    | some m => s.context m
    | none => resetContext

/-- The assembly of a starting cue (R100). -/
def State.assemble (s : State) (c : Cue) : Assembly :=
  s.assembleItems (s.assemblyContext c) (c.speech.getD [])

end Sys2Proof.Machine
end

