-- ==== Sys2Proof/Machine/Scheduler.lean ====
section
/-! DEFINITION. The Cue Scheduler (chapters 3 and 4): the moves of a cue, fences, the panel entries and the arbiter. -/

namespace Sys2Proof.Machine

/-! ### Rank, and the cue that takes the display (R60, R164, R166) -/

/-- The rank of a class, 1 the highest (R60). -/
def CueClass.rank : CueClass → Nat
  | .alarm => 1
  | .echo => 2
  | .prompt => 3
  | .chime => 4

/-- One cue outranks another (R60). -/
def Cue.outranks (a b : Cue) : Bool := a.cls.rank < b.cls.rank

/-- Before another in the choice of a scene or ring cue: higher rank, then the earlier latest start (R164, R166). -/
def Cue.shownBefore (a b : Cue) : Bool :=
  a.outranks b || (a.cls.rank = b.cls.rank && a.latestStart < b.latestStart)

/-- The first of a list under `before`. -/
def pickBest (before : Cue → Cue → Bool) : List (Fin 24 × Cue) → Option (Fin 24 × Cue)
  | [] => none
  | x :: rest => some (rest.foldl (fun best y => if before y.2 best.2 then y else best) x)

/-- The scene cue (R164). -/
def State.sceneCue (s : State) : Option (Fin 24 × Cue) :=
  pickBest Cue.shownBefore (s.tableCues.filter fun p => p.2.onStage && p.2.scene.isSome)

/-- The ring cue (R166). -/
def State.ringCue (s : State) : Option (Fin 24 × Cue) :=
  pickBest Cue.shownBefore (s.tableCues.filter fun p => p.2.onStage && p.2.lamp.isSome)

/-- The ring cue is chosen afresh; the effect of a cue the ring did not last show begins from its start now (R166). -/
def State.chooseRing (s : State) : State :=
  s.onDisplay fun d =>
    match s.ringCue with
    | none => { d with ringEffect := none }
    | some (i, _) =>
      match d.ringEffect with
      | some e => if e.cue = i then d else { d with ringEffect := some { cue := i, start := s.now } }
      | none => { d with ringEffect := some { cue := i, start := s.now } }

/-- A cue has left PLAYING (R169): the idle timer restarts when no cue is PLAYING. -/
def State.leftPlaying (s : State) : State := if s.anyPlaying then s else s.restartIdle

/-! ### Fences and entry to REPORTING (R43, R49) -/

/-- A live cue of machine `m` stands before a place of its posting order (R43). -/
def State.liveBefore (s : State) (m : Side) (place : Nat) : Bool :=
  s.tableCues.any fun p => p.2.ofMachine m && p.2.live && p.2.posting < place

/-- A stored marker of machine `m` stands before a place (R43). -/
def State.markerBefore (s : State) (m : Side) (place : Nat) : Bool :=
  (s.sched.markers.get m).any fun k => k < place

/-- A HELD cue of machine `m` with no marker before it (R43). -/
def State.released (s : State) (m : Side) (c : Cue) : Bool :=
  c.state = .held && c.ofMachine m && !s.markerBefore m c.posting

/-- Every HELD cue of `m` with no marker before it becomes WAITING (R43). -/
def State.releaseHeld (s : State) (m : Side) : State :=
  let freed := s.tableCues.any fun p => s.released m p.2
  let s' := s.onSched fun sc =>
    { sc with table := Vector.ofFn fun i =>
        (sc.table[i]).map fun c => if s.released m c then { c with state := .waiting } else c }
  if freed then s'.setArb else s'

/-- Markers with no live cue before them are removed, and the cues behind them become WAITING (R43). -/
def State.checkFences (s : State) (m : Side) : State :=
  (s.onSched fun sc => { sc with markers := sc.markers.modify m fun ms => ms.filter (s.liveBefore m) }).releaseHeld m

/-- A cue record entering REPORTING (R49 step 1): outcome set, phase and end cause cleared; no timer of its runs on. -/
def Cue.toReporting (c : Cue) (o : CueOutcome) : Cue :=
  { c with state := .reporting, outcome := some o, phase := none, endCause := none, holdTimer := none, gapTimer := none,
           fade := none }

/-- A table cue enters REPORTING (R49): outcome, report on its origin link, fence check. A cue that leaves WAITING so ends
its reservations (R69). -/
def State.enterReporting (s : State) (i : Fin 24) (o : CueOutcome) : State :=
  match s.sched.table[i] with
  | none => s
  | some c =>
    let s := (s.setCue (.slot i) (some (c.toReporting o))).endReservations (.slot i)
    match c.origin with
    | .machine m => (s.onLink m fun l => l.joinDone c.uid c.id o c.flags c.preempts).checkFences m
    | .panel => s

/-! ### Leaving PLAYING: fades, ends of play, gaps (R68, R74 to R77) -/

/-- A cue record entering ENDING (R68, R76): the phase is lost, a fade record created (R146), the hold timer stopped (R73). -/
def Cue.toEnding (c : Cue) (cause : EndCause) (now : Nat) : Cue :=
  { c with state := .ending, phase := none, endCause := some cause, holdTimer := none,
           fade := some { factor := 256, timer := now + Config.fadeStep } }

/-- A PLAYING cue enters ENDING. -/
def State.enterEnding (s : State) (r : CueRef) (cause : EndCause) : State :=
  ((s.modCue r fun c => c.toEnding cause s.now).leftPlaying).chooseRing

/-- A cue gives up the speech path (R74, R76): channel S stops, the utterance list is released (R99). -/
def State.freePath (s : State) (r : CueRef) : State :=
  if s.sched.path.holder = some r then
    (((s.onPath fun x => { x with holder := none }).stopSpeech).setUtt noUtterance).setArb
  else s

/-- A cue gives up its voice, which goes idle (R74, R76, R140). -/
def State.freeVoice (s : State) (r : CueRef) : State :=
  match s.voiceOf r with
  | none => s
  | some v => ((s.onVoiceRes v fun x => { x with holder := none }).stopVoice v).setArb

/-- A cue frees every resource it holds; an arbitration follows if any was freed. -/
def State.freeResources (s : State) (r : CueRef) : State := (s.freePath r).freeVoice r

/-- The end of a gap (R75, R45). -/
def State.endGap (s : State) (i : Fin 24) : State :=
  match s.sched.table[i] with
  | none => s
  | some c =>
    if c.deadlinePassed then s.enterReporting i .completed
    else (s.setCue (.slot i) (some { c with state := .waiting, gapTimer := none })).setArb

/-- Entry to GAP (R75): repeats left falls by one; a gap of 0 ends as it begins. -/
def State.enterGap (s : State) (i : Fin 24) (c : Cue) : State :=
  let c' := { c with state := .gap, phase := none, holdTimer := none, repeatsLeft := c.repeatsLeft - 1 }
  if c.gapLength = 0 then (s.setCue (.slot i) (some c')).endGap i
  else s.setCue (.slot i) (some { c' with gapTimer := some (s.now + c.gapLength * Config.unit100) })

/-- The end of play (R74). -/
def State.endOfPlay (s : State) (r : CueRef) : State :=
  match s.cue? r with
  | none => s
  | some c =>
    let s := s.freeResources r
    let s := match r with
      | .slot i => if 0 < c.repeatsLeft then s.enterGap i c else s.enterReporting i .completed
      | .narration | .feedback => s.setCue r none
    s.leftPlaying.chooseRing

/-- What becomes of a cue at the end of its fade (R77). -/
def State.fadeResult (s : State) (r : CueRef) (c : Cue) : State :=
  match r with
  | .narration | .feedback => s.setCue r none
  | .slot i =>
    match c.endCause with
    | some .displaced => s.enterReporting i .displaced
    | some .preempted =>
      if c.deadlinePassed then s.enterReporting i .expired
      else (s.setCue r (some { c with state := .waiting, endCause := none, fade := none })).setArb
    | some .purged => s.setCue r none
    | some .cancelled | none => s.enterReporting i .cancelled

/-- The end of a fade (R76, R77). -/
def State.endFade (s : State) (r : CueRef) : State :=
  match s.cue? r with
  | none => s
  | some c => ((s.freeResources r).fadeResult r c).chooseRing

/-! ### Phases of a playing cue (R71 to R73) -/

/-- Under what timing the tone part plays in this play: with no speech playing the timing is ignored (R72). -/
def Cue.timing? (c : Cue) : Option ToneTiming :=
  match c.tone with
  | some t => if c.speechPlays then some t.timing else none
  | none => none

/-- The first phase of a play (R71, R72). -/
def Cue.firstPhase (c : Cue) : CuePhase :=
  match c.timing? with
  | some .before => .lead
  | _ => .main

/-- The voice of a cue begins its pattern (R136). -/
def State.beginTone (s : State) (r : CueRef) : State :=
  match s.cue? r, s.voiceOf r with
  | some c, some v => match c.tone with
    | some t => s.beginPattern v t.pattern
    | none => s
  | _, _ => s

/-- The utterance of a cue has ended (R71 to R73). -/
def State.utteranceEnded (s : State) (r : CueRef) : State :=
  match s.cue? r with
  | none => s
  | some c =>
    if c.state = .playing ∧ c.phase = some .main ∧ c.speechPlays = true then
      match c.timing? with
      | some .together =>
        if c.patternEnded then s.endOfPlay r
        else s.modCue r fun c => { c with utteranceEnded := true }
      | some .after => ((s.modCue r fun c => { c with phase := some .tail }).stopSpeech).beginTone r
      | _ => s.endOfPlay r
    else s

/-- The utterance begins at the entry to MAIN; an empty one ends there (R72, R114). -/
def State.beginUtterance (s : State) (r : CueRef) : State :=
  if s.utt.entries.isEmpty then s.utteranceEnded r else s.startSpeech

/-- The pattern of a cue has ended (R71 to R73). -/
def State.patternEnded (s : State) (r : CueRef) : State :=
  match s.cue? r with
  | none => s
  | some c =>
    if c.state = .playing then
      match c.phase, c.timing? with
      | some .lead, _ => (s.modCue r fun c => { c with phase := some .main }).beginUtterance r
      | some .tail, _ => s.endOfPlay r
      | some .main, none => if c.tone.isSome then s.endOfPlay r else s
      | some .main, some .together =>
        if c.utteranceEnded then s.endOfPlay r
        else s.modCue r fun c => { c with patternEnded := true }
      | some .main, some _ => s
      | none, _ => s
    else s

/-- The hold time of a cue has passed (R72, R73). -/
def State.holdEnded (s : State) (r : CueRef) : State :=
  match s.cue? r with
  | none => s
  | some c => if c.state = .playing ∧ c.holdTimer.isSome then s.endOfPlay r else s

/-! ### Starting a cue (R66) -/

/-- Whether a cue's speech part adds a need: not while the store is FAILED (R60). -/
def State.needsPath (s : State) (c : Cue) : Bool := c.speech.isSome && s.store.state = .ok

/-- Whether a cue needs a voice (R60). -/
def Cue.needsVoice (c : Cue) : Bool := c.tone.isSome

/-- The record of a cue at its start (R66 steps 3 to 5). PARTIAL is set when the speech part is left out (R80); panel cues
keep no flags (R79). -/
def Cue.started (c : Cue) (speechPlays : Bool) (serial now : Nat) : Cue :=
  let c' := { c with state := .playing, latestStart := serial, speechPlays, utteranceEnded := false,
                     patternEnded := false, gapTimer := none, fade := none, endCause := none,
                     holdTimer := if speechPlays || c.tone.isSome then none
                       else some (now + c.hold * Config.unit100) }
  let c'' := { c' with phase := some c'.firstPhase }
  if c.speech.isSome && !speechPlays && c.origin ≠ .panel then c''.markPartial else c''

/-- The cue of a candidate: a table cue, or the pending cue of a panel entry. -/
def State.candidate? (s : State) : CueRef → Option Cue
  | .slot i => s.sched.table[i]
  | .narration => s.sched.narration.pending
  | .feedback => s.sched.feedback.pending

/-- The started cue takes its place: a panel cue moves from the pending to the current position (R66 step 3). -/
def Sched.placeStarted (sc : Sched) (r : CueRef) (c : Cue) : Sched :=
  match r with
  | .slot i => { sc with table := sc.table.set i (some c) }
  | .narration => { sc with narration := { pending := none, current := some c } }
  | .feedback => { sc with feedback := { pending := none, current := some c } }

/-- The last-served marker of a table cue's class becomes its origin (R66 step 2). -/
def Sched.serveMarker (sc : Sched) (c : Cue) : Sched :=
  match c.origin with
  | .panel => sc
  | .machine m =>
    match c.cls with
    | .alarm => { sc with lastAlarm := some m }
    | .prompt => { sc with lastPrompt := some m }
    | .chime => { sc with lastChime := some m }
    | .echo => sc

/-- The assembly of R66 step 4: the list and its owner are set, and PARTIAL on a table cue (R113). -/
def State.assembleFor (s : State) (r : CueRef) (c : Cue) : State :=
  let a := s.assemble c
  let s := s.setUtt { entries := a.entries, owner := some r }
  if a.isPartial then s.markTableCue r Cue.markPartial else s

/-- The sound of a started cue's first phase begins (R71, R72). -/
def State.beginFirstPhase (s : State) (r : CueRef) (c : Cue) : State :=
  let s := match c.timing? with
    | some .after => s
    | _ => if c.tone.isSome then s.beginTone r else s
  if c.speechPlays ∧ c.firstPhase = .main then s.beginUtterance r else s

/-- A candidate starts (R66), on voice `v` if it needs one. -/
def State.startCue (s : State) (r : CueRef) (v : Option (Fin 4)) : State :=
  match s.candidate? r with
  | none => s
  | some c =>
    let plays := s.needsPath c
    let c' := c.started plays s.sched.nextStart s.now
    let s := if plays then s.onPath fun x => { x with holder := some r } else s
    let s := match v with
      | some v => s.onVoiceRes v fun x => { x with holder := some r }
      | none => s
    let s := s.dropReservations r
    let s := s.onSched fun sc =>
      { (sc.serveMarker c).placeStarted r c' with nextStart := sc.nextStart + 1 }
    let s := if plays then s.assembleFor r c else s
    let s := (s.wakeBacklight.stopIdle).chooseRing
    s.beginFirstPhase r c'

/-! ### The panel entries (R53 to R55) -/

/-- A cue of class ECHO with origin panel (R53). -/
def panelCue (uid : Nat) (speech : Option (List PhraseItem)) (tone : Option TonePart) : Cue :=
  { uid, id := 0, origin := .panel, cls := .echo, group := 0, deadline := none, repeats := 0, gapLength := 0, speech, tone,
    scene := none, lamp := none, hold := 1, state := .waiting, phase := none, preempts := 0, repeatsLeft := 0,
    flags := noFlags, endCause := none, deadlinePassed := false, posting := 0, outcome := none, latestStart := 0,
    speechPlays := false, utteranceEnded := false, patternEnded := false, holdTimer := none, gapTimer := none,
    fade := none }

/-- A PLAYING current cue of an entry enters ENDING with end cause PREEMPTED (R54, R55). -/
def State.supersede (s : State) (r : CueRef) : State :=
  match s.cue? r with
  | none => s
  | some c => if c.state = .playing then s.enterEnding r .preempted else s

/-- The narration entry is set (R54). Reservations of a discarded pending cue end (R69). -/
def State.setNarration (s : State) (items : List PhraseItem) : State :=
  let s := s.endReservations .narration
  let s := s.onSched fun sc =>
    { sc with narration := { sc.narration with pending := some (panelCue sc.nextUid (some items) none) },
              nextUid := sc.nextUid + 1 }
  (s.supersede .narration).setArb

/-- The feedback entry is set to a built-in pattern (R55, R141). -/
def State.setFeedback (s : State) (p : Fin 32) : State :=
  let s := s.onSched fun sc =>
    { sc with feedback := { sc.feedback with
                pending := some (panelCue sc.nextUid none (some { pattern := p, timing := .together })) },
              nextUid := sc.nextUid + 1 }
  (s.supersede .feedback).setArb

/-! ### The arbiter (R61 to R70) -/

/-- How a need is judged (R64, R65): for a voice, `voice` says which. -/
inductive Judgement where
  | notNeeded
  | available (voice : Option (Fin 4))
  | preemptable (victim : CueRef) (voice : Option (Fin 4))
  | blocked
  deriving DecidableEq, Repr

/-- The need of the speech path (R64). -/
def State.judgePath (s : State) (r : CueRef) (c : Cue) : Judgement :=
  if s.needsPath c = false then .notNeeded
  else match s.sched.path.holder with
    | none =>
      if s.sched.path.reservation = none ∨ s.sched.path.reservation = some r then .available none else .blocked
    | some h =>
      match s.cue? h with
      | none => .blocked
      | some x => if x.state = .playing ∧ c.outranks x then .preemptable h none else .blocked

/-- The voice available to a cue, one reserved for it first, then the lowest free and unreserved one (R65 step 1). Of two free
voices reserved for it, which R65 does not choose between, the lower is the model's choice (DESIGN CHOICE, log 26). -/
def State.availableVoice (s : State) (r : CueRef) : Option (Fin 4) :=
  match tableVoices.find? fun v => (s.sched.voices[v]).holder.isNone && (s.sched.voices[v]).reservedFor r with
  | some v => some v
  | none =>
    tableVoices.find? fun v => (s.sched.voices[v]).holder.isNone && (s.sched.voices[v]).reservation.isNone

/-- A voice reserved for the cue is held by a cue in ENDING (R65 step 2). -/
def State.reservedVoiceFading (s : State) (r : CueRef) : Bool :=
  tableVoices.any fun v =>
    (s.sched.voices[v]).reservedFor r &&
      ((s.sched.voices[v]).holder.bind s.cue?).any fun x => x.state = .ending

/-- The voices whose holder is PLAYING and that carry no reservation, with holder and its cue (R65 step 3). -/
def State.victimVoices (s : State) : List (Fin 4 × CueRef × Cue) :=
  tableVoices.filterMap fun v =>
    match (s.sched.voices[v]).reservation, (s.sched.voices[v]).holder with
    | none, some h => match s.cue? h with
      | some x => if x.state = .playing then some (v, h, x) else none
      | none => none
    | _, _ => none

/-- The better victim: the lower rank, then the later latest start (R65 step 3). -/
def victimBefore (a b : Cue) : Bool :=
  b.cls.rank < a.cls.rank || (a.cls.rank = b.cls.rank && b.latestStart < a.latestStart)

/-- The voice victim (R65 step 3). -/
def State.voiceVictim (s : State) : Option (Fin 4 × CueRef × Cue) :=
  match s.victimVoices with
  | [] => none
  | x :: rest => some (rest.foldl (fun best y => if victimBefore y.2.2 best.2.2 then y else best) x)

/-- The need of a voice among 1 to 3 (R65). -/
def State.judgeVoice (s : State) (r : CueRef) (c : Cue) : Judgement :=
  if c.needsVoice = false then .notNeeded
  else match s.availableVoice r with
    | some v => .available (some v)
    | none =>
      if s.reservedVoiceFading r then .blocked
      else match s.voiceVictim with
        | some (v, h, x) => if c.outranks x then .preemptable h (some v) else .blocked
        | none => .blocked

/-- The victim a judgement names. -/
def Judgement.victim? : Judgement → Option CueRef
  | .preemptable h _ => some h
  | _ => none

/-- The voice a judgement chose. -/
def Judgement.voice? : Judgement → Option (Fin 4)
  | .available v => v
  | .preemptable _ v => v
  | _ => none

/-- The end cause of a preempted cue with its new preempt count (R68 step 2). -/
def victimCause (c : Cue) : EndCause :=
  match c.cls with
  | .chime => .displaced
  | .prompt => if 3 ≤ c.preempts then .displaced else .preempted
  | .alarm | .echo => .preempted

/-- A victim is preempted (R68 steps 1 to 3): a table cue's count rises; a narration cue has no count. -/
def State.preemptVictim (s : State) (h : CueRef) : State :=
  match s.cue? h with
  | none => s
  | some c =>
    let c' := match h with
      | .slot _ => { c with preempts := c.preempts + 1 }
      | _ => c
    (s.setCue h (some c')).enterEnding h (victimCause c')

/-- A candidate preempts (R68): its victims, each once, enter ENDING, and the resources it needs are reserved for it. -/
def State.preempt (s : State) (r : CueRef) (path voice : Judgement) : State :=
  let victims := (path.victim?.toList ++ voice.victim?.toList).dedup
  let s := victims.foldl State.preemptVictim s
  let s := match path with
    | .notNeeded => s
    | _ => s.onPath fun x => { x with reservation := some r }
  match voice.voice? with
  | some v => s.onVoiceRes v fun x => { x with reservation := some r }
  | none => s

/-- Whether a judgement lets a candidate start or preempt. -/
def Judgement.isBlocked : Judgement → Bool
  | .blocked => true
  | _ => false

/-- A candidate's turn (R63, R66, R67): it starts, preempts, or stays WAITING. -/
def State.serve (s : State) (r : CueRef) : State :=
  match s.candidate? r with
  | none => s
  | some c =>
    if c.state = .waiting then
      let path := s.judgePath r c
      let voice := s.judgeVoice r c
      if path.isBlocked || voice.isBlocked then s
      else if path.victim?.isSome || voice.victim?.isSome then s.preempt r path voice
      else s.startCue r voice.voice?
    else s

/-- Whether a WAITING cue is a candidate: not one that needs the speech path while a store check is pending or running
(R62). -/
def State.isCandidate (s : State) (c : Cue) : Bool := c.state = .waiting && !(s.checkActive && s.needsPath c)

/-- The candidates of one machine in one class, in posting order (R63). -/
def State.classCandidates (s : State) (cls : CueClass) (m : Side) : List CueRef :=
  ((s.tableCues.filter fun p => s.isCandidate p.2 && p.2.cls = cls && p.2.origin = .machine m).insertionSort
    fun a b => a.2.posting ≤ b.2.posting).map fun p => .slot p.1

/-- The machine served first in a class: the one its last-served marker does not name; W while it is none (R63). -/
def firstSide (last : Option Side) : Side :=
  match last with
  | some m => m.other
  | none => .w

/-- The candidates of a class: the first machine's, then the other's (R63). -/
def State.classOrder (s : State) (cls : CueClass) (last : Option Side) : List CueRef :=
  s.classCandidates cls (firstSide last) ++ s.classCandidates cls (firstSide last).other

/-- The pending narration cue as a candidate (R62). -/
def State.narrationCandidates (s : State) : List CueRef :=
  match s.sched.narration.pending with
  | some c => if s.isCandidate c then [.narration] else []
  | none => []

/-- The candidates in the order of service (R63). -/
def State.candidates (s : State) : List CueRef :=
  s.classOrder .alarm s.sched.lastAlarm ++ s.narrationCandidates ++ s.classOrder .prompt s.sched.lastPrompt ++
    s.classOrder .chime s.sched.lastChime

/-- The pending feedback cue starts as soon as voice 0 is free (R70). -/
def State.serveFeedback (s : State) : State :=
  if s.sched.feedback.pending.isSome && (s.sched.voices[(0 : Fin 4)]).holder.isNone then
    s.startCue .feedback (some 0)
  else s

/-- One arbitration (R61, R63, R70): the candidates are fixed when it is taken. -/
def State.arbitrate (s : State) : State := (s.candidates.foldl State.serve s).serveFeedback

/-- Arbitrations are taken while one is due (R61): a start may set off another by an empty utterance's end. The bound is never
met (log 18). -/
def State.arbitrateFor : Nat → State → State
  | 0, s => s.onSched fun sc => { sc with arbDue := false }
  | n + 1, s =>
    if s.sched.arbDue then
      State.arbitrateFor n (State.arbitrate (s.onSched fun sc => { sc with arbDue := false }))
    else s

/-- The most arbitrations one event can set off, with room to spare (log 18). -/
def arbitrationBound : Nat := 1024

/-- Take the arbitrations that are due. -/
def State.settleArb (s : State) : State := State.arbitrateFor arbitrationBound s

/-! ### After an event (log 6) -/

/-- What follows every event: the arbitrations set off (R61), a check that can begin (R91, unless channel G is granted first), the
port arbiter (R116), and the two transmitters (R15). A report so begun reads its content here (R14); what a PROFILE request of the same
moment does to it is `Link.retakeProfile` (R27, log 25). -/
def State.settle (s : State) : State :=
  ((((s.settleArb.grantRace).tryBeginCheck).portDecide).txChoose .w).txChoose .d

/-! ### Lifetimes, cancelling and purging (R44 to R47, R56) -/

/-- A cue's deadline passes (R44, R45). -/
def State.deadlinePasses (s : State) (i : Fin 24) : State :=
  match s.sched.table[i] with
  | none => s
  | some c =>
    if c.deadline.isNone then s
    else match c.state with
      | .waiting | .held => s.enterReporting i .expired
      | .playing | .gap | .ending => s.setCue (.slot i) (some { c with deadlinePassed := true })
      | .reporting => s

/-- One selected cue is cancelled according to its state at its turn (R47). -/
def State.cancelCue (s : State) (i : Fin 24) : State :=
  match s.sched.table[i] with
  | none => s
  | some c =>
    match c.state with
    | .waiting | .held | .gap => s.enterReporting i .cancelled
    | .playing => s.enterEnding (.slot i) .cancelled
    | .ending => s.setCue (.slot i) (some { c with endCause := some .cancelled })
    | .reporting => s

/-- Whether a cancel's mode selects a cue (R46). -/
def CancelMode.selects (m : CancelMode) (c : Cue) : Bool :=
  match m with
  | .byId id => c.id = id
  | .byGroup g => c.group = g
  | .all => true

/-- The slots a cancel of machine `m` selects, in posting order (R46). -/
def State.cancelSelection (s : State) (m : Side) (mode : CancelMode) : List (Fin 24) :=
  ((s.tableCues.filter fun p => p.2.ofMachine m && p.2.live && mode.selects p.2).insertionSort
    fun a b => a.2.posting ≤ b.2.posting).map Prod.fst

/-- One cue of an attaching machine (R56). -/
def State.purgeCue (s : State) (m : Side) (i : Fin 24) : State :=
  match s.sched.table[i] with
  | none => s
  | some c =>
    if c.ofMachine m then
      match c.state with
      | .waiting | .held | .gap | .reporting => (s.setCue (.slot i) none).endReservations (.slot i)
      | .playing => s.enterEnding (.slot i) .purged
      | .ending => s.setCue (.slot i) (some { c with endCause := some .purged })
    else s

/-- The purge by ATTACH (R56): every cue of the machine, its fence markers, its posting sequence. -/
def State.purge (s : State) (m : Side) : State :=
  ((List.finRange 24).foldl (fun s i => s.purgeCue m i) s).onSched fun sc =>
    { sc with markers := sc.markers.set m [], nextPosting := sc.nextPosting.set m 0 }

/-- One expiry of a cue's fade timer (R146): F falls by 16; at 0 the fade ends. -/
def State.fadeExpiry (s : State) (r : CueRef) : State :=
  match s.cue? r with
  | none => s
  | some c =>
    match c.state, c.fade with
    | .ending, some f =>
      if f.factor ≤ 16 then s.endFade r
      else s.setCue r (some { c with fade := some { factor := f.factor - 16, timer := f.timer + Config.fadeStep } })
    | _, _ => s

end Sys2Proof.Machine
end

