-- ==== Sys2Proof/Machine/Check.lean ====
section
/-! DEFINITION. The end of a catalog check, and the end of a store port burst (chapters 5 and 7). -/

namespace Sys2Proof.Machine

/-- Store state and catalog take the check's result (R94). -/
def Store.takeResult (st : Store) (r : Option Catalog) : Store :=
  match r with
  | some c => { st with state := .ok, catalog := some c, port := .idle }
  | none => { st with state := .failed, catalog := none, port := .idle }

/-- The fault of a store going from OK to FAILED (R96). -/
def State.storeFault (s : State) : State := s.onAttachedLinks Link.storeFault

/-- Both contexts' languages are clamped to the language count (R28). -/
def State.clampLanguages (s : State) : State :=
  { s with ctx := s.ctx.mapBoth fun c => { c with language := min c.language (s.languageCount - 1) } }

/-- The store state as a byte (01 §1.9). -/
def storeByte : StoreState → Byte
  | .ok => 0
  | .failed => 1

/-- The deferred STORE_CHECK reply of a waiting link (R95 step 5). -/
def State.answerWaiter (s : State) (m : Side) : State :=
  if s.store.currentWaiters.get m then s.finishDeferred m [storeByte s.store.state] else s

/-- The check state at the end of a check (R95 step 6): IDLE, or PENDING for the next waiters. -/
def State.nextCheck (s : State) : State :=
  if s.store.nextWaiters = .both false then
    s.onStore fun st => { st with check := .idle, currentWaiters := .both false, askedAt := none }
  else
    (s.onStore fun st =>
      { st with currentWaiters := st.nextWaiters, nextWaiters := .both false, askedAt := none }).checkPending

/-- The end of the running check (R95): the hand-offs in their order, then an arbitration. -/
def State.endCheck (s : State) (f : Flash) : State :=
  match s.store.check with
  | .idle | .pending => s
  | .running =>
    let wasOk := s.store.state
    let s := s.onStore fun st => st.takeResult (runCheck f)
    let s := if wasOk = .ok ∧ s.store.state = .failed then s.storeFault else s
    let s := s.clampLanguages
    let s := { s with partState := .ready }
    let s := (s.answerWaiter .w).answerWaiter .d
    s.nextCheck.setArb

/-- The end of the burst in progress (R117): the bytes are delivered, the counts advance, the port user becomes IDLE. With no
burst in progress nothing ends. -/
def State.endBurst (s : State) (f : Flash) : State :=
  match s.store.port with
  | .idle | .check => s
  | .s => (s.endBurstS f).onStore fun st => { st with port := .idle }
  | .g => (s.endBurstG f).onStore fun st => { st with port := .idle }

end Sys2Proof.Machine
end

