-- ==== Sys2Proof/Machine/Screen.lean ====
section
/-! DEFINITION. The Display Unit (chapter 10): bands, scene slots, the frame, the lamps and the backlight. -/

namespace Sys2Proof.Machine

/-! ### Bands (R159, R160) -/

/-- The glyph a character code is drawn with (R159). -/
def glyphOf (c : Byte) : Config.Glyph :=
  if (0x20 ≤ c.toNat ∧ c.toNat ≤ 0x7E) ∨ (0x80 ≤ c.toNat ∧ c.toNat ≤ 0x9F) then .code c else .box

/-- Row `r` of a run of glyphs whose first dot is `pos`, each 6 dots wide. -/
def glyphsRow (gs : List Config.Glyph) (r pos : Nat) : BitVec 128 :=
  match gs with
  | [] => 0
  | g :: rest => ((Config.glyphRow g r).setWidth 128 <<< (122 - pos)) ||| glyphsRow rest r (pos + 6)

/-- The glyph of a decimal digit (log 15). -/
def digitGlyph (d : Nat) : Config.Glyph := .code (byteOf (0x30 + d))

/-- The colon's glyph (log 15). -/
def colonGlyph : Config.Glyph := .code 0x3A

/-- Remaining minutes as H:MM, without a leading zero (R159). -/
def timeGlyphs (m : Nat) : List Config.Glyph :=
  (if 10 ≤ m / 60 then [digitGlyph (m / 60 / 10)] else []) ++
    [digitGlyph (m / 60 % 10), colonGlyph, digitGlyph (m % 60 / 10), digitGlyph (m % 60 % 10)]

/-- The blink phase is hidden in the second half of each second since the end of the reset (R159). -/
def State.blinkHidden (s : State) : Bool := 500 ≤ s.now / Config.msec % 1000

/-- Whether a phase shows the remaining time (R159). -/
def showsTime (p : MachinePhase) : Bool := p ≠ .idle && p ≠ .done

/-- Row `r` of a machine's band as its context stands (R159). -/
def State.bandRow (s : State) (m : Side) (r : Nat) : BitVec 128 :=
  let c := s.context m
  if c.attached = false then 0
  else
    let text := if c.bandBlink && s.blinkHidden then 0 else glyphsRow (c.bandText.map glyphOf) r 0
    let time := timeGlyphs c.remaining
    text ||| (if showsTime c.phase then glyphsRow time r (128 - 6 * time.length) else 0)

/-- A machine's band composed from its context (R159). -/
def State.composeBand (s : State) (m : Side) : Band := Vector.ofFn fun r => s.bandRow m r.val

/-- The band a taken update event uses (R160): the frozen picture under hold, else one composed now. -/
def State.bandFor (s : State) (m : Side) : Band :=
  if (s.context m).bandHold then
    match s.display.frozen.get m with
    | some b => b
    | none => s.composeBand m
  else s.composeBand m

/-- The frozen picture a taken update event leaves (R160). -/
def State.frozenFor (s : State) (m : Side) : Option Band :=
  if (s.context m).bandHold then some (s.bandFor m) else none

/-! ### The update event (R158, R164) -/

/-- A slot's staging is complete (R157). -/
def SceneSlot.complete (x : SceneSlot) : Bool := x.marks = allMarks

/-- A taken update event copies a complete staging into the shown copy and empties the marks (R158 step 1). -/
def SceneSlot.takeStaging (x : SceneSlot) : SceneSlot :=
  if x.complete then { x with shown := x.staged, marks := noMarks } else x

/-- The slot of the message area (R164): the scene cue's, else the focus holder's idle scene, else none. -/
def State.messageSlot (s : State) : Option (Fin 16) :=
  match s.sceneCue with
  | some (_, c) =>
    match c.origin, c.scene with
    | .machine m, some k => some (sceneSlot m k)
    | _, _ => none
  | none =>
    match s.focus with
    | some m => (s.context m).idleScene.map (sceneSlot m)
    | none => none

/-- Row `r` of the message area (R164). -/
def State.messageRow (s : State) (r : Fin 16) : BitVec 128 :=
  match s.messageSlot with
  | some i => (s.display.slots[i]).shown[r]
  | none => 0

/-- Row `r` of the frame (R158, R159, R164). -/
def State.frameRow (s : State) (r : Fin 32) : BitVec 128 :=
  if h : r.val < 8 then (s.bandFor .w)[r.val]
  else if h2 : r.val < 24 then s.messageRow ⟨r.val - 8, by omega⟩
  else (s.bandFor .d)[r.val - 24]

/-- The 512 bytes of a frame transfer (R158): row 0 first and row 31 last, 16 bytes a row, the leftmost of 8 dots in bit 7. -/
def Display.transferBytes (d : Display) : List Byte := d.frame.toList.flatMap bytesOfRow

/-- What the display port sends (R158): the composed bytes while a transfer is under way. When each byte goes is log 19. -/
def Display.sending? (d : Display) : Option (List Byte) :=
  match d.transfer with
  | .sending => some d.transferBytes
  | .idle => none

/-- Step 1 of a taken update event for every slot. -/
def State.takeStagings (s : State) : State :=
  s.onDisplay fun d => { d with slots := Vector.ofFn fun i => (d.slots[i]).takeStaging }

/-- An update event (R158): skipped while a transfer is under way. -/
def State.update (s : State) : State :=
  match s.display.transfer with
  | .sending => s
  | .idle =>
    let s := s.takeStagings
    s.onDisplay fun d =>
      { d with frame := Vector.ofFn s.frameRow, frozen := { w := s.frozenFor .w, d := s.frozenFor .d },
               transfer := .sending }

/-! ### Lamps (R165 to R169) -/

/-- The brightness of every ring lamp of an effect at time `t` in ms (R167). -/
def effectLamp (e : LampEffect) (bright t i : Nat) : Nat :=
  match e with
  | .chase => if t / 80 % 12 = i then bright else 0
  | .pulse => if t % 1280 < 640 then bright * (t % 1280) / 640 else bright * (1280 - t % 1280) / 640
  | .flash => if t / 250 % 2 = 0 then bright else 0

/-- The position display's lamp `i` (R166). -/
def State.positionLamp (s : State) (i : Nat) : Nat :=
  match s.focus with
  | none => 0
  | some m =>
    let c := s.context m
    let l := s.display.ringLevels.get m
    if c.index * 12 / c.programs.length = i then l.bright else l.background

/-- The ring lamp `i` (R166, R167): the ring cue's effect at its origin machine's bright level, else the position display. -/
def State.ringLamp (s : State) (i : Nat) : Nat :=
  match s.display.ringEffect with
  | none => s.positionLamp i
  | some e =>
    match s.sched.table[e.cue] with
    | none => s.positionLamp i
    | some c =>
      match c.lamp, c.origin with
      | some f, .machine m =>
        effectLamp f (s.display.ringLevels.get m).bright ((s.now - e.start) / Config.msec) i
      | _, _ => s.positionLamp i

/-- The focus lamp of a machine (R168). -/
def State.focusLamp (s : State) (m : Side) : Nat :=
  if s.focus = some m then (s.display.ringLevels.get m).bright
  else if s.attached m then (s.display.ringLevels.get m).background
  else 0

/-- The backlight's brightness (R169). -/
def Display.backlightLamp (d : Display) : Nat :=
  match d.backlight with
  | .full => d.backlightLevel
  | .dimmed => d.backlightLevel / 8

/-- The beginning of a PWM period (R165): every channel takes its brightness. -/
def State.pwm (s : State) : State :=
  s.onDisplay fun d =>
    { d with lamps :=
      { ring := Vector.ofFn fun i => s.ringLamp i.val, focus := { w := s.focusLamp .w, d := s.focusLamp .d },
        backlight := d.backlightLamp, general := d.generalLevel } }

/-- A panel input reaches the backlight (R169). -/
def State.panelInput (s : State) : State :=
  let s := s.wakeBacklight
  if s.anyPlaying then s.stopIdle else s.restartIdle

/-- A proximity rising edge reaches the backlight (R169): WAKE if DIMMED, then as a panel input. -/
def State.proximityInput (s : State) : State :=
  match s.display.backlight with
  | .dimmed => (s.setFeedback wakePattern).panelInput
  | .full => s.panelInput

/-- The backlight idle timer expires (R169); a stopped timer does not. -/
def State.idleExpiry (s : State) : State :=
  match s.display.idleTimer with
  | some _ => s.onDisplay fun d => { d with backlight := .dimmed, idleTimer := none }
  | none => s

/-- ATTACH at the Display Unit (R163): blank stagings with all marks, and the ring levels of a reset. -/
def State.blankSlots (s : State) (m : Side) : State :=
  s.onDisplay fun d =>
    { d with slots := Vector.ofFn fun i =>
               if (i.val < 8) = (m = .w) then { d.slots[i] with staged := blankPicture, marks := allMarks }
               else d.slots[i],
             ringLevels := d.ringLevels.set m resetRingLevels }

end Sys2Proof.Machine
end

