-- ==== Sys2Proof/Machine/Focus.lean ====
section
/-! DEFINITION. The Context Unit (chapter 2): writes of a context, and the focus holder. -/

namespace Sys2Proof.Machine

/-- An ATTACH returns a context to its reset values, with the attached flag set (R22, R23). -/
def attachedContext : Context := { resetContext with attached := true }

/-- CONTEXT accepted (R24): the index is clamped against the program count held. -/
def Context.writeFacts (c : Context) (r : ContextReq) : Context :=
  { c with phase := r.phase, remaining := r.remaining, speed := r.speed, temperature := r.temperature,
           index := min r.index (c.programs.length - 1) }

/-- PROGRAMS accepted (R25): the index is kept if it is below the new count. -/
def Context.writePrograms (c : Context) (r : ProgramsReq) : Context :=
  { c with wrap := r.wrap, idleScene := r.idleScene, programs := r.codes,
           index := if c.index < r.codes.length then c.index else r.codes.length - 1 }

/-- BAND_TEXT accepted (R26). -/
def Context.writeBand (c : Context) (r : BandReq) : Context :=
  { c with bandText := r.text, bandBlink := r.blink, bandHold := r.hold }

/-- PROFILE accepted (R27): the language is clamped to the language count; the muted-from level is not touched. -/
def Context.writeProfile (c : Context) (r : ProfileReq) (languages : Nat) : Context :=
  { c with language := min r.language (languages - 1), volume := r.volume, assist := r.assist }

/-- The name fragment of a machine (R35 step 6, R103). -/
def nameFragment : Side → Nat
  | .w => 64
  | .d => 65

/-- A change of the focus holder and what it sets off (R35): FOCUS marks on every attached link, and the narration entry when
the new holder is in assist mode. -/
def State.changeFocus (s : State) (m : Side) : State :=
  let s := { s with focus := some m }.onAttachedLinks Link.setFocusMark
  if (s.context m).assist then s.setNarration [.fragment (nameFragment m), .field .program] else s

/-- The focus decision of an ATTACH (R32). -/
def State.attachFocus (s : State) (m : Side) : State :=
  match s.focus with
  | none => s.changeFocus m
  | some _ => s

/-- The last input time of a machine becomes the present moment (R30). -/
def State.noteInput (s : State) (m : Side) : State := s.onCtx m fun c => { c with lastInput := some s.now }

/-- A SWAP PRESS of the holder (R33). -/
def State.swapPress (s : State) (holder : Side) : State :=
  let s := s.noteInput holder
  if s.attached holder.other then
    ((s.noteInput holder.other).changeFocus holder.other).setFeedback acceptPattern
  else s.setFeedback rejectPattern

/-- Whether a holder's last input time lets another machine claim focus (R34): never, or 10 s or more ago. -/
def State.claimable (s : State) (holder : Side) : Bool :=
  match (s.context holder).lastInput with
  | none => true
  | some t => t + Config.claimWindow ≤ s.now

end Sys2Proof.Machine
end

