-- ==== Sys2Proof/Machine/PanelInputs.lean ====
section
/-! DEFINITION. The Input Unit (chapter 11): filters, encoder, keys, and the taking of a panel event. -/

namespace Sys2Proof.Machine

/-! ### Filters and the present state (R170) -/

/-- One sample of one line (R170). -/
def LineFilter.sample (f : LineFilter) (n : Nat) (level : Bool) : LineFilter :=
  if level = f.level then { f with run := 0 }
  else if n ≤ f.run + 1 then { level, run := 0 }
  else { f with run := f.run + 1 }

/-- The N of a line (R170): encoder lines 0 and 1, the others. -/
def Panel.filterN (p : Panel) (i : Fin 10) : Nat := if i.val < 2 then p.encoderN else p.keyN

/-- The present state (R170; 01 §1.9): bit k is the filtered level of line k. -/
def Panel.present (p : Panel) : Nat :=
  ((List.finRange 10).map fun i => bitAt i.val (p.lines[i]).level).sum

/-! ### The encoder (R171) -/

/-- The place of a pair of encoder levels in the forward cycle (R171). -/
def pairPlace (a b : Bool) : Nat :=
  match a, b with
  | false, false => 0
  | true, false => 1
  | true, true => 2
  | false, true => 3

/-- The edge from a reference pair to a new pair: +1, −1, or none when both lines or no line changed (R171). -/
def encoderEdge (refA refB a b : Bool) : Int :=
  if pairPlace a b = (pairPlace refA refB + 1) % 4 then 1
  else if pairPlace a b = (pairPlace refA refB + 3) % 4 then -1
  else 0

/-- The edge count after an edge (R171): an edge against the count restarts it. -/
def countEdge (count edge : Int) : Int := if edge = 0 then count else if 0 ≤ count * edge then count + edge else edge

/-- The encoder after a sample at which its filtered levels are `a`, `b`: the new pair becomes the reference; a full count is a
detent and returns to 0 (R171). The second part says whether a detent was taken, and whether forward. -/
def Panel.encoderStep (p : Panel) (a b : Bool) : Panel × Option Bool :=
  let count := countEdge p.edgeCount (encoderEdge p.refA p.refB a b)
  let p := { p with refA := a, refB := b }
  if p.edgesPerDetent ≤ count.natAbs ∧ count ≠ 0 then ({ p with edgeCount := 0 }, some (0 < count))
  else ({ p with edgeCount := count }, none)

/-! ### Keys -/

/-- The line of a key among the ten (01 §1.9). -/
def keyLine : Key → Fin 10
  | .push => 2
  | .start => 3
  | .options => 4
  | .back => 5
  | .swap => 6
  | .volume => 7
  | .assist => 8

/-- The long-press timer of a key. -/
def keyTimer : Key → Fin 7
  | .push => 0
  | .start => 1
  | .options => 2
  | .back => 3
  | .swap => 4
  | .volume => 5
  | .assist => 6

/-- Set a long-press timer. -/
def State.setLongTimer (s : State) (k : Key) (t : Option Nat) : State :=
  s.onPanel fun p => { p with longTimers := p.longTimers.set (keyTimer k) t }

/-! ### Taking an event (R173 to R177) -/

/-- The class of an event (R176). -/
def eventClass : PanelEvent → InputClass
  | .detent _ => .knob
  | .key k _ => keyClass k
  | .proximity => .proximity

/-- The index after a detent and its END value (R174). -/
def detentResult (c : Context) (up : Bool) : Nat × Bool :=
  let n := c.programs.length
  if up then
    if c.index + 1 < n then (c.index + 1, false) else if c.wrap then (0, false) else (c.index, true)
  else
    if 0 < c.index then (c.index - 1, false) else if c.wrap then (n - 1, false) else (c.index, true)

/-- The knob step of a detent (R174). -/
def State.knobStep (s : State) (h : Side) (up : Bool) : State :=
  let r := detentResult (s.context h) up
  let s := s.onCtx h fun c => { c with index := r.1 }
  if r.2 then s.setFeedback rejectPattern
  else if (s.context h).assist then s.setNarration [.field .program]
  else s.setFeedback clickPattern

/-- The volume level after a VOLUME PRESS (R175). -/
def volumeStep (c : Context) : Nat :=
  if c.volume = 0 then c.mutedFrom else if c.volume < 7 then c.volume + 1 else 1

/-- A VOLUME LONG (R175): mute, or unmute. -/
def Context.volumeLong (c : Context) : Context :=
  if 0 < c.volume then { c with mutedFrom := c.volume, volume := 0 } else { c with volume := c.mutedFrom }

/-- The PROFILE mark of a machine's link is set (R14, R175), and the moment of the event kept (R27, log 25). -/
def State.markProfile (s : State) (h : Side) : State :=
  s.onLink h fun l => { l.setProfileMark with profileEvent := some s.now }

/-- The local action of a key event (R175); none for START, OPTIONS, BACK, the knob push and every RELEASE (R173). -/
def State.keyAction (s : State) (h : Side) (k : Key) (a : KeyAction) : State :=
  match k, a with
  | .swap, .press => s.swapPress h
  | .volume, .press =>
    ((s.onCtx h fun c => { c with volume := volumeStep c }).markProfile h).setFeedback acceptPattern
  | .volume, .long => ((s.onCtx h Context.volumeLong).markProfile h).setFeedback acceptPattern
  | .assist, .press =>
    let on := !(s.context h).assist
    let s := (s.onCtx h fun c => { c with assist := on }).markProfile h
    if on then s.setNarration [.fragment 66] else s.setFeedback acceptPattern
  | .assist, .long =>
    let n := s.languageCount
    ((s.onCtx h fun c => { c with language := (c.language + 1) % n }).markProfile h).setNarration [.fragment 67]
  | _, _ => s

/-- The local action of an event (R173 step 2). -/
def State.localAction (s : State) (h : Side) (e : PanelEvent) : State :=
  match e with
  | .detent up => s.knobStep h up
  | .key k a => s.keyAction h k a
  | .proximity => s

/-- What the INPUT report of an event says (R174, 01 §1.9), from the context before the local action. -/
def reportOf (c : Context) (e : PanelEvent) : InputContent :=
  match e with
  | .detent up => .knob (if up then 1 else -1) (detentResult c up).1 (detentResult c up).2
  | .key k a => .key k a
  | .proximity => .proximity

/-- The summary gains a class (R176). -/
def State.summarise (s : State) (h : Side) (c : InputClass) : State :=
  s.onPanel fun p => { p with summary := p.summary.modify h fun x => addClass x c }

/-- The INPUT report, if the holder's mask has the class (R173 step 4). -/
def State.reportInput (s : State) (h : Side) (c : InputClass) (r : InputContent) : State :=
  if hasClass (s.panel.mask.get h) c then s.onLink h fun l => l.addInput r else s

/-- The event is handed to the Display Unit (R173 step 5). -/
def State.backlightEvent (s : State) (e : PanelEvent) : State :=
  match e with
  | .proximity => s.proximityInput
  | .detent _ | .key _ _ => s.panelInput

/-- A panel event sets the last input time, a PROXIMITY does not (R30, R173 step 1). -/
def setsInputTime : PanelEvent → Bool
  | .proximity => false
  | .detent _ | .key _ _ => true

/-- A panel event is taken whole, for the machine that holds focus at that moment (R173). -/
def State.takeEvent (s : State) (e : PanelEvent) : State :=
  match s.focus with
  | none => s.backlightEvent e
  | some h =>
    let r := reportOf (s.context h) e
    let s := if setsInputTime e then s.noteInput h else s
    ((((s.localAction h e).summarise h (eventClass e)).reportInput h (eventClass e) r)).backlightEvent e

/-! ### The input sample (R170 to R172) -/

/-- The filtered levels after a sample. -/
def Panel.sampleLines (p : Panel) (levels : BitVec 10) : Panel :=
  { p with lines := Vector.ofFn fun i => (p.lines[i]).sample (p.filterN i) (levels.getLsbD i.val) }

/-- The first sample after a power reset loads every level and the reference pair; nothing is handed on (R170, R171). -/
def Panel.firstSample (p : Panel) (levels : BitVec 10) : Panel :=
  { p with sampled := true, refA := levels.getLsbD 0, refB := levels.getLsbD 1,
           lines := Vector.ofFn fun i => { level := levels.getLsbD i.val, run := 0 } }

/-- A filtered change of a key's line: PRESS starts the long-press timer, RELEASE stops it (R172). -/
def State.keyChange (s : State) (k : Key) (pressed : Bool) : State :=
  if pressed then (s.setLongTimer k (some (s.now + Config.longPress))).takeEvent (.key k .press)
  else (s.setLongTimer k none).takeEvent (.key k .release)

/-- The input classes in the order of their codes. -/
def allInputClasses : List InputClass := [.knob, .push, .start, .options, .back, .swap, .volume, .assist, .proximity]

/-- The order in which a sample's events are taken: the given order, then the classes it leaves out (log 5). -/
def eventOrder (order : List InputClass) : List InputClass :=
  order.eraseDups ++ allInputClasses.filter fun c => !order.contains c

/-- The key of a class. -/
def classKey : InputClass → Option Key
  | .knob | .proximity => none
  | .push => some .push
  | .start => some .start
  | .options => some .options
  | .back => some .back
  | .swap => some .swap
  | .volume => some .volume
  | .assist => some .assist

/-- The proximity line's filtered level has gone to active since `before` (R172). -/
def Panel.proximityRises (before p : Panel) : Bool :=
  !(before.lines[(9 : Fin 10)]).level && (p.lines[(9 : Fin 10)]).level

/-- WAKE is in the pending position of the feedback entry. -/
def State.wakePending (s : State) : Bool :=
  s.sched.feedback.pending.any fun c => c.tone = some { pattern := wakePattern, timing := .together }

/-- What an event of a sample sets off is settled as it has been taken (log 6), but while a WAKE of the same sample is pending: it stays
in the pending position for the sample's other inputs, whose own feedback cue replaces it there (R169), and the arbitrations wait with
it (log 5). `before` is the Input Unit before the sample. -/
def State.settleInput (before : Panel) (s : State) : State :=
  if before.proximityRises s.panel && s.wakePending then (s.txChoose .w).txChoose .d else s.settle

/-- The filtered changes of one class at a sample, handed on as an event (R171, R172): `before` is the Input Unit before the
sample, `detent` what the encoder gave. -/
def State.takeClass (before : Panel) (detent : Option Bool) (s : State) (c : InputClass) : State :=
  match c with
  | .knob =>
    match detent with
    | some up => State.settleInput before (s.takeEvent (.detent up))
    | none => s
  | .proximity =>
    if before.proximityRises s.panel then State.settleInput before (s.takeEvent .proximity) else s
  | _ =>
    match classKey c with
    | none => s
    | some k =>
      if (before.lines[keyLine k]).level = (s.panel.lines[keyLine k]).level then s
      else State.settleInput before (s.keyChange k (s.panel.lines[keyLine k]).level)

/-- The encoder lines of a sampled Input Unit have changed since `before` (R171). -/
def Panel.encoderChanged (before p : Panel) : Bool :=
  (before.lines[(0 : Fin 10)]).level ≠ (p.lines[(0 : Fin 10)]).level ||
    (before.lines[(1 : Fin 10)]).level ≠ (p.lines[(1 : Fin 10)]).level

/-- The Input Unit after a sample, and the detent the sample gave (R170, R171). -/
def Panel.afterSample (p : Panel) (levels : BitVec 10) : Panel × Option Bool :=
  let q := p.sampleLines levels
  if p.encoderChanged q then q.encoderStep (q.lines[(0 : Fin 10)]).level (q.lines[(1 : Fin 10)]).level
  else (q, none)

/-- The 1 ms sample of the panel lines (R170). What waits for a WAKE of the sample is settled when the sample's events have been taken
(R169). -/
def State.inputSample (s : State) (levels : BitVec 10) (order : List InputClass) : State :=
  if s.panel.sampled then
    let before := s.panel
    let r := before.afterSample levels
    let t := (eventOrder order).foldl (State.takeClass before r.2) (s.onPanel fun _ => r.1)
    if before.proximityRises r.1 then t.settle else t
  else s.onPanel fun p => p.firstSample levels

/-- A long-press timer expires while its key is pressed (R172); a stopped timer does not. -/
def State.longPressExpiry (s : State) (k : Key) : State :=
  match s.panel.longTimers[keyTimer k] with
  | some _ => (s.setLongTimer k none).takeEvent (.key k .long)
  | none => s

end Sys2Proof.Machine
end

