-- ==== Sys2Proof/Machine/Speaker.lean ====
section
/-! DEFINITION. The Mixer and Speaker Stage (chapter 9): gains, mix, bridge drive, and the stage states. -/

namespace Sys2Proof.Machine

/-! ### The gain chain (R143 to R147) -/

/-- The class factor C (R143). -/
def classFactor : CueClass → Nat
  | .alarm => 256
  | .echo => 224
  | .prompt => 192
  | .chime => 160

/-- The volume factor V of a level (R143). -/
def volumeFactor (level : Nat) : Nat := [0, 32, 45, 64, 90, 128, 181, 256].getD level 256

/-- The volume level of the panel's own cues: the focus holder's, or 4 (R143). -/
def State.panelLevel (s : State) : Nat :=
  match s.focus with
  | some m => (s.context m).volume
  | none => 4

/-- The volume level used for a cue (R143): an ALARM's is lifted to at least 2. -/
def State.levelUsed (s : State) (c : Cue) : Nat :=
  let level := match c.origin with
    | .machine m => (s.context m).volume
    | .panel => s.panelLevel
  if c.cls = .alarm then max level 2 else level

/-- The highest drum speed among the attached machines, 0 with none (R144). -/
def State.topSpeed (s : State) : Nat :=
  max (if s.attached .w then s.ctx.w.speed else 0) (if s.attached .d then s.ctx.d.speed else 0)

/-- The boost factor B of a speed (R144). -/
def boostFactor (speed : Nat) : Nat :=
  if speed ≤ 400 then 256 else if speed < 1200 then 256 + (speed - 400) * 256 / 800 else 512

/-- The effective gain G from its five factors, each division truncated (R147). -/
def effectiveGain (C V B D F : Nat) : Nat := C * V / 256 * B / 256 * D / 256 * F / 256

/-- The fade factor of a cue (R146): that of its fade record, else 256. -/
def Cue.fadeFactor (c : Cue) : Nat :=
  match c.fade with
  | some f => f.factor
  | none => 256

/-- The effective gain of a source with a duck factor (R142, R147): 0 without a governing cue. -/
def State.sourceGain (s : State) (governor : Option Cue) (duck : Nat) : Nat :=
  match governor with
  | none => 0
  | some c =>
    effectiveGain (classFactor c.cls) (volumeFactor (s.levelUsed c)) (boostFactor s.topSpeed) duck c.fadeFactor

/-- The governing cue of a resource (R142). -/
def State.governor (s : State) (x : Resource) : Option Cue := x.holder.bind s.cue?

/-! ### The mix (R148, R149) -/

/-- A source's contribution (R148); the division is toward minus infinity. -/
def contribution (x : Int) (gain : Nat) : Int := x * (gain : Int) / 256

/-- The contribution of the speech source with output `x`. -/
def State.speechContribution (s : State) (x : Int) : Int :=
  contribution x (s.sourceGain (s.governor s.sched.path) 256)

/-- The contribution of a voice. -/
def State.voiceContribution (s : State) (v : Fin 4) : Int :=
  contribution (s.tone.voices[v]).output (s.sourceGain (s.governor s.sched.voices[v]) s.mixer.duck[v])

/-- The mixed sample for a speech output `x` (R148). -/
def State.mix (s : State) (x : Int) : Int :=
  saturate (-32768) 32767
    (s.speechContribution x + s.voiceContribution 0 + s.voiceContribution 1 + s.voiceContribution 2 +
      s.voiceContribution 3)

/-- Whether a sounding cue is silent at this event (R79, R149): stage not driving, or level 0. A cue in its purge fade is not
tested. -/
def State.silentNow (s : State) (c : Cue) : Bool :=
  !c.purged && (s.mixer.stage ≠ .driving || s.levelUsed c = 0)

/-- The cues with a part sounding now (R79): the path's holder while the Stream is not IDLE, the holders of PLAYING voices. -/
def State.sounding (s : State) : List CueRef :=
  (if s.stream.state ≠ .idle then s.sched.path.holder.toList else []) ++
    allVoices.flatMap fun v => if (s.tone.voices[v]).playing then (s.sched.voices[v]).holder.toList else []

/-- Every table cue that sounds and is silent at this event is marked SILENT (R149). -/
def State.markSilents (s : State) : State :=
  s.sounding.foldl (fun t r => t.markTableCue r fun c => if s.silentNow c then c.markSilent else c) s

/-- One output sample event (R142): values, mix, SILENT, then the Stream's reports of an underrun (R81, R127) and of the end of
the utterance (R126). -/
def State.sampleEvent (s : State) : State :=
  let e := s.stream.event s.utt.entries
  let t := s.markSilents.onMixer fun x => { x with mixed := s.mix e.out }
  let t := t.onStream fun _ => e.stream
  match t.utt.owner with
  | none => t
  | some r =>
    let t := if e.underrun then t.markTableCue r Cue.markStalled else t
    if e.ended then t.utteranceEnded r else t

/-! ### Ducking (R145) -/

/-- A cue is PLAYING in MAIN. -/
def Cue.inMain (c : Cue) : Bool := c.state = .playing && c.phase = some .main

/-- The duck target of a voice (R145). -/
def State.duckTarget (s : State) (v : Fin 4) : Nat :=
  match (s.sched.voices[v]).holder, s.sched.path.holder with
  | some h, some p =>
    if h ≠ p ∧ (s.cue? p).any Cue.inMain ∧ s.stream.state = .playing then 64 else 256
  | _, _ => 256

/-- A duck factor moves by 16 towards its target (R145). -/
def duckStep (d target : Nat) : Nat := if d < target then d + 16 else if target < d then d - 16 else d

/-- One duck tick (R145). -/
def State.duckTick (s : State) : State :=
  s.onMixer fun x => { x with duck := Vector.ofFn fun v => duckStep x.duck[v] (s.duckTarget v) }

/-! ### Bridge drive (R150, R151) -/

/-- The duty of a carrier period (R150). -/
def dutyOf (m : Int) (dt : Nat) : Nat := clamp dt (1024 - dt) (512 + m / 64).toNat

/-- The beginning of a carrier period (R150): the duty is formed, and drives the gate lines if the stage is DRIVING. -/
def Mixer.carrier (x : Mixer) : Mixer :=
  let d := dutyOf x.mixed x.deadTime
  { x with duty := d, gates := if x.stage = .driving then some { duty := d, deadTime := x.deadTime } else none }

/-- The four gate lines (R151). -/
inductive GateLine where
  | pHigh
  | pLow
  | nHigh
  | nLow
  deriving DecidableEq, Repr

/-- Whether a line is on at a count of the carrier period (R151). -/
def GateDrive.on (g : GateDrive) (line : GateLine) (count : Nat) : Bool :=
  match line with
  | .pHigh | .nLow => g.deadTime ≤ count && count < g.duty
  | .pLow | .nHigh => g.duty + g.deadTime ≤ count && count < 1024

/-- A gate line at a count of the present carrier period: off unless driven (R151). -/
def State.gateOn (s : State) (line : GateLine) (count : Nat) : Bool :=
  match s.mixer.gates with
  | none => false
  | some g => !s.resetHeld && g.on line count

/-! ### Stage states (R152 to R156) -/

/-- An over-current trip (R153). -/
def State.trip (s : State) : State :=
  (s.onMixer fun x =>
    { x with gates := none, stage := .tripped, trips := x.trips + 1, retryTimer := some (s.now + Config.retryTime) }).onAttachedLinks
      Link.speakerFault

/-- The stage goes to DRIVING; with the sense input active it trips at that moment (R152, R153). -/
def State.enterDriving (s : State) : State :=
  let s := s.onMixer fun x => { x with stage := .driving }
  if s.mixer.sense then s.trip else s

/-- The stage goes to DISABLED at once (R152). -/
def State.disable (s : State) : State := s.onMixer fun x => { x with stage := .disabled, gates := none }

/-- The stage goes to DRIVING or DISABLED by its enable (R154, R156). -/
def State.resume (s : State) : State := if s.mixer.enable then s.enterDriving else s.disable

/-- The over-current sense input takes a level. -/
def State.takeSense (s : State) (active : Bool) : State := s.onMixer fun x => { x with sense := active }

/-- The over-current sense input takes a level; active in DRIVING it trips (R153). -/
def State.senseLevel (s : State) (active : Bool) : State :=
  let s := s.takeSense active
  if active ∧ s.mixer.stage = .driving then s.trip else s

/-- The retry timer expires (R154). -/
def State.retryExpiry (s : State) : State :=
  if s.mixer.stage = .tripped then
    let s := s.onMixer fun x => { x with retryTimer := none }
    if 3 ≤ s.mixer.trips then s.onMixer fun x => { x with stage := .locked } else s.resume
  else s

/-- SPEAKER_SETUP accepted (R155 step 3). -/
def State.speakerSetup (s : State) (enable : Bool) (dt : Nat) : State :=
  let s := s.onMixer fun x => { x with enable, deadTime := dt }
  match s.mixer.stage with
  | .disabled => if enable then s.enterDriving else s
  | .driving => if enable then s else s.disable
  | .tripped | .locked => s

/-- SPEAKER_RESET (R156). -/
def State.speakerReset (s : State) : State :=
  let s := s.onMixer fun x => { x with trips := 0 }
  match s.mixer.stage with
  | .tripped => (s.onMixer fun x => { x with retryTimer := none }).resume
  | .locked => s.resume
  | .driving | .disabled => s

end Sys2Proof.Machine
end

