-- ==== Sys2Proof/Machine/Requests.lean ====
section
/-! DEFINITION. The 21 requests (R7 to R11): the checks of the link, each owner's checks and effects, and the reply. -/

namespace Sys2Proof.Machine

/-- The verdict of the owning block: DONE with a result, REFUSED with a reason, or a deferred reply (R9, R10). -/
inductive Verdict where
  | done (result : List Byte)
  | refused (reason : Reason)
  | deferred (kind : DeferredKind)
  deriving DecidableEq, Repr

/-! ### ATTACH and STATUS (R17, R18) -/

/-- ATTACH at the link (R18): lists, marks, pending causes and FAULT flag are cleared; queue, request in service and a frame in
progress are not touched (R19). -/
def Link.attach (l : Link) : Link := ({ l with done := [], inputs := [] }.clearMarks).clearFault

/-- ATTACH at the Input Unit: report mask and event summary (R176). -/
def Panel.attach (p : Panel) (m : Side) : Panel :=
  { p with summary := p.summary.set m 0, mask := p.mask.set m allClasses }

/-- The effects of ATTACH in the order of R18. -/
def State.attachEffects (s : State) (m : Side) : State :=
  let s := s.onLink m Link.attach
  let s := s.onCtx m fun _ => attachedContext
  let s := s.purge m
  let s := s.onTone fun t => t.undefineOf m
  let s := s.blankSlots m
  let s := s.onPanel fun p => p.attach m
  s.attachFocus m

/-- The language count an ATTACH reply carries: 0 while STARTING (R18, R88). -/
def State.attachLanguages (s : State) : Nat :=
  match s.partState with
  | .starting => 0
  | .ready => s.languageCount

def partByte : PartState → Byte
  | .starting => 0
  | .ready => 1

def stageByte : StageState → Byte
  | .disabled => 0
  | .driving => 1
  | .tripped => 2
  | .locked => 3

/-- The 12 bytes of a STATUS reply (R17, 01 §1.9). -/
def State.statusResult (s : State) (m : Side) : List Byte :=
  [partByte s.partState, storeByte s.store.state, stageByte s.mixer.stage, byteOf s.mixer.trips, focusCode s.focus,
   byteOf (s.machineCount m), byteOf s.tableTotal, (s.link m).faultByte] ++
    bytesOf16 (s.panel.summary.get m).toNat ++ bytesOf16 s.panel.present

/-- What forming a STATUS reply clears (R16, R17, R176). -/
def State.clearStatus (s : State) (m : Side) : State :=
  (s.onLink m Link.clearFault).onPanel fun p => { p with summary := p.summary.set m 0 }

/-! ### Focus (R34) -/

/-- FOCUS_CLAIM (R34). With nobody holding focus, which an attached claimant never meets, it is granted (log 12). -/
def State.focusClaim (s : State) (m : Side) : Verdict × State :=
  match s.focus with
  | none => (.done [], s.changeFocus m)
  | some h =>
    if h = m then (.done [], s)
    else if s.claimable h then (.done [], s.changeFocus m)
    else (.refused .focusBusy, s)

/-! ### The cue table (R39 to R48) -/

/-- The tone part R40 check 6 admits: none is BAD_PATTERN. -/
def State.admitTone (s : State) (m : Side) (t : Option (Nat × ToneTiming)) : Option (Option TonePart) :=
  match t with
  | none => some none
  | some (p, timing) =>
    if h : p < 32 then
      if mayUsePattern m ⟨p, h⟩ && (s.tone.patterns[p]).isSome then
        some (some { pattern := ⟨p, h⟩, timing })
      else none
    else none

/-- The scene part R40 check 5 admits: none is BAD_SLOT. -/
def admitScene (k : Option Nat) : Option (Option (Fin 8)) :=
  match k with
  | none => some none
  | some n => if h : n < 8 then some (some ⟨n, h⟩) else none

/-- The record of an accepted cue (R37, R40). -/
def postedCue (s : State) (m : Side) (r : CuePostReq) (tone : Option TonePart) (scene : Option (Fin 8)) : Cue :=
  { uid := s.sched.nextUid, id := r.id, origin := .machine m, cls := r.cls, group := r.group,
    deadline := if r.lifetime = 0 then none else some (s.now + r.lifetime * Config.unit100),
    repeats := r.repeats, gapLength := r.gapLength, speech := r.speech, tone, scene, lamp := r.lamp, hold := r.hold,
    state := if s.markerBefore m (s.sched.nextPosting.get m) then .held else .waiting,
    phase := none, preempts := 0, repeatsLeft := r.repeats, flags := noFlags, endCause := none, deadlinePassed := false,
    posting := s.sched.nextPosting.get m, outcome := none, latestStart := 0, speechPlays := false,
    utteranceEnded := false, patternEnded := false, holdTimer := none, gapTimer := none, fade := none }

/-- An accepted cue takes a slot and the next posting number; entering WAITING sets off an arbitration (R40). -/
def State.acceptCue (s : State) (m : Side) (i : Fin 24) (c : Cue) : State :=
  let s := s.onSched fun sc =>
    { sc with table := sc.table.set i (some c), nextUid := sc.nextUid + 1,
              nextPosting := sc.nextPosting.modify m (· + 1) }
  if c.state = .waiting then s.setArb else s

/-- CUE_POST after its field checks (R40), the checks in order. -/
def State.cuePost (s : State) (m : Side) (r : CuePostReq) : Verdict × State :=
  if r.speech.isNone && r.tone.isNone && r.scene.isNone && r.lamp.isNone then (.refused .emptyCue, s)
  else if (s.slotOfId m r.id).isSome then (.refused .idInUse, s)
  else if 16 ≤ s.machineCount m then (.refused .quota, s)
  else match s.freeSlot with
    | none => (.refused .tableFull, s)
    | some i =>
      match admitScene r.scene with
      | none => (.refused .badSlot, s)
      | some scene =>
        match s.admitTone m r.tone with
        | none => (.refused .badPattern, s)
        | some tone => (.done [], s.acceptCue m i (postedCue s m r tone scene))

/-- CUE_CANCEL (R46, R47). -/
def State.cueCancel (s : State) (m : Side) (mode : CancelMode) : Verdict × State :=
  match mode, s.cancelSelection m mode with
  | .byId _, [] => (.refused .noSuchCue, s)
  | _, slots => (.done [byteOf slots.length], slots.foldl State.cancelCue s)

def stateByte : CueState → Byte
  | .waiting => 0
  | .held => 1
  | .playing => 2
  | .gap => 3
  | .ending => 4
  | .reporting => 5

def phaseByte : Option CuePhase → Byte
  | some .lead => 0
  | some .main => 1
  | some .tail => 2
  | none => 0xFF

/-- The five values of a CUE_QUERY reply (R48, 01 §1.9). -/
def Cue.queryResult (c : Cue) : List Byte :=
  [stateByte c.state, if c.state = .playing then phaseByte c.phase else 0xFF, byteOf c.preempts, byteOf c.repeatsLeft,
   if c.state = .reporting then (c.outcome.map CueOutcome.code).getD 0xFF else 0xFF]

/-- CUE_QUERY (R48). -/
def State.cueQuery (s : State) (m : Side) (id : Nat) : Verdict :=
  match (s.slotOfId m id).bind fun i => s.sched.table[i] with
  | some c => .done c.queryResult
  | none => .refused .noSuchCue

/-- Whether machine `m` has a live cue (R42). -/
def State.hasLiveCue (s : State) (m : Side) : Bool := s.tableCues.any fun p => p.2.ofMachine m && p.2.live

/-- FENCE (R42). -/
def State.fence (s : State) (m : Side) : Verdict × State :=
  if 4 ≤ (s.sched.markers.get m).length then (.refused .fenceLimit, s)
  else if s.hasLiveCue m then
    (.done [], s.onSched fun sc =>
      { sc with markers := sc.markers.modify m (· ++ [sc.nextPosting.get m]),
                nextPosting := sc.nextPosting.modify m (· + 1) })
  else (.done [], s)

/-! ### The other owners -/

/-- Some voice is PLAYING an entry (R132 check 4). -/
def State.patternBusy (s : State) (p : Fin 32) : Bool :=
  allVoices.any fun v => (s.tone.voices[v]).playing && (s.tone.voices[v]).pattern = some p

/-- TONE_DEFINE (R132, R133). -/
def State.toneDefine (s : State) (m : Side) (entry : Nat) (p : Pattern) : Verdict × State :=
  if h : entry < 32 then
    if entry < 8 then (.refused .patternLocked, s)
    else if patternOwner ⟨entry, h⟩ ≠ some m then (.refused .badPattern, s)
    else if s.patternBusy ⟨entry, h⟩ then (.refused .patternBusy, s)
    else (.done [], s.onTone fun t => { t with patterns := t.patterns.set entry (some p) })
  else (.refused .badPattern, s)

/-- A scene slot with one chunk written and marked (R161). -/
def SceneSlot.writeChunk (x : SceneSlot) (chunk : Fin 4) (dots : List Byte) : SceneSlot :=
  { x with staged := x.staged.writeRows (4 * chunk.val) 4 dots, marks := x.marks.set chunk true }

/-- SCENE_WRITE (R161). -/
def State.sceneWrite (s : State) (m : Side) (slot : Byte) (chunk : Fin 4) (dots : List Byte) : Verdict × State :=
  match localSlot slot with
  | none => (.refused .badSlot, s)
  | some k => (.done [], s.onSlot (sceneSlot m k) fun x => x.writeChunk chunk dots)

/-- SCENE_FROM_STORE (R162). -/
def State.sceneFromStore (s : State) (m : Side) (slot : Byte) (image : Nat) : Verdict × State :=
  match localSlot slot with
  | none => (.refused .badSlot, s)
  | some k =>
    match s.lookupImage image with
    | .storeFailed => (.refused .storeFailed, s)
    | .notUsable => (.refused .badImage, s)
    | .usable a => (.deferred .sceneFromStore, s.startTransfer m k a)

/-- LAMP_SET (R165). -/
def State.lampSet (s : State) (m : Side) (bright background backlight general : Nat) : State :=
  s.onDisplay fun d =>
    { d with ringLevels := d.ringLevels.set m { bright, background }, backlightLevel := backlight,
             generalLevel := general }

/-- PROFILE after its field checks (R27): the three values are written, and a PROFILE report of a panel event of this moment carries
them. -/
def State.takeProfile (s : State) (m : Side) (r : ProfileReq) : State :=
  let t := s.onCtx m fun c => c.writeProfile r s.languageCount
  t.onLink m fun l => l.retakeProfile (t.context m) t.now

/-- INPUT_FORCE (R178). -/
def State.inputForce (s : State) (m : Side) (e : PanelEvent) : Verdict × State :=
  if s.focus = some m then (.done [], s.takeEvent e) else (.refused .noFocus, s)

/-- INPUT_FILTER (R179). -/
def State.inputFilter (s : State) (keyN encoderN edges : Nat) : State :=
  s.onPanel fun p => { p with keyN, encoderN, edgesPerDetent := edges, edgeCount := 0 }

/-! ### Dispatch (R6 to R10) -/

/-- A verdict from parsed fields: none is FORMAT (R8). -/
def withFields {α : Type} (s : State) (fields : Option α) (f : α → Verdict × State) : Verdict × State :=
  match fields with
  | some x => f x
  | none => (.refused .format, s)

/-- The owning block's verdict and effects (R8). -/
def State.handle (s : State) (m : Side) (k : RequestKind) (p : List Byte) : Verdict × State :=
  match k with
  | .attach =>
    let t := s.attachEffects m
    (.done [1, byteOf t.attachLanguages], t)
  | .status => (.done (s.statusResult m), s)
  | .context => withFields s (parseContext p) fun r => (.done [], s.onCtx m fun c => c.writeFacts r)
  | .programs => withFields s (parsePrograms p) fun r => (.done [], s.onCtx m fun c => c.writePrograms r)
  | .bandText => withFields s (parseBandText p) fun r => (.done [], s.onCtx m fun c => c.writeBand r)
  | .profile => withFields s (parseProfile p) fun r => (.done [], s.takeProfile m r)
  | .focusClaim => s.focusClaim m
  | .cuePost => withFields s (parseCuePost p) fun r => s.cuePost m r
  | .cueCancel => withFields s (parseCueCancel p) fun mode => s.cueCancel m mode
  | .cueQuery => withFields s (parseCueQuery p) fun id => (s.cueQuery m id, s)
  | .fence => s.fence m
  | .toneDefine => withFields s (parseToneDefine p) fun r => s.toneDefine m r.1 r.2
  | .sceneWrite => withFields s (parseSceneWrite p) fun r => s.sceneWrite m r.1 r.2.1 r.2.2
  | .sceneFromStore => withFields s (parseSceneFromStore p) fun r => s.sceneFromStore m r.1 r.2
  | .lampSet => withFields s (parseLampSet p) fun r => (.done [], s.lampSet m r.1 r.2.1 r.2.2.1 r.2.2.2)
  | .inputMask => withFields s (parseInputMask p) fun set =>
      (.done [], s.onPanel fun x => { x with mask := x.mask.set m set })
  | .inputForce => withFields s (parseInputForce p) fun e => s.inputForce m e
  | .inputFilter => withFields s (parseInputFilter p) fun r => (.done [], s.inputFilter r.1 r.2.1 r.2.2)
  | .storeCheck => (.deferred .storeCheck, s.takeStoreCheck m)
  | .speakerSetup => withFields s (parseSpeakerSetup p) fun r => (.done [], s.speakerSetup r.1 r.2)
  | .speakerReset => (.done [], s.speakerReset)

/-- STATUS and ATTACH are taken in every part state and from an unattached machine (R7 checks 3 and 4). -/
def alwaysTaken (k : RequestKind) : Bool := k = .status || k = .attach

/-- Checks 3 to 5 of R7, in order: none passes. -/
def State.linkRefusal (s : State) (m : Side) (k : RequestKind) (p : List Byte) : Option Reason :=
  if s.partState = .starting ∧ alwaysTaken k = false then some .notReady
  else if s.attached m = false ∧ alwaysTaken k = false then some .notAttached
  else if lenAllowed k p = false then some .format
  else none

/-- A request that passed R7 (R8 to R10): the owner's effects, the one arbitration they set off (R61), then the reply with its
condition byte; a deferred request enters service instead. A STATUS reply clears what it reported (R17). -/
def State.serveRequest (s : State) (m : Side) (k : RequestKind) (note : Bool) (p : List Byte) : State :=
  let r := s.handle m k p
  let t := r.2.settleArb
  match r.1 with
  | .deferred kind => t.onLink m fun l => { l with inService := some { kind, note } }
  | .refused reason => t.formReply m k.code (.refused reason) note
  | .done result =>
    let t := t.formReply m k.code (.done result) note
    match k with
    | .status => t.clearStatus m
    | _ => t

/-- A dispatched request of a known kind: checks 3 to 5 of R7, then its owner. -/
def State.dispatchRequest (s : State) (m : Side) (k : RequestKind) (note : Bool) (p : List Byte) : State :=
  match s.linkRefusal m k p with
  | some reason => s.formReply m k.code (.refused reason) note
  | none => s.serveRequest m k note p

/-- A dispatched entry (R7): checks 1 and 2, then as its kind says. -/
def State.dispatchEntry (s : State) (m : Side) (e : QueueEntry) : State :=
  match e with
  | .badCheck => s.formReply m 0 (.refused .badCheck) false
  | .request code note p =>
    match kindOfCode code with
    | none => s.formReply m code (.refused .unknownKind) note
    | some k => s.dispatchRequest m k note p

/-- The link dispatches the head of its queue if R6 lets it. -/
def State.dispatchHead (s : State) (m : Side) : State :=
  if (s.link m).free then
    match (s.link m).queue with
    | [] => s
    | e :: rest => (s.onLink m fun l => { l with queue := rest }).dispatchEntry m e
  else s

/-- A request arrives as a whole frame (log 1): it joins the queue (R4), and is dispatched at once when it is the head and the
link is free (R6). -/
def State.submit (s : State) (m : Side) (k : RequestKind) (note : Bool) (p : List Byte) : State :=
  let t := s.onLink m fun l => l.offer (.request k.code note p)
  if (s.link m).queue.isEmpty then t.dispatchHead m else t

end Sys2Proof.Machine
end

