-- ==== Sys2Proof/Machine/Running.lean ====
section
/-! DEFINITION. The shape every meaning shares, and the part's clock. -/

namespace Sys2Proof.Machine

/-- What a command answers. -/
abbrev Result := Host.Outcome State Fault Refusal

/-- The effect of a command, which always completes. While the reset input is held low the part does nothing (log 16). -/
def running (s : State) (f : State → State) : Result := .next (if s.resetHeld then s else f s)

/-- One count of the tone clock, 1 µs (log 2): the part's own time and the PLAYING voices count (R137, R138). -/
def State.tick (s : State) : State :=
  if s.resetHeld then s
  else { s with now := s.now + 1,
                tone := { s.tone with voices := Vector.ofFn fun v => (s.tone.voices[v]).tick } }

end Sys2Proof.Machine
end

