-- ==== Sys2Proof/Machine/CueCommands.lean ====
section
/-! DEFINITION. The timers of a cue: deadline, hold, gap and fade. -/

namespace Sys2Proof.Machine

/-- DEADLINE_PASSES (R44, R45). -/
def execDeadlinePasses (i : Fin 24) (s : State) : Result := running s fun s => (s.deadlinePasses i).settle

/-- HOLD_TIMER_EXPIRY (R72, R73). -/
def execHoldTimerExpiry (r : CueRef) (s : State) : Result := running s fun s => (s.holdEnded r).settle

/-- The gap timer of a cue expires (R75); a cue in no gap has none running. -/
def State.gapExpiry (s : State) (i : Fin 24) : State :=
  if (s.sched.table[i]).any fun c => c.state = .gap then s.endGap i else s

/-- CUE_GAP_END (R45, R75). -/
def execCueGapEnd (i : Fin 24) (s : State) : Result := running s fun s => (s.gapExpiry i).settle

/-- FADE_TIMER_EXPIRY (R76, R77, R146). -/
def execFadeTimerExpiry (r : CueRef) (s : State) : Result := running s fun s => (s.fadeExpiry r).settle

end Sys2Proof.Machine
end

