-- ==== Sys2Proof/Machine/LinkCommands.lean ====
section
/-! DEFINITION. POWER_RESET, the events of a link, DISPATCH and FRAME_SENT. -/

namespace Sys2Proof.Machine

/-- POWER_RESET (R20, R21, R58, R59, R98): everything the part holds is abandoned; as the reset ends the first check is RUNNING
(R89). The level on the over-current sense pin and the waiting commands are not the part's to abandon (log 16, 17). -/
def execPowerReset (stillLow : Bool) (s : State) : Result :=
  .next { State.reset with
    resetHeld := stillLow, pending := s.pending, mixer := { State.reset.mixer with sense := s.mixer.sense } }

/-- CHARACTER_RECEIVED (R1 to R4). -/
def execCharacterReceived (m : Side) (c : Byte) (s : State) : Result :=
  running s fun s => s.onLink m fun l => l.receive c s.now

/-- STOP_BIT_LOW (R2). -/
def execStopBitLow (m : Side) (s : State) : Result := running s fun s => s.onLink m Link.badStop

/-- LINK_GAP_TIMER_EXPIRY (R2). -/
def execLinkGapTimerExpiry (m : Side) (s : State) : Result := running s fun s => s.onLink m Link.gapExpiry

/-- DISPATCH (R6 to R11): the head entry, if R6 lets it go, with all it sets off (log 1). -/
def execDispatch (m : Side) (s : State) : Result := running s fun s => (s.dispatchHead m).settle

/-- FRAME_SENT (R12, R15, R52): the transmitter chooses at once, or after the dispatch of the same moment (01 §1.7, log 23). -/
def execFrameSent (m : Side) (dispatchFirst : Bool) (s : State) : Result :=
  running s fun s =>
    if dispatchFirst then ((s.frameSent m).dispatchHead m).settle else (s.frameSent m).txChoose m

end Sys2Proof.Machine
end

