-- ==== Sys2Proof/Machine/PanelCommands.lean ====
section
/-! DEFINITION. The display's events, the lamps, and the panel lines. -/

namespace Sys2Proof.Machine

/-- UPDATE_EVENT (R158 to R160, R164). -/
def execUpdateEvent (s : State) : Result := running s State.update

/-- DISPLAY_TRANSFER_END (R158). -/
def execDisplayTransferEnd (s : State) : Result :=
  running s fun s => s.onDisplay fun d => { d with transfer := .idle }

/-- PWM_PERIOD (R165 to R169). -/
def execPwmPeriod (s : State) : Result := running s State.pwm

/-- BACKLIGHT_IDLE_EXPIRY (R169). -/
def execBacklightIdleExpiry (s : State) : Result := running s State.idleExpiry

/-- INPUT_SAMPLE (R170 to R177). -/
def execInputSample (levels : BitVec 10) (order : List InputClass) (s : State) : Result :=
  running s fun s => s.inputSample levels order

/-- LONG_PRESS_EXPIRY (R172 to R177). -/
def execLongPressExpiry (k : Key) (s : State) : Result := running s fun s => (s.longPressExpiry k).settle

end Sys2Proof.Machine
end

