-- ==== Sys2Proof/Machine/RequestCommands.lean ====
section
/-! DEFINITION. The 21 requests as commands: a frame from link `m` with its note flag and payload (log 1). What each does at its
dispatch is `State.handle`. -/

namespace Sys2Proof.Machine

/-- ATTACH (R18, R19, R23, R32, R56, R129, R163, R176). -/
def execAttach (m : Side) (note : Bool) (payload : List Byte) (s : State) : Result :=
  running s fun s => (s.submit m .attach note payload).settle

/-- STATUS (R16, R17). -/
def execStatus (m : Side) (note : Bool) (payload : List Byte) (s : State) : Result :=
  running s fun s => (s.submit m .status note payload).settle

/-- CONTEXT (R24). -/
def execContext (m : Side) (note : Bool) (payload : List Byte) (s : State) : Result :=
  running s fun s => (s.submit m .context note payload).settle

/-- PROGRAMS (R25). -/
def execPrograms (m : Side) (note : Bool) (payload : List Byte) (s : State) : Result :=
  running s fun s => (s.submit m .programs note payload).settle

/-- BAND_TEXT (R26). -/
def execBandText (m : Side) (note : Bool) (payload : List Byte) (s : State) : Result :=
  running s fun s => (s.submit m .bandText note payload).settle

/-- PROFILE (R27). -/
def execProfile (m : Side) (note : Bool) (payload : List Byte) (s : State) : Result :=
  running s fun s => (s.submit m .profile note payload).settle

/-- FOCUS_CLAIM (R34, R35). -/
def execFocusClaim (m : Side) (note : Bool) (payload : List Byte) (s : State) : Result :=
  running s fun s => (s.submit m .focusClaim note payload).settle

/-- CUE_POST (R39, R40). -/
def execCuePost (m : Side) (note : Bool) (payload : List Byte) (s : State) : Result :=
  running s fun s => (s.submit m .cuePost note payload).settle

/-- CUE_CANCEL (R46, R47). -/
def execCueCancel (m : Side) (note : Bool) (payload : List Byte) (s : State) : Result :=
  running s fun s => (s.submit m .cueCancel note payload).settle

/-- CUE_QUERY (R48). -/
def execCueQuery (m : Side) (note : Bool) (payload : List Byte) (s : State) : Result :=
  running s fun s => (s.submit m .cueQuery note payload).settle

/-- FENCE (R42, R43). -/
def execFence (m : Side) (note : Bool) (payload : List Byte) (s : State) : Result :=
  running s fun s => (s.submit m .fence note payload).settle

/-- TONE_DEFINE (R132, R133). -/
def execToneDefine (m : Side) (note : Bool) (payload : List Byte) (s : State) : Result :=
  running s fun s => (s.submit m .toneDefine note payload).settle

/-- SCENE_WRITE (R161). -/
def execSceneWrite (m : Side) (note : Bool) (payload : List Byte) (s : State) : Result :=
  running s fun s => (s.submit m .sceneWrite note payload).settle

/-- SCENE_FROM_STORE (R87, R121, R162). -/
def execSceneFromStore (m : Side) (note : Bool) (payload : List Byte) (s : State) : Result :=
  running s fun s => (s.submit m .sceneFromStore note payload).settle

/-- LAMP_SET (R165). -/
def execLampSet (m : Side) (note : Bool) (payload : List Byte) (s : State) : Result :=
  running s fun s => (s.submit m .lampSet note payload).settle

/-- INPUT_MASK (R176). -/
def execInputMask (m : Side) (note : Bool) (payload : List Byte) (s : State) : Result :=
  running s fun s => (s.submit m .inputMask note payload).settle

/-- INPUT_FORCE (R173, R178). -/
def execInputForce (m : Side) (note : Bool) (payload : List Byte) (s : State) : Result :=
  running s fun s => (s.submit m .inputForce note payload).settle

/-- INPUT_FILTER (R179). -/
def execInputFilter (m : Side) (note : Bool) (payload : List Byte) (s : State) : Result :=
  running s fun s => (s.submit m .inputFilter note payload).settle

/-- STORE_CHECK (R82, R90). -/
def execStoreCheck (m : Side) (note : Bool) (payload : List Byte) (s : State) : Result :=
  running s fun s => (s.submit m .storeCheck note payload).settle

/-- SPEAKER_SETUP (R152, R155). -/
def execSpeakerSetup (m : Side) (note : Bool) (payload : List Byte) (s : State) : Result :=
  running s fun s => (s.submit m .speakerSetup note payload).settle

/-- SPEAKER_RESET (R156). -/
def execSpeakerReset (m : Side) (note : Bool) (payload : List Byte) (s : State) : Result :=
  running s fun s => (s.submit m .speakerReset note payload).settle

end Sys2Proof.Machine
end

