-- ==== Sys2Proof/Machine/SoundCommands.lean ====
section
/-! DEFINITION. The sample event, the voices' steps, the duck tick, the carrier period and the speaker stage's events. -/

namespace Sys2Proof.Machine

/-- OUTPUT_SAMPLE_EVENT (R125 to R127, R139, R142 to R149). -/
def execOutputSampleEvent (s : State) : Result := running s fun s => s.sampleEvent.settle

/-- The current step of a PLAYING voice ends when its step counts left are 0, and not before (R137): its next step, or the end of its
pattern, which is reported to the cue that holds the voice. -/
def State.stepEnd (s : State) (v : Fin 4) : State :=
  if (s.tone.voices[v]).stepOver then
    match (s.tone.voices[v]).nextStep with
    | some x => s.onVoice v fun _ => x
    | none =>
      match (s.sched.voices[v]).holder with
      | some r => (s.stopVoice v).patternEnded r
      | none => s.stopVoice v
  else s

/-- STEP_END (R137). -/
def execStepEnd (v : Fin 4) (s : State) : Result := running s fun s => (s.stepEnd v).settle

/-- What the part does of its own when no command waits (log 2): the end of a tone step whose counts have run out comes before any
time passes (R137); else one count of the tone clock passes. -/
def idleStep (s : State) : Result :=
  match s.stepDue? with
  | some v => execStepEnd v s
  | none => .next s.tick

/-- DUCK_TICK (R145). -/
def execDuckTick (s : State) : Result := running s State.duckTick

/-- CARRIER_PERIOD (R150, R151). -/
def execCarrierPeriod (s : State) : Result := running s fun s => s.onMixer Mixer.carrier

/-- OVER_CURRENT_TRIP (R153). The sense input is a pin: while the reset input is held low the part does nothing, but the pin takes its
level (logs 16, 17). -/
def execOverCurrentTrip (active : Bool) (s : State) : Result :=
  .next (if s.resetHeld then s.takeSense active else (s.senseLevel active).settle)

/-- RETRY_TIMER_EXPIRY (R154). -/
def execRetryTimerExpiry (s : State) : Result := running s fun s => s.retryExpiry.settle

end Sys2Proof.Machine
end

