-- ==== Sys2Proof/Machine/StoreCommands.lean ====
section
/-! DEFINITION. The catalog check and the store port. -/

namespace Sys2Proof.Machine

/-- CHECK_BEGIN (R91): the pending check begins if its conditions hold. -/
def execCheckBegin (s : State) : Result := running s fun s => s.tryBeginCheck

/-- CHECK_END (R92 to R96). -/
def execCheckEnd (flash : Flash) (s : State) : Result := running s fun s => (s.endCheck flash).settle

/-- STORE_BURST_END (R117, R119, R122). -/
def execStoreBurstEnd (flash : Flash) (s : State) : Result := running s fun s => (s.endBurst flash).settle

end Sys2Proof.Machine
end

