-- ==== Sys2Proof/Machine/Dispatch.lean ====
section
/-! DEFINITION. One arm per command. -/

namespace Sys2Proof.Machine

/-- The effect of a command on everything but the queue. -/
def exec (i : Instr) (s : State) : Host.Outcome State Fault Refusal :=
  match i with
  | .powerReset stillLow => Sys2Proof.Machine.execPowerReset stillLow s
  | .characterReceived m c => Sys2Proof.Machine.execCharacterReceived m c s
  | .stopBitLow m => Sys2Proof.Machine.execStopBitLow m s
  | .linkGapTimerExpiry m => Sys2Proof.Machine.execLinkGapTimerExpiry m s
  | .dispatch m => Sys2Proof.Machine.execDispatch m s
  | .frameSent m dispatchFirst => Sys2Proof.Machine.execFrameSent m dispatchFirst s
  | .attach m note payload => Sys2Proof.Machine.execAttach m note payload s
  | .status m note payload => Sys2Proof.Machine.execStatus m note payload s
  | .context m note payload => Sys2Proof.Machine.execContext m note payload s
  | .programs m note payload => Sys2Proof.Machine.execPrograms m note payload s
  | .bandText m note payload => Sys2Proof.Machine.execBandText m note payload s
  | .profile m note payload => Sys2Proof.Machine.execProfile m note payload s
  | .focusClaim m note payload => Sys2Proof.Machine.execFocusClaim m note payload s
  | .cuePost m note payload => Sys2Proof.Machine.execCuePost m note payload s
  | .cueCancel m note payload => Sys2Proof.Machine.execCueCancel m note payload s
  | .cueQuery m note payload => Sys2Proof.Machine.execCueQuery m note payload s
  | .fence m note payload => Sys2Proof.Machine.execFence m note payload s
  | .toneDefine m note payload => Sys2Proof.Machine.execToneDefine m note payload s
  | .sceneWrite m note payload => Sys2Proof.Machine.execSceneWrite m note payload s
  | .sceneFromStore m note payload => Sys2Proof.Machine.execSceneFromStore m note payload s
  | .lampSet m note payload => Sys2Proof.Machine.execLampSet m note payload s
  | .inputMask m note payload => Sys2Proof.Machine.execInputMask m note payload s
  | .inputForce m note payload => Sys2Proof.Machine.execInputForce m note payload s
  | .inputFilter m note payload => Sys2Proof.Machine.execInputFilter m note payload s
  | .storeCheck m note payload => Sys2Proof.Machine.execStoreCheck m note payload s
  | .speakerSetup m note payload => Sys2Proof.Machine.execSpeakerSetup m note payload s
  | .speakerReset m note payload => Sys2Proof.Machine.execSpeakerReset m note payload s
  | .deadlinePasses x => Sys2Proof.Machine.execDeadlinePasses x s
  | .holdTimerExpiry r => Sys2Proof.Machine.execHoldTimerExpiry r s
  | .cueGapEnd x => Sys2Proof.Machine.execCueGapEnd x s
  | .fadeTimerExpiry r => Sys2Proof.Machine.execFadeTimerExpiry r s
  | .checkBegin => Sys2Proof.Machine.execCheckBegin s
  | .checkEnd flash => Sys2Proof.Machine.execCheckEnd flash s
  | .storeBurstEnd flash => Sys2Proof.Machine.execStoreBurstEnd flash s
  | .outputSampleEvent => Sys2Proof.Machine.execOutputSampleEvent s
  | .stepEnd v => Sys2Proof.Machine.execStepEnd v s
  | .duckTick => Sys2Proof.Machine.execDuckTick s
  | .carrierPeriod => Sys2Proof.Machine.execCarrierPeriod s
  | .overCurrentTrip active => Sys2Proof.Machine.execOverCurrentTrip active s
  | .retryTimerExpiry => Sys2Proof.Machine.execRetryTimerExpiry s
  | .updateEvent => Sys2Proof.Machine.execUpdateEvent s
  | .displayTransferEnd => Sys2Proof.Machine.execDisplayTransferEnd s
  | .pwmPeriod => Sys2Proof.Machine.execPwmPeriod s
  | .backlightIdleExpiry => Sys2Proof.Machine.execBacklightIdleExpiry s
  | .inputSample levels order => Sys2Proof.Machine.execInputSample levels order s
  | .longPressExpiry k => Sys2Proof.Machine.execLongPressExpiry k s

end Sys2Proof.Machine
end

