-- ==== Sys2Proof/WellFormed.lean ====
section
/-! DEFINITION. Which commands the part's surroundings can present. A meaning is total and does not depend on these
checks (log 21). -/

namespace Sys2Proof

/-- A frame carries at most 96 payload bytes (01 §1.9). -/
def payloadFits (payload : List Byte) : Bool := payload.length ≤ 96

/-- The flash has 24-bit addresses (05 §5.2), each listed once, in rising order, and lists no byte equal to its fill. -/
def Flash.wf (f : Flash) : Bool :=
  f.cells.all (fun c => c.1 < 16777216 && c.2 ≠ f.fill) &&
    (f.cells.map Prod.fst).Pairwise (· < ·)

/-- An order of a sample's events names each class at most once. -/
def orderWf (order : List InputClass) : Bool := order.Nodup

/-- The operands a command can carry. -/
def Instr.wf : Instr → Bool
  | .attach _ _ p | .status _ _ p | .context _ _ p | .programs _ _ p | .bandText _ _ p | .profile _ _ p
  | .focusClaim _ _ p | .cuePost _ _ p | .cueCancel _ _ p | .cueQuery _ _ p | .fence _ _ p | .toneDefine _ _ p
  | .sceneWrite _ _ p | .sceneFromStore _ _ p | .lampSet _ _ p | .inputMask _ _ p | .inputForce _ _ p
  | .inputFilter _ _ p | .storeCheck _ _ p | .speakerSetup _ _ p | .speakerReset _ _ p => payloadFits p
  | .checkEnd f | .storeBurstEnd f => f.wf
  | .inputSample _ order => orderWf order
  | .powerReset _ | .characterReceived _ _ | .stopBitLow _ | .linkGapTimerExpiry _ | .dispatch _ | .frameSent _ _
  | .deadlinePasses _ | .holdTimerExpiry _ | .cueGapEnd _ | .fadeTimerExpiry _ | .checkBegin | .outputSampleEvent
  | .stepEnd _ | .duckTick | .carrierPeriod | .overCurrentTrip _ | .retryTimerExpiry | .updateEvent
  | .displayTransferEnd | .pwmPeriod | .backlightIdleExpiry | .longPressExpiry _ => true

end Sys2Proof
end

