-- ==== Sys2Proof/Safety.lean ====
section
/-! DEFINITION. What holds of the part between commands: the laws the spec states of its queues, contexts, stage, store port and
resources, and what "nothing is waiting to be settled" means. -/

namespace Sys2Proof.Machine

/-! ### At rest between commands (log 6) -/

/-- An IDLE transmitter has nothing to choose (R15). -/
def Link.atRest (l : Link) : Prop := l.tx = .idle → l.reply = none ∧ l.available = []

/-- Nothing waits to be settled: no arbitration is due (R61), no pending check can begin (R91), an IDLE port has no eligible
channel (R116), and no IDLE transmitter has a frame to choose (R15). -/
def State.Settled (s : State) : Prop :=
  s.sched.arbDue = false ∧ s.checkCanBegin = false ∧
    (s.store.port = .idle → s.eligibleS = false ∧ s.eligibleG = false) ∧ (s.link .w).atRest ∧ (s.link .d).atRest

/-- The reset input is high and nothing waits to be settled. -/
def State.AtRest (s : State) : Prop := s.resetHeld = false ∧ s.Settled

/-- A request arriving now on link `m` is dispatched at once (R6). -/
def State.TakesRequest (s : State) (m : Side) : Prop :=
  s.AtRest ∧ (s.link m).queue = [] ∧ (s.link m).inService = none ∧ (s.link m).reply = none

/-- It also passes checks 3 and 4 of R7. -/
def State.ServesRequest (s : State) (m : Side) : Prop :=
  s.TakesRequest m ∧ s.partState = .ready ∧ s.attached m = true

/-- The state after a reply to a request of kind `k` is formed, its condition byte from `s` (R10, R11); an IDLE transmitter
begins to send it (R15). -/
def State.answered (s : State) (m : Side) (k : RequestKind) (body : ReplyBody) (note : Bool) : State :=
  let r : Reply := { echo := k.code, body, condition := if note then some (s.conditionByte m) else none }
  s.onLink m fun l =>
    { l with reply := some r, tx := match l.tx with
      | .idle => .sending (.reply r)
      | .sending f => .sending f }

/-- The state after a DONE reply without a result. -/
def State.done (s : State) (m : Side) (k : RequestKind) (note : Bool) : State := s.answered m k (.done []) note

/-- The state after a REFUSED reply. -/
def State.refuses (s : State) (m : Side) (k : RequestKind) (reason : Reason) (note : Bool) : State :=
  s.answered m k (.refused reason) note

/-- A link whose IDLE transmitter begins a frame (R15). -/
def Link.sends (l : Link) (f : TxFrame) : Link :=
  { l with tx := match l.tx with
    | .idle => .sending f
    | .sending g => .sending g }

/-- The CUE_DONE report of a cue of machine `m` that enters REPORTING now (R12, R49). -/
def State.doneReport (s : State) (m : Side) (c : Cue) (o : CueOutcome) : DoneReport :=
  { order := (s.link m).nextOrder, uid := c.uid, id := c.id, outcome := o, flags := c.flags, preempts := c.preempts }

/-- The state after the cue `c` of slot `i`, of machine `m`, enters REPORTING (R49): outcome set, phase and end cause cleared, its
timers stopped, its report at the tail of the list. -/
def State.reported (s : State) (i : Fin 24) (c : Cue) (m : Side) (o : CueOutcome) : State :=
  { s with
    sched := { s.sched with table := s.sched.table.set i (some
      { c with state := .reporting, outcome := some o, phase := none, endCause := none, holdTimer := none,
               gapTimer := none, fade := none }) },
    links := s.links.modify m fun l =>
      { l with done := l.done ++ [s.doneReport m c o], nextOrder := l.nextOrder + 1 } }

/-- No fence of machine `m` and no reservation of slot `i` that the end of its cue could set free (R43, R69). -/
def State.EndsQuietly (s : State) (m : Side) (i : Fin 24) : Prop :=
  s.sched.markers.get m = [] ∧
    (∀ (j : Fin 24) c, s.sched.table[j] = some c → j ≠ i → c.ofMachine m = true → c.state ≠ .held) ∧
    s.sched.path.reservation ≠ some (.slot i) ∧ ∀ v : Fin 4, (s.sched.voices[v]).reservation ≠ some (.slot i)

/-- No cue waits for its turn (R62, R70). -/
def State.NothingToServe (s : State) : Prop := s.candidates = [] ∧ s.sched.feedback.pending = none

/-- No resource is reserved for a cue (R69). -/
def State.Unreserved (s : State) (r : CueRef) : Prop :=
  s.sched.path.reservation ≠ some r ∧ ∀ v : Fin 4, (s.sched.voices[v]).reservation ≠ some r

/-! ### Posts, starts and ends of play, as the statements write them out -/

/-- A CUE_POST of machine `m` with this id passes the checks on id, quota and table, takes slot `i`, the lowest free one (log 8), and
has no fence marker before it (R40, R43). -/
def State.PostsInto (s : State) (m : Side) (id : Nat) (i : Fin 24) : Prop :=
  (∀ (j : Fin 24) c, s.sched.table[j] = some c → c.ofMachine m = true → c.id ≠ id) ∧ s.machineCount m < 16 ∧
    s.sched.table[i] = none ∧ (∀ j : Fin 24, j < i → s.sched.table[j] ≠ none) ∧ s.sched.markers.get m = []

/-- The record of a cue posted now, WAITING (R37, R40). The serial is the model's (log 8). -/
def State.newCue (s : State) (m : Side) (r : CuePostReq) (tone : Option TonePart) (scene : Option (Fin 8)) : Cue :=
  { uid := s.sched.nextUid, id := r.id, origin := .machine m, cls := r.cls, group := r.group,
    deadline := if r.lifetime = 0 then none else some (s.now + r.lifetime * 100000), repeats := r.repeats,
    gapLength := r.gapLength, speech := r.speech, tone, scene, lamp := r.lamp, hold := r.hold, state := .waiting,
    phase := none, preempts := 0, repeatsLeft := r.repeats, flags := ⟨false, false, false⟩, endCause := none,
    deadlinePassed := false, posting := s.sched.nextPosting.get m, outcome := none, latestStart := 0,
    speechPlays := false, utteranceEnded := false, patternEnded := false, holdTimer := none, gapTimer := none,
    fade := none }

/-- A post of machine `m` takes its serial (log 8) and its posting number (R38). -/
def Sched.posted (sc : Sched) (m : Side) : Sched :=
  { sc with nextUid := sc.nextUid + 1, nextPosting := sc.nextPosting.modify m (· + 1) }

/-- A cue of machine `m` starts in slot `i` with the record `c`: the serial of a start is taken (log 8) and the machine is the last
served of its class (R66). -/
def Sched.withStart (sc : Sched) (i : Fin 24) (c : Cue) (m : Side) : Sched :=
  { sc with
    table := sc.table.set i (some c), nextStart := sc.nextStart + 1,
    lastAlarm := if c.cls = .alarm then some m else sc.lastAlarm,
    lastPrompt := if c.cls = .prompt then some m else sc.lastPrompt,
    lastChime := if c.cls = .chime then some m else sc.lastChime }

/-- The record of a cue that starts with neither speech nor tone (R66, R72): MAIN, with its hold timer running. -/
def Cue.holding (c : Cue) (serial now : Nat) : Cue :=
  { c with
    state := .playing, phase := some .main, latestStart := serial, speechPlays := false, utteranceEnded := false,
    patternEnded := false, endCause := none, fade := none, gapTimer := none,
    holdTimer := some (now + c.hold * 100000) }

/-- A PLAYING cue that enters ENDING (R68, R76, R146). -/
def Cue.fadingAs (c : Cue) (cause : EndCause) (now : Nat) : Cue :=
  { c with state := .ending, phase := none, endCause := some cause, holdTimer := none,
           fade := some { factor := 256, timer := now + 1000 } }

/-- A voice that begins a pattern (R136). -/
def voiceAt (q : Fin 32) (p : Pattern) : Voice :=
  { playing := true, pattern := some q, copy := some p, stepIndex := 0, loopIndex := 0,
    countsLeft := match p.steps with
      | st :: _ => st.duration * 10000
      | [] => 0,
    phase := 0 }

/-- The display after a start (R169): FULL, the idle timer stopped; the ring effect is `t`'s. -/
def State.displayOfStart (s t : State) : Display :=
  { s.display with backlight := .full, idleTimer := none, ringEffect := t.display.ringEffect }

/-- The display after a cue has left PLAYING (R169): the idle timer restarts when no cue is PLAYING; the ring effect is `t`'s. -/
def State.displayOfEnd (s t : State) : Display :=
  { s.display with
    idleTimer := if t.anyPlaying then s.display.idleTimer else some (s.now + 60000000),
    ringEffect := t.display.ringEffect }

/-- Slot `i` has given up the resources it holds (R74, R76): with the speech path go the utterance, channel S, its burst and the ring
(R99, R120, R128); voice `v` is idle (R140, log 20). -/
def State.freed (s : State) (i : Fin 24) (v : Option (Fin 4)) : State :=
  let held := s.sched.path.holder = some (.slot i)
  { s with
    sched := { s.sched with
      path := if held then { s.sched.path with holder := none } else s.sched.path,
      voices := match v with
        | some v => s.sched.voices.set v { s.sched.voices[v] with holder := none }
        | none => s.sched.voices },
    utt := if held then { entries := [], owner := none } else s.utt,
    stream := if held then idleStream else s.stream,
    store := if held then
        { s.store with chanS := idleChannelS, port := if s.store.port = .s then .idle else s.store.port }
      else s.store,
    tone := match v with
      | some v => { s.tone with voices := s.tone.voices.set v idleVoice }
      | none => s.tone }

/-- No check and no transfer of channel G waits for the speech path that slot `i` holds, and no cue has it reserved (R69, R91, R116). -/
def State.FreesQuietly (s : State) (i : Fin 24) : Prop :=
  s.sched.path.holder = some (.slot i) →
    s.store.check = .idle ∧ s.store.chanG = [] ∧ s.sched.path.reservation = none

/-! ### The order of service and the choice of the ring cue -/

/-- The machine whose candidates of a class are served first (R63): not the one that the class's last-served marker names, and W while
it names none. -/
def Sched.firstServed (sc : Sched) (cls : CueClass) : Side :=
  let last : Option Side := match cls with
    | .alarm => sc.lastAlarm
    | .prompt => sc.lastPrompt
    | .chime => sc.lastChime
    | .echo => none
  match last with
  | some .w => .d
  | some .d => .w
  | none => .w

/-- Candidate `a` is served before `b` in an arbitration taken now (R63): by the higher rank; within one class, by the machine; within
one machine, by the smaller posting number. -/
abbrev State.ServedBefore (s : State) (a b : Cue) : Prop :=
  a.cls.rank < b.cls.rank ∨
    (a.cls = b.cls ∧
      ((a.origin ≠ b.origin ∧ a.origin = .machine (s.sched.firstServed a.cls)) ∨
        (a.origin = b.origin ∧ a.posting < b.posting)))

/-- The speech path that a cue needs is blocked for it (R60, R64): its holder is fading, or plays and is not outranked. -/
def State.PathBlocked (s : State) (c : Cue) : Prop :=
  c.speech ≠ none ∧ s.store.state = .ok ∧ ∃ h x, s.sched.path.holder = some h ∧ s.cue? h = some x ∧
    (x.state = .ending ∨ (x.state = .playing ∧ x.cls.rank ≤ c.cls.rank))

/-- The ring's effect is that of the ring cue of `t`, chosen at this moment, where the ring showed `before` (R166). The ring cue is,
of the table cues with a lamp part in PLAYING or ENDING, the one highest in rank and, of equal ranks, earliest in its latest start.
Its effect goes on if the ring showed it and begins now otherwise; with no such cue the ring has no effect. -/
def State.RingChosen (t : State) (before : Option RingEffect) : Prop :=
  ((∀ (i : Fin 24) c, t.sched.table[i] = some c → c.state = .playing ∨ c.state = .ending → c.lamp = none) →
    t.display.ringEffect = none) ∧
  ∀ (i : Fin 24) c, t.sched.table[i] = some c → c.state = .playing ∨ c.state = .ending → c.lamp ≠ none →
    (∀ (j : Fin 24) d, t.sched.table[j] = some d → j ≠ i → d.state = .playing ∨ d.state = .ending → d.lamp ≠ none →
      c.cls.rank < d.cls.rank ∨ (c.cls.rank = d.cls.rank ∧ c.latestStart < d.latestStart)) →
    t.display.ringEffect = match before with
      | some e => if e.cue = i then some e else some { cue := i, start := t.now }
      | none => some { cue := i, start := t.now }

/-- What the ring showed, but for an effect of slot `i`: that of a cue which has left PLAYING and ENDING for a moment (R166). -/
def Display.ringBut (d : Display) (i : Fin 24) : Option RingEffect :=
  match d.ringEffect with
  | some e => if e.cue = i then none else some e
  | none => none

/-! ### Rows taken one after another -/

/-- Take a list of characters on a link, one CHARACTER_RECEIVED after another. -/
def receiveAll (m : Side) : List Byte → State → Option State
  | [], s => some s
  | c :: cs, s =>
    match exec (.characterReceived m c) s with
    | .next t => receiveAll m cs t
    | _ => none

/-- The request row of a kind. -/
def requestRow (m : Side) (k : RequestKind) (note : Bool) (p : List Byte) : Instr :=
  match k with
  | .attach => .attach m note p
  | .status => .status m note p
  | .context => .context m note p
  | .programs => .programs m note p
  | .bandText => .bandText m note p
  | .profile => .profile m note p
  | .focusClaim => .focusClaim m note p
  | .cuePost => .cuePost m note p
  | .cueCancel => .cueCancel m note p
  | .cueQuery => .cueQuery m note p
  | .fence => .fence m note p
  | .toneDefine => .toneDefine m note p
  | .sceneWrite => .sceneWrite m note p
  | .sceneFromStore => .sceneFromStore m note p
  | .lampSet => .lampSet m note p
  | .inputMask => .inputMask m note p
  | .inputForce => .inputForce m note p
  | .inputFilter => .inputFilter m note p
  | .storeCheck => .storeCheck m note p
  | .speakerSetup => .speakerSetup m note p
  | .speakerReset => .speakerReset m note p

/-! ### Invariants -/

/-- The ranges of a context's fields (R22). -/
def Context.InRange (c : Context) : Prop :=
  c.remaining ≤ 999 ∧ c.speed ≤ 1600 ∧ -20 ≤ c.temperature ∧ c.temperature ≤ 95 ∧
    1 ≤ c.programs.length ∧ c.programs.length ≤ 24 ∧ (∀ x ∈ c.programs, x ≤ 1023) ∧ c.index < c.programs.length ∧
    c.bandText.length ≤ 16 ∧ c.volume ≤ 7 ∧ 1 ≤ c.mutedFrom ∧ c.mutedFrom ≤ 7

/-- The catalog holds content only while the store is OK, and within its ranges (R83, R84). -/
def Store.CatalogOk (st : Store) : Prop :=
  match st.state, st.catalog with
  | .failed, none => True
  | .ok, some c =>
    1 ≤ c.languages.length ∧ c.languages.length ≤ 4 ∧ c.images.length ≤ 64 ∧ c.sizeBytes ≤ 16777216 ∧
      ∀ l ∈ c.languages, l.entries.length = 1024
  | _, _ => False

/-- Both contexts are in range, and their languages below the language count (R22, R88). -/
def State.ContextsInRange (s : State) : Prop :=
  s.store.CatalogOk ∧ s.ctx.w.InRange ∧ s.ctx.d.InRange ∧
    s.ctx.w.language < s.languageCount ∧ s.ctx.d.language < s.languageCount

/-- Focus is held by an attached machine, and by nobody only while no machine is attached (R31, R32, R34). -/
def State.FocusAttached (s : State) : Prop :=
  (∀ m, s.focus = some m → s.attached m = true) ∧ (s.focus = none → ∀ m, s.attached m = false)

/-- The bounds of a link's lists and of the frame being received (R1, R5, R13). -/
def Link.Bounded (l : Link) : Prop :=
  l.queue.length ≤ 4 ∧ l.inputs.length ≤ 16 ∧
    match l.asm with
    | .body len got => len ≤ 96 ∧ got.length < len + 2
    | _ => True

/-- Both links are bounded. -/
def State.LinksBounded (s : State) : Prop := s.links.w.Bounded ∧ s.links.d.Bounded

/-- The laws of the speaker stage (R150 to R155): DT in 1 to 16; the trip count at most 3, and below 3 unless TRIPPED or LOCKED;
the retry timer runs exactly in TRIPPED; DRIVING has enable on and the sense input inactive; the gate lines are driven only in
DRIVING, with a duty within DT to 1024 − DT. -/
def Mixer.StageOk (x : Mixer) : Prop :=
  1 ≤ x.deadTime ∧ x.deadTime ≤ 16 ∧ x.trips ≤ 3 ∧ (x.stage = .driving ∨ x.stage = .disabled → x.trips ≤ 2) ∧
    (x.retryTimer.isSome = true ↔ x.stage = .tripped) ∧ (x.stage = .driving → x.enable = true ∧ x.sense = false) ∧
    ∀ g, x.gates = some g →
      x.stage = .driving ∧ 1 ≤ g.deadTime ∧ g.deadTime ≤ 16 ∧ g.deadTime ≤ g.duty ∧ g.duty + g.deadTime ≤ 1024

/-- The laws of the stage, and DISABLED while the reset input is low (R152, log 16). -/
def State.StageLaws (s : State) : Prop := s.mixer.StageOk ∧ (s.resetHeld = true → s.mixer.stage = .disabled)

/-- The ranges of the mixer (R145, R148). -/
def Mixer.MixOk (x : Mixer) : Prop :=
  -32768 ≤ x.mixed ∧ x.mixed ≤ 32767 ∧ ∀ v : Fin 4, 64 ≤ x.duck[v] ∧ x.duck[v] ≤ 256 ∧ x.duck[v] % 16 = 0

/-- The sample ring never holds more than 512 bytes, and has room for the S burst in progress (R116, R123). -/
def State.RingOk (s : State) : Prop :=
  s.stream.ring.length ≤ 512 ∧ (s.store.port = .s → s.stream.ring.length + 32 ≤ 512)

/-- What a link has in service agrees with the Store Interface (R9, R90, R121). -/
def State.ServiceOkAt (s : State) (m : Side) : Prop :=
  let own := s.store.chanG.filter fun t => t.link = m
  match (s.link m).inService with
  | none => own = [] ∧ s.store.currentWaiters.get m = false ∧ s.store.nextWaiters.get m = false
  | some r =>
    (s.link m).reply = none ∧
      match r.kind with
      | .sceneFromStore => own.length = 1 ∧ s.store.currentWaiters.get m = false ∧ s.store.nextWaiters.get m = false
      | .storeCheck => own = [] ∧ (s.store.currentWaiters.get m ≠ s.store.nextWaiters.get m)

/-- The Store Interface's own bookkeeping (R83, R90, R116, R121): the port is the check's exactly while it runs; nobody waits for
no check, and next waiters only for a running one; a grant taken first against a check stands only while that check is pending
(R91); a transfer has a whole number of bursts done, fewer than eight, and a slot of
its own machine; a G burst has a transfer. -/
def State.ServiceOk (s : State) : Prop :=
  s.ServiceOkAt .w ∧ s.ServiceOkAt .d ∧ (s.store.port = .check ↔ s.store.check = .running) ∧
    (s.store.check = .idle → s.store.currentWaiters = .both false) ∧
    (s.store.nextWaiters ≠ .both false → s.store.check = .running) ∧
    (s.store.grantedFirst = true → s.store.check = .pending) ∧ (s.store.port = .g → s.store.chanG ≠ []) ∧
    ∀ t ∈ s.store.chanG, t.bytesDone % 32 = 0 ∧ t.bytesDone < 256 ∧ (t.slot.val < 8 ↔ t.link = .w)

/-- The done-report lists and the cue table agree (R12, R49, R52): serials name one cue each; a listed report is that of a cue of the
link's machine in REPORTING, no two of one cue, in the order of their numbers; and a report being sent is either its list's entry of
that number or of a cue that is gone (R19). -/
def State.ReportsOk (s : State) : Prop :=
  (∀ (i j : Fin 24) c d, s.sched.table[i] = some c → s.sched.table[j] = some d → c.uid = d.uid → i = j) ∧
    (∀ (i : Fin 24) c, s.sched.table[i] = some c → c.uid < s.sched.nextUid) ∧
    ∀ m : Side,
      ((s.link m).done.Pairwise fun a b => a.order < b.order ∧ a.uid ≠ b.uid) ∧
      (∀ r ∈ (s.link m).done, r.order < (s.link m).nextOrder ∧
        ∃ (i : Fin 24) (c : Cue), s.sched.table[i] = some c ∧ c.uid = r.uid ∧ c.origin = .machine m ∧
          c.state = .reporting) ∧
      ∀ f, (s.link m).tx = .sending (.done f) →
        f.order < (s.link m).nextOrder ∧ f.uid < s.sched.nextUid ∧
          (∀ x ∈ (s.link m).done, x.order = f.order ↔ x.uid = f.uid) ∧
          ∀ (i : Fin 24) c, s.sched.table[i] = some c → c.uid = f.uid → c.state = .reporting ∧ c.origin = .machine m

/-- A cue may hold resources: it is PLAYING or ENDING (R59). -/
def State.mayHold (s : State) (r : CueRef) : Prop := ∃ c, s.cue? r = some c ∧ (c.state = .playing ∨ c.state = .ending)

/-- The laws of the resources (R53, R59): every holder is a cue in PLAYING or ENDING; voice 0 carries only the feedback entry and
is never reserved; voices 1 to 3 carry table cues; no cue holds two voices; the speech path is never the feedback entry's;
the pending narration cue has no tone part and the pending feedback cue no speech part. -/
def State.ResourceLaws (s : State) : Prop :=
  (∀ r, s.sched.path.holder = some r → s.mayHold r ∧ r ≠ .feedback) ∧
    (∀ (v : Fin 4) r, (s.sched.voices[v]).holder = some r → s.mayHold r ∧ (v = 0 ↔ r = .feedback) ∧ r ≠ .narration) ∧
    (∀ v w : Fin 4, ∀ r, (s.sched.voices[v]).holder = some r → (s.sched.voices[w]).holder = some r → v = w) ∧
    (s.sched.voices[(0 : Fin 4)]).reservation = none ∧
    (∀ c, s.sched.narration.pending = some c → c.tone = none) ∧
    ∀ c, s.sched.feedback.pending = some c → c.speech = none

/-- The display and lamp levels are 0 to 63 (R157, R165). -/
def Display.LevelsOk (d : Display) : Prop :=
  (∀ m, (d.ringLevels.get m).bright ≤ 63 ∧ (d.ringLevels.get m).background ≤ 63) ∧ d.backlightLevel ≤ 63 ∧
    d.generalLevel ≤ 63

/-- The settings of the Input Unit (R170, R171, R179). -/
def Panel.SettingsOk (p : Panel) : Prop :=
  2 ≤ p.keyN ∧ p.keyN ≤ 16 ∧ 1 ≤ p.encoderN ∧ p.encoderN ≤ 4 ∧ (p.edgesPerDetent = 2 ∨ p.edgesPerDetent = 4) ∧
    p.edgeCount.natAbs < p.edgesPerDetent ∧ ∀ i : Fin 10, (p.lines[i]).run < 16

end Sys2Proof.Machine
end

