-- ==== Sys2Proof/Certificates/Slice0/Obligations.lean ====
section
/-! DEFINITION. The statements for the provers. A conclusion `exec … = .next t` with `t` written out says everything the command
changes and that it changes nothing else. -/

open Sys2Proof Sys2Proof.Machine

/-! ### The queue, time and the power reset -/

/-- A step takes the command at the front of the queue and runs it with the rest (the row's frame, log 1). -/
def Obligations.StepTakesFront : Prop :=
  ∀ (c : Instr) (rest : List Instr) (s : State), s.pending = c :: rest → step s = exec c { s with pending := rest }

/-- The model's choices of time and of a held reset (logs 2, 16, 17 and 28). On an empty queue one count of the tone clock passes, unless a
voice's step is over: the part's own time rises by one microsecond, each PLAYING voice's step counts left falls by one (R137), and
only the voices' counters change with it; that the phase counter moves at a step's last count as well is log 28. A step whose counts
have run out ends before time passes on, the lowest voice first (R137).
A power reset leaves the waiting commands and the level on the sense pin as they are and begins the part's own time anew; while the
reset input stays low no command but another POWER_RESET has an effect, but for the level the sense pin takes, and no time passes. -/
def Obligations.TimeAndHeldReset : Prop :=
  (∀ s : State, s.pending = [] → s.resetHeld = false →
    (∀ v : Fin 4, (s.tone.voices[v]).playing = true → (s.tone.voices[v]).countsLeft ≠ 0) →
    ∃ t, step s = .next t ∧ t = { s with now := s.now + 1, tone := { s.tone with voices := t.tone.voices } } ∧
      ∀ v : Fin 4, t.tone.voices[v] =
        match (s.tone.voices[v]).step? with
        | none => s.tone.voices[v]
        | some st =>
          { s.tone.voices[v] with
            countsLeft := (s.tone.voices[v]).countsLeft - 1,
            phase := if st.period = 0 then 0
              else if (s.tone.voices[v]).phase + 1 = (if st.halfRate then 2 * st.period else st.period) then 0
              else (s.tone.voices[v]).phase + 1 }) ∧
  (∀ (s : State) (v : Fin 4), s.pending = [] → (s.tone.voices[v]).playing = true → (s.tone.voices[v]).countsLeft = 0 →
    (∀ w : Fin 4, w < v → (s.tone.voices[w]).playing = true → (s.tone.voices[w]).countsLeft ≠ 0) →
    step s = exec (.stepEnd v) s) ∧
  (∀ (b : Bool) (s : State), ∃ t, exec (.powerReset b) s = .next t ∧
    t.pending = s.pending ∧ t.mixer.sense = s.mixer.sense ∧ t.resetHeld = b ∧ t.now = 0) ∧
  (∀ (c : Instr) (s : State), s.resetHeld = true → (∀ b, c ≠ .powerReset b) → (∀ a, c ≠ .overCurrentTrip a) →
    exec c s = .next s) ∧
  (∀ (a : Bool) (s : State), s.resetHeld = true →
    exec (.overCurrentTrip a) s = .next { s with mixer := { s.mixer with sense := a } }) ∧
  ∀ s : State, s.resetHeld = true → s.pending = [] → step s = .next s

/-- POWER_RESET (R20, R21, R22, R31, R58, R59, R83, R99, R118, R124, R129, R131, R135, R152, R157, R179): from every state, whatever was
under way, the part comes out with the values the chapters give. That the operand `b` says whether the input is still low, and that a part
whose input is still low already stands as the reset will leave it, first check and idle timer running, is the model's (log 16); that
the posting numbers are those of `State.reset` is log 8. -/
def Obligations.PowerResetAbandonsAll : Prop :=
  let step (period duty duration level : Nat) : ToneStep :=
    { period, duty, duration, level, halfRate := false, inverse := false }
  ∀ (b : Bool) (s : State), ∃ t, exec (.powerReset b) s = .next t ∧
    t.partState = .starting ∧ t.focus = none ∧
    (∀ m, t.context m =
      { attached := false, phase := .idle, remaining := 0, speed := 0, temperature := 20, programs := [68], index := 0,
        wrap := false, bandText := [], bandBlink := false, bandHold := false, idleScene := none, language := 0,
        volume := 4, mutedFrom := 4, assist := false, lastInput := none }) ∧
    (∀ m, (t.link m).asm = .search ∧ (t.link m).queue = [] ∧ (t.link m).inService = none ∧ (t.link m).reply = none ∧
      (t.link m).done = [] ∧ (t.link m).inputs = [] ∧ (t.link m).focusMark = none ∧ (t.link m).profileMark = none ∧
      (t.link m).faultMark = none ∧ (t.link m).pendingStore = false ∧ (t.link m).pendingSpeaker = false ∧
      (t.link m).tx = .idle ∧ (t.link m).fault = false ∧ (t.link m).causes = noCauses ∧ t.readyLine m = !b) ∧
    (∀ i : Fin 24, t.sched.table[i] = none) ∧ t.sched.narration = ⟨none, none⟩ ∧ t.sched.feedback = ⟨none, none⟩ ∧
    (∀ m, t.sched.markers.get m = [] ∧ t.sched.nextPosting.get m = State.reset.sched.nextPosting.get m ∧
      t.machineCount m = 0) ∧ t.tableTotal = 0 ∧
    t.sched.lastAlarm = none ∧ t.sched.lastPrompt = none ∧ t.sched.lastChime = none ∧
    t.sched.path = ⟨none, none⟩ ∧ (∀ v : Fin 4, t.sched.voices[v] = ⟨none, none⟩) ∧
    t.store.state = .failed ∧ t.store.catalog = none ∧ t.store.check = .running ∧ t.store.port = .check ∧
    t.store.currentWaiters = .both false ∧ t.store.nextWaiters = .both false ∧ t.store.chanG = [] ∧
    t.store.chanS = { active := false, index := 1, address := 0, count := 0 } ∧
    t.stream = idleStream ∧ (∀ v : Fin 4, t.tone.voices[v] = idleVoice) ∧
    (∀ p : Fin 32, (t.tone.patterns[p]).isSome = decide (p.val < 8)) ∧
    (t.tone.patterns.toList.take 8 =
        [some { loops := 0, steps := [step 500 250 2 6] },
         some { loops := 0, steps := [step 1000 500 6 9, step 750 375 6 9] },
         some { loops := 0, steps := [step 4000 1000 15 10] },
         some { loops := 3, steps := [step 400 200 25 15, step 600 300 25 15] },
         some { loops := 0, steps := [step 1000 500 20 11, step 800 400 20 11, step 667 333 20 11] },
         some { loops := 1, steps := [step 600 300 8 12, step 0 0 8 12] },
         some { loops := 0, steps := [step 1500 750 4 5] },
         some { loops := 0, steps := [step 250 20 1 4] }]) ∧
    t.mixer.mixed = 0 ∧ (∀ v : Fin 4, t.mixer.duck[v] = 256) ∧ t.mixer.stage = .disabled ∧ t.mixer.enable = false ∧
    t.mixer.deadTime = 8 ∧ t.mixer.trips = 0 ∧ t.mixer.retryTimer = none ∧ t.mixer.gates = none ∧
    (∀ i : Fin 16, t.display.slots[i] =
      { shown := Vector.replicate 16 0, staged := Vector.replicate 16 0, marks := Vector.replicate 4 false }) ∧
    (∀ m, t.display.frozen.get m = none ∧ t.display.ringLevels.get m = { bright := 48, background := 4 }) ∧
    t.display.transfer = .idle ∧ t.display.backlightLevel = 40 ∧ t.display.generalLevel = 0 ∧
    t.display.ringEffect = none ∧ t.display.backlight = .full ∧ t.display.idleTimer = some 60000000 ∧
    t.utt.entries = [] ∧ t.utt.owner = none ∧ (∀ k : Fin 7, t.panel.longTimers[k] = none) ∧
    t.panel.keyN = 5 ∧ t.panel.encoderN = 2 ∧ t.panel.edgesPerDetent = 4 ∧ t.panel.edgeCount = 0 ∧
    ∀ m, t.panel.summary.get m = 0 ∧ t.panel.mask.get m = 511

/-- The state after a power reset meets every invariant of Safety.lean. -/
def Obligations.ResetMeetsInvariants : Prop :=
  State.reset.Settled ∧ State.reset.ContextsInRange ∧ State.reset.FocusAttached ∧ State.reset.LinksBounded ∧
    State.reset.StageLaws ∧ State.reset.mixer.MixOk ∧ State.reset.RingOk ∧ State.reset.ServiceOk ∧
    State.reset.ResourceLaws ∧ State.reset.display.LevelsOk ∧ State.reset.panel.SettingsOk ∧ State.reset.ReportsOk

/-! ### Reception (R1 to R5) -/

/-- CHARACTER_RECEIVED in every assembler state (R1 to R4): the gap timer restarts, and the assembler moves as the table of R1
gives. Nothing else of the part changes.
LINK_GAP_TIMER_EXPIRY and STOP_BIT_LOW (R2): the expiry abandons a partial frame and ends DISCARD; a character whose stop bit
is low abandons a partial frame and leaves the timer and DISCARD alone. -/
def Obligations.ReceptionTable : Prop :=
  (∀ (s : State) (m : Side) (c : Byte), s.resetHeld = false →
    exec (.characterReceived m c) s = .next (s.onLink m fun l0 =>
      let l := { l0 with gapTimer := some (s.now + 10000) }
      match l0.asm with
      | .search => if c = 0xC5 then { l with asm := .length } else l
      | .length =>
        if c.toNat ≤ 96 then { l with asm := .body c.toNat [] }
        else { l with asm := .discard, fault := true, causes := { l.causes with framing := true } }
      | .discard => l
      | .body len got =>
        if got.length < len + 1 then { l with asm := .body len (got ++ [c]) }
        else if 4 ≤ l.queue.length then
          { l with asm := .search, fault := true, causes := { l.causes with overrun := true } }
        else
          let entry : QueueEntry :=
            if (len + ((got ++ [c]).map BitVec.toNat).sum) % 256 = 0 then
              .request (((got ++ [c]).getD 0 0).setWidth 7) (((got ++ [c]).getD 0 0).getLsbD 7)
                (((got ++ [c]).drop 1).take len)
            else .badCheck
          { l with asm := .search, queue := l.queue ++ [entry] })) ∧
  ∀ (s : State) (m : Side), s.resetHeld = false →
    exec (.linkGapTimerExpiry m) s = .next (s.onLink m fun l => { l with asm := .search, gapTimer := none }) ∧
    exec (.stopBitLow m) s = .next (s.onLink m fun l =>
      { l with asm := if l.asm = .discard then .discard else .search })

/-- Every frame the part's own layout makes is received as it was sent (01 §1.9, R1, R4): from SEARCH, with room in the queue, the
characters START, LEN, KIND, any payload of at most 96 bytes and the CHECK that makes the sum 0 put one request entry with that
kind code, note flag and payload at the tail of the queue; only the gap timer changes besides. -/
def Obligations.WholeFrameJoinsQueue : Prop :=
  ∀ (s : State) (m : Side) (kind : Byte) (payload : List Byte), s.resetHeld = false → payload.length ≤ 96 →
    (s.link m).asm = .search → (s.link m).queue.length < 4 →
    receiveAll m ([0xC5, byteOf payload.length, kind] ++ payload ++ [checkByte payload.length kind payload]) s =
      some (s.onLink m fun l =>
        { l with gapTimer := some (s.now + 10000),
                 queue := l.queue ++ [.request (kind.setWidth 7) (kind.getLsbD 7) payload] })

/-! ### Dispatch (R6 to R11) -/

/-- The checks of R7 in their order, on the head of a queue: a bad-check entry, an unknown kind, NOT_READY, NOT_ATTACHED, and a LEN
the table does not allow. The reply is formed and, by an IDLE transmitter, begun; the rest of the queue stays.
A link with a request in service or a reply in its slot, or with an empty queue, dispatches nothing (R6, R9, R10); a request that
arrives behind others waits in the queue, and with 4 entries held is lost with OVERRUN (R4, R5, R6).
DISPATCH of the one queued request is the request's own row on the same state with its queue emptied (R6): what the request rows do
at a free link is what a queued request does when its turn comes (the model's reading, log 1). -/
def Obligations.DispatchChecksAndTurns : Prop :=
  (∀ (s : State) (m : Side) (rest : List QueueEntry), s.AtRest → (s.link m).inService = none → (s.link m).reply = none →
     (∀ (e : QueueEntry), (s.link m).queue = e :: rest →
       let refused (echo : BitVec 7) (r : Reason) (cond : Option Byte) : State := s.onLink m fun l =>
         { l with queue := rest, reply := some ⟨echo, .refused r, cond⟩,
                  tx := match l.tx with
                    | .idle => .sending (.reply ⟨echo, .refused r, cond⟩)
                    | .sending f => .sending f }
       match e with
       | .badCheck => exec (.dispatch m) s = .next (refused 0 .badCheck none)
       | .request code note p =>
         let cond := if note then some (s.conditionByte m) else none
         match kindOfCode code with
         | none => exec (.dispatch m) s = .next (refused code .unknownKind cond)
         | some k =>
           (k ≠ .status → k ≠ .attach → s.partState = .starting →
             exec (.dispatch m) s = .next (refused code .notReady cond)) ∧
           (k ≠ .status → k ≠ .attach → s.partState = .ready → s.attached m = false →
             exec (.dispatch m) s = .next (refused code .notAttached cond)) ∧
           ((k = .status ∨ k = .attach ∨ (s.partState = .ready ∧ s.attached m = true)) → lenAllowed k p = false →
             exec (.dispatch m) s = .next (refused code .format cond)))) ∧
  (∀ (s : State) (m : Side), s.AtRest →
    ((s.link m).inService ≠ none ∨ (s.link m).reply ≠ none ∨ (s.link m).queue = []) → exec (.dispatch m) s = .next s) ∧
  (∀ (s : State) (m : Side) (k : RequestKind) (note : Bool) (p : List Byte), s.AtRest → (s.link m).queue ≠ [] →
    exec (requestRow m k note p) s = .next (s.onLink m fun l =>
      if l.queue.length < 4 then { l with queue := l.queue ++ [.request k.code note p] }
      else { l with fault := true, causes := { l.causes with overrun := true } })) ∧
  ∀ (s : State) (m : Side) (k : RequestKind) (note : Bool) (p : List Byte), s.resetHeld = false →
    (s.link m).inService = none → (s.link m).reply = none → (s.link m).queue = [.request k.code note p] →
    ∃ t, exec (.dispatch m) s = .next t ∧
      exec (requestRow m k note p) (s.onLink m fun l => { l with queue := [] }) = .next t

/-! ### The transmitter (R10, R12 to R15, R52) -/

/-- FRAME_SENT of a reply (R10, R15): the reply slot empties, and with nothing else to send the transmitter becomes IDLE; with the
dispatch of the same moment taken first (01 §1.7, log 23) what follows is DISPATCH at the emptied slot and an IDLE transmitter.
FRAME_SENT of the head CUE_DONE report (R12, R15, R52): the entry leaves the list, the cue's slot is freed, every other slot
keeps its cue, no arbitration is set off, and a reply that waits goes out next.
FRAME_SENT of the head INPUT report (R13, R15): the entry leaves the list, and a reply that waits goes out next.
The transmitter's choice when any frame ends (R14, R15), on what the link holds once the sent frame has left it: the reply if
there is one; otherwise, of the heads of the two lists and the set marks, the one with the lowest report-order number, a state
report reading its content now; otherwise IDLE. With no request queued, a state report's mark is cleared as its frame begins, for
FAULT with the pending causes, and the other marks stay (R14). -/
def Obligations.FrameSentReleasesAndChooses : Prop :=
  ((∀ (s : State) (m : Side) (r : Reply), s.resetHeld = false → (s.link m).tx = .sending (.reply r) →
     ({ s.link m with reply := none }).available = [] →
     exec (.frameSent m false) s = .next (s.onLink m fun l => { l with reply := none, tx := .idle })) ∧
   (∀ (s : State) (m : Side) (r : Reply), s.resetHeld = false → (s.link m).tx = .sending (.reply r) →
     ∃ t, exec (.frameSent m true) s = .next t ∧
       exec (.dispatch m) (s.onLink m fun l => { l with reply := none, tx := .idle }) = .next t) ∧
   (∀ (s : State) (m : Side) (r : DoneReport) (rest : List DoneReport) (i : Fin 24) (c : Cue) (reply : Reply),
     s.resetHeld = false → (s.link m).tx = .sending (.done r) → (s.link m).done = r :: rest →
     (∀ x ∈ rest, x.order ≠ r.order) → (s.link m).reply = some reply →
     s.sched.table[i] = some c → c.state = .reporting → c.uid = r.uid →
     (∀ (j : Fin 24) (d : Cue), s.sched.table[j] = some d → d.uid = r.uid → j = i) →
     ∃ t, exec (.frameSent m false) s = .next t ∧
       t = { s with
         links := s.links.modify m fun l => { l with done := rest, tx := .sending (.reply reply) },
         sched := { s.sched with table := s.sched.table.set i none } }) ∧
   (∀ (s : State) (m : Side) (r : InputReport) (rest : List InputReport) (reply : Reply), s.resetHeld = false →
     (s.link m).tx = .sending (.input r) → (s.link m).inputs = r :: rest → (∀ x ∈ rest, x.order ≠ r.order) →
     (s.link m).reply = some reply → exec (.frameSent m false) s = .next
       (s.onLink m fun l => { l with inputs := rest, tx := .sending (.reply reply) }))) ∧
  ∀ (s : State) (m : Side) (f : TxFrame), s.resetHeld = false → (s.link m).tx = .sending f →
    ∃ t, exec (.frameSent m false) s = .next t ∧
      let l := (s.link m).sent f
      (∀ r, l.reply = some r → (t.link m).tx = .sending (.reply r)) ∧
      (l.reply = none → l.available = [] → (t.link m).tx = .idle) ∧
      (l.reply = none → ∀ n x, (n, x) ∈ l.available → (∀ p ∈ l.available, p ≠ (n, x) → n < p.1) →
        (t.link m).tx = .sending (match x with
          | .done r => .done r
          | .input r => .input r
          | .focus => .focus s.focus
          | .profile => .profile (s.context m).language (s.context m).volume (s.context m).mutedFrom (s.context m).assist
          | .fault => .fault l.pendingStore l.pendingSpeaker s.mixer.trips) ∧
        ((s.link m).queue = [] →
          (t.link m).focusMark = (if x = .focus then none else l.focusMark) ∧
          (t.link m).profileMark = (if x = .profile then none else l.profileMark) ∧
          (t.link m).faultMark = (if x = .fault then none else l.faultMark) ∧
          (t.link m).pendingStore = (if x = .fault then false else l.pendingStore) ∧
          (t.link m).pendingSpeaker = (if x = .fault then false else l.pendingSpeaker)))

/-! ### STATUS and the requests of the Context Unit (R17, R22 to R35) -/

/-- STATUS (R17): the twelve bytes of the reply, in the order of section 1.9, read before anything is cleared; then the FAULT flag
with its causes and the event summary are cleared. -/
def Obligations.StatusReplyClearsFlags : Prop :=
  ∀ (s : State) (m : Side) (note : Bool), s.TakesRequest m →
    let l := s.link m
    let bit (k : Nat) (b : Bool) : Nat := if b then 2 ^ k else 0
    let reply : Reply :=
      { echo := 0x02,
        body := .done
          [if s.partState = .ready then 1 else 0, if s.store.state = .failed then 1 else 0,
           match s.mixer.stage with
             | .disabled => 0
             | .driving => 1
             | .tripped => 2
             | .locked => 3,
           BitVec.ofNat 8 s.mixer.trips,
           match s.focus with
             | none => 0
             | some .w => 1
             | some .d => 2,
           BitVec.ofNat 8 (s.machineCount m), BitVec.ofNat 8 s.tableTotal,
           BitVec.ofNat 8 (bit 0 l.fault + bit 1 l.causes.framing + bit 2 l.causes.overrun + bit 3 l.causes.reportDrop +
             bit 4 l.causes.store + bit 5 l.causes.speaker),
           BitVec.ofNat 8 ((s.panel.summary.get m).toNat / 256), BitVec.ofNat 8 (s.panel.summary.get m).toNat,
           BitVec.ofNat 8 (s.panel.present / 256), BitVec.ofNat 8 s.panel.present],
        condition := if note then some (BitVec.ofNat 8 (bit 0 s.sched.path.holder.isSome +
          bit 1 (s.machineCount m = 16) + bit 2 (s.focus = some m) + bit 3 l.fault)) else none }
    exec (.status m note []) s = .next { s with
      links := s.links.modify m fun l => { l.sends (.reply reply) with
        reply := some reply, fault := false,
        causes := { framing := false, overrun := false, reportDrop := false, store := false, speaker := false } },
      panel := { s.panel with summary := s.panel.summary.set m 0 } }

/-- CONTEXT (R24): an unknown phase is FORMAT; the other fields are clamped, the index against the program count held, and only the
five fields change.
PROGRAMS (R25): a count of 0 or above 24, a wrap byte above 1 and an idle scene of 8 to 254 are FORMAT; otherwise wrap flag,
idle scene and list are written, each code clamped to 1023, and the index is kept below the new count.
BAND_TEXT (R26): blink in bit 0, hold in bit 1, and the first 16 characters of the text as received.
PROFILE (R27): a volume above 7 and an assist byte above 1 are FORMAT; the language is measured against the language count, 1
while the store is FAILED; the muted-from level is not touched, and no mark, narration or feedback follows.
A PROFILE taken at the moment of a panel event, after it: the PROFILE report of that event carries the request's values, also where
an IDLE transmitter has begun it. That a report begun at that moment still takes them is the model's choice (log 25). -/
def Obligations.ContextRequestsWrite : Prop :=
  (∀ (s : State) (m : Side) (note : Bool) (phase r1 r0 v1 v0 temp index : Byte), s.ServesRequest m →
     exec (.context m note [phase, r1, r0, v1, v0, temp, index]) s = .next
       (match [MachinePhase.idle, .fill, .wash, .rinse, .spin, .dry, .cool, .done, .fault][phase.toNat]? with
       | none => s.refuses m .context .format note
       | some ph => ({ s with ctx := s.ctx.modify m fun c =>
           { c with
             phase := ph, remaining := min (r1.toNat * 256 + r0.toNat) 999, speed := min (v1.toNat * 256 + v0.toNat) 1600,
             temperature := max (-20) (min 95 temp.toInt), index := min index.toNat (c.programs.length - 1) } }).done
           m .context note)) ∧
  (∀ (s : State) (m : Side) (note : Bool) (count wrap idle : Byte) (codes : List Byte), s.ServesRequest m →
     codes.length = 2 * count.toNat →
     exec (.programs m note (count :: wrap :: idle :: codes)) s = .next
       (if count.toNat = 0 ∨ 24 < count.toNat ∨ 1 < wrap.toNat ∨ (8 ≤ idle.toNat ∧ idle ≠ 0xFF) then
         s.refuses m .programs .format note
       else
         ({ s with ctx := s.ctx.modify m fun c =>
           { c with
             wrap := wrap = 1, idleScene := if h : idle.toNat < 8 then some ⟨idle.toNat, h⟩ else none,
             programs := (List.range count.toNat).map fun k =>
               min ((codes.getD (2 * k) 0).toNat * 256 + (codes.getD (2 * k + 1) 0).toNat) 1023,
             index := if c.index < count.toNat then c.index else count.toNat - 1 } }).done m .programs note)) ∧
  (∀ (s : State) (m : Side) (note : Bool) (flags : Byte) (text : List Byte), s.ServesRequest m → text.length ≤ 95 →
    exec (.bandText m note (flags :: text)) s = .next
      (({ s with ctx := s.ctx.modify m fun c =>
        { c with bandText := text.take 16, bandBlink := flags.getLsbD 0, bandHold := flags.getLsbD 1 } }).done
        m .bandText note)) ∧
  ∀ (s : State) (m : Side) (note : Bool) (language volume assist : Byte), s.ServesRequest m → s.store.CatalogOk →
    let count := match s.store.catalog with
      | some c => c.languages.length
      | none => 1
    let lang := if language.toNat < count then language.toNat else count - 1
    let written : PerSide Context :=
      s.ctx.modify m fun c => { c with language := lang, volume := volume.toNat, assist := assist = 1 }
    let current (mutedFrom : Nat) : TxFrame := .profile lang volume.toNat mutedFrom (assist = 1)
    (7 < volume.toNat ∨ 1 < assist.toNat →
      exec (.profile m note [language, volume, assist]) s = .next (s.refuses m .profile .format note)) ∧
    (volume.toNat ≤ 7 → assist.toNat ≤ 1 →
      ((∀ g v u a, (s.link m).tx = .sending (.profile g v u a) → (s.link m).profileShown ≠ some s.now) →
        exec (.profile m note [language, volume, assist]) s = .next (({ s with ctx := written }).done m .profile note)) ∧
      (∀ g v u a, (s.link m).tx = .sending (.profile g v u a) → (s.link m).profileShown = some s.now →
        exec (.profile m note [language, volume, assist]) s = .next (({ s with
          ctx := written,
          links := s.links.modify m fun l => { l with tx := .sending (current (s.context m).mutedFrom) } }).done
          m .profile note)) ∧
      (s.focus = some m → (s.link m).tx = .idle → s.panel.longTimers[keyTimer .volume] ≠ none →
        ∃ t u : State, exec (.longPressExpiry .volume) s = .next t ∧
          (∃ g v w a, (t.link m).tx = .sending (.profile g v w a)) ∧
          exec (.profile m note [language, volume, assist]) t = .next u ∧
          (u.link m).tx = .sending (current
            (if 0 < (s.context m).volume then (s.context m).volume else (s.context m).mutedFrom))))

/-- ATTACH of a machine that has no cue in the table (R18, R19, R22, R23, R32, R129, R163, R176): everything of the machine returns
to its reset values, focus goes to it if nobody holds it, and nothing of the other machine changes.
The posting sequence starts afresh (R38); that it counts from 0 is the model's (log 8).
ATTACH purges (R56, R57): whatever cues the machine had, none is left in its count, markers and posting numbers begin anew; a cue
that was not sounding leaves its slot free, one that was PLAYING fades with end cause PURGED, one that was fading fades on as PURGED;
the other machine's cues keep their slots.
Again 0 is where the model's posting numbers start (log 8). -/
def Obligations.AttachResetsAndPurges : Prop :=
  (∀ (s : State) (m : Side) (note : Bool), s.TakesRequest m → s.FocusAttached →
     (∀ (i : Fin 24) c, s.sched.table[i] = some c → c.ofMachine m = false) →
     exec (.attach m note []) s = .next
       (({ s with
         focus := if s.focus = none then some m else s.focus,
         ctx := s.ctx.set m
           { attached := true, phase := .idle, remaining := 0, speed := 0, temperature := 20, programs := [68], index := 0,
             wrap := false, bandText := [], bandBlink := false, bandHold := false, idleScene := none, language := 0,
             volume := 4, mutedFrom := 4, assist := false, lastInput := none },
         links := s.links.modify m fun l =>
           { l with
             done := [], inputs := [], focusMark := if s.focus = none then some l.nextOrder else none,
             nextOrder := if s.focus = none then l.nextOrder + 1 else l.nextOrder, profileMark := none,
             faultMark := none, pendingStore := false, pendingSpeaker := false, fault := false, causes := noCauses },
         sched := { s.sched with markers := s.sched.markers.set m [], nextPosting := s.sched.nextPosting.set m 0 },
         tone := { s.tone with patterns := Vector.ofFn fun p : Fin 32 =>
           if (m = Side.w ∧ 8 ≤ p.val ∧ p.val ≤ 19) ∨ (m = Side.d ∧ 20 ≤ p.val) then none else s.tone.patterns[p] },
         display := { s.display with
           slots := Vector.ofFn fun i : Fin 16 =>
             if (m = Side.w ∧ i.val < 8) ∨ (m = Side.d ∧ 8 ≤ i.val) then
               { s.display.slots[i] with staged := Vector.replicate 16 0, marks := Vector.replicate 4 true }
             else s.display.slots[i],
           ringLevels := s.display.ringLevels.set m { bright := 48, background := 4 } },
         panel := { s.panel with
           summary := s.panel.summary.set m 0, mask := s.panel.mask.set m 511 } }).answered m .attach
         (.done [1, if s.partState = PartState.starting then 0 else BitVec.ofNat 8 s.languageCount]) note)) ∧
  ∀ (s : State) (m : Side) (note : Bool), s.TakesRequest m →
    ∃ t, exec (.attach m note []) s = .next t ∧ t.machineCount m = 0 ∧ t.sched.markers.get m = [] ∧
      t.sched.nextPosting.get m = 0 ∧
      ∀ (i : Fin 24) c, s.sched.table[i] = some c →
        (c.ofMachine m = true → c.state ≠ .playing → c.state ≠ .ending → t.sched.table[i] = none) ∧
        (c.ofMachine m = true → c.state = .playing → t.sched.table[i] = some
          { c with state := .ending, phase := none, endCause := some .purged, holdTimer := none,
                   fade := some { factor := 256, timer := s.now + 1000 } }) ∧
        (c.ofMachine m = true → c.state = .ending → t.sched.table[i] = some { c with endCause := some .purged }) ∧
        (c.ofMachine m = false → ∃ d, t.sched.table[i] = some d ∧ d.id = c.id ∧ d.origin = c.origin ∧ d.uid = c.uid)

/-- FOCUS_CLAIM (R34, R35) of a machine not in assist mode: the holder's own claim changes nothing; a claim within 10 s of the
holder's last input is FOCUS_BUSY; otherwise focus moves, the claimant's last input time stays, both links get the FOCUS mark, and
the old holder's IDLE transmitter begins the report. -/
def Obligations.FocusClaimDecides : Prop :=
  ∀ (s : State) (m h : Side) (note : Bool), s.ServesRequest m → s.focus = some h → s.attached h = true →
    (s.context m).assist = false →
    exec (.focusClaim m note []) s = .next
      (if h = m then s.done m .focusClaim note
      else if (s.context h).lastInput.any (fun t => s.now < t + 10000000) then s.refuses m .focusClaim .focusBusy note
      else
        let marked (l : Link) : Link :=
          if l.focusMark = none then { l with focusMark := some l.nextOrder, nextOrder := l.nextOrder + 1 } else l
        ({ s with
          focus := some m,
          links := (s.links.modify m marked).modify h fun l =>
            if l.tx = Transmitter.idle then { marked l with focusMark := none, tx := .sending (.focus (some m)) }
            else marked l }).done m .focusClaim note)

/-! ### The cue table (R36 to R58) -/

/-- The fields of CUE_POST (R39): what is FORMAT, what is clamped, and what the fields of an absent part do (nothing).
The phrase items of CUE_POST (01 §1.9, R39): every item form with its range; a list is read item by item and must fill the
payload. -/
def Obligations.CuePostRead : Prop :=
  (∀ (id cls group l1 l0 rep gap hold parts pat timing scene lamp n : Byte) (items : List Byte),
    let speech := parts.getLsbD 0
    let classes : List CueClass := [.alarm, .prompt, .chime]
    let timings : List ToneTiming := [.before, .together, .after]
    let effects : List LampEffect := [.chase, .pulse, .flash]
    parseCuePost (id :: cls :: group :: l1 :: l0 :: rep :: gap :: hold :: parts :: pat :: timing :: scene :: lamp :: n ::
        items) =
      if id = 0 ∨ 2 < cls.toNat ∨ 15 < group.toNat ∨ 15 < rep.toNat ∨ 15 < parts.toNat ∨
          (speech = true ∧ (n = 0 ∨ 16 < n.toNat ∨ parseItems n.toNat items = none)) ∨
          (speech = false ∧ (n ≠ 0 ∨ items ≠ [])) ∨ (parts.getLsbD 1 = true ∧ 2 < timing.toNat) ∨
          (parts.getLsbD 3 = true ∧ 2 < lamp.toNat) then none
      else some
        { id := id.toNat, cls := classes.getD cls.toNat .alarm, group := group.toNat,
          lifetime := min (l1.toNat * 256 + l0.toNat) 6000, repeats := rep.toNat, gapLength := gap.toNat,
          hold := if hold = 0 then 1 else hold.toNat, speech := if speech then parseItems n.toNat items else none,
          tone := if parts.getLsbD 1 then some (pat.toNat, timings.getD timing.toNat .before) else none,
          scene := if parts.getLsbD 2 then some scene.toNat else none,
          lamp := if parts.getLsbD 3 then effects[lamp.toNat]? else none }) ∧
  (∀ a b : Byte, parseItems 1 [1, a, b] =
    if a.toNat * 256 + b.toNat ≤ 1023 then some [.fragment (a.toNat * 256 + b.toNat)] else none) ∧
  (∀ a b u : Byte, parseItems 1 [2, a, b, u] =
    if 9999 < a.toNat * 256 + b.toNat ∨ (15 < u.toNat ∧ u ≠ 0xFF) then none
    else some [.number (a.toNat * 256 + b.toNat) (if u = 0xFF then none else some u.toNat)]) ∧
  (∀ f : Byte, parseItems 1 [3, f] =
    ([ContextField.remaining, .temperature, .speed, .program, .phase][f.toNat]?).map fun x => [.field x]) ∧
  (∀ p : Byte, parseItems 1 [4, p] = if p = 0 then none else some [.pause p.toNat]) ∧
  (∀ (t : Byte) (rest : List Byte), (t = 0 ∨ 4 < t.toNat) → parseItems 1 (t :: rest) = none) ∧
  ∀ (n : Nat) (i : PhraseItem) (is : List PhraseItem) (a b : List Byte), parseItems 1 a = some [i] →
    parseItems n b = some is → parseItems (n + 1) (a ++ b) = some (i :: is)

/-- CUE_POST refused (R39, R40): FORMAT fields first, then the six checks in their order; a refused CUE_POST changes nothing but the
reply. -/
def Obligations.CuePostRefusedInOrder : Prop :=
  ∀ (s : State) (m : Side) (note : Bool) (p : List Byte), s.ServesRequest m → lenAllowed .cuePost p = true →
    (parseCuePost p = none → exec (.cuePost m note p) s = .next (s.refuses m .cuePost .format note)) ∧
    ∀ r, parseCuePost p = some r →
      let empty := r.speech = none ∧ r.tone = none ∧ r.scene = none ∧ r.lamp = none
      let inUse := ∃ (i : Fin 24) (c : Cue), s.sched.table[i] = some c ∧ c.ofMachine m = true ∧ c.id = r.id
      let full := ∀ i : Fin 24, s.sched.table[i] ≠ none
      let badSlot := ∃ k, r.scene = some k ∧ 7 < k
      let badPattern := ∃ k t, r.tone = some (k, t) ∧
        (31 < k ∨ (m = .w ∧ 20 ≤ k) ∨ (m = .d ∧ 8 ≤ k ∧ k < 20) ∨ ∀ h : k < 32, s.tone.patterns[k] = none)
      (empty → exec (.cuePost m note p) s = .next (s.refuses m .cuePost .emptyCue note)) ∧
      (¬empty → inUse → exec (.cuePost m note p) s = .next (s.refuses m .cuePost .idInUse note)) ∧
      (¬empty → ¬inUse → 16 ≤ s.machineCount m →
        exec (.cuePost m note p) s = .next (s.refuses m .cuePost .quota note)) ∧
      (¬empty → ¬inUse → s.machineCount m < 16 → full →
        exec (.cuePost m note p) s = .next (s.refuses m .cuePost .tableFull note)) ∧
      (¬empty → ¬inUse → s.machineCount m < 16 → ¬full → badSlot →
        exec (.cuePost m note p) s = .next (s.refuses m .cuePost .badSlot note)) ∧
      (¬empty → ¬inUse → s.machineCount m < 16 → ¬full → ¬badSlot → badPattern →
        exec (.cuePost m note p) s = .next (s.refuses m .cuePost .badPattern note))

/-- CUE_POST accepted behind a stored fence marker (R37, R40, R43): a free slot takes the record with the values of R37, in HELD, with
the next posting number; nothing else changes and no arbitration is set off. The slot is the lowest free one and the serial is the
model's (log 8).
CUE_POST accepted (R37, R38, R40): whatever the arbitration it sets off does, a slot that was free now holds the cue with every
posted field from the payload, the posting number goes up by one, and every other cue keeps its slot and its posted fields. -/
def Obligations.CuePostTakesSlot : Prop :=
  (∀ (s : State) (m : Side) (note : Bool) (p : List Byte) (r : CuePostReq) (tone : Option TonePart)
     (scene : Option (Fin 8)) (i : Fin 24), s.ServesRequest m → lenAllowed .cuePost p = true → parseCuePost p = some r →
     (r.speech ≠ none ∨ r.tone ≠ none ∨ r.scene ≠ none ∨ r.lamp ≠ none) →
     (∀ (j : Fin 24) c, s.sched.table[j] = some c → c.ofMachine m = true → c.id ≠ r.id) → s.machineCount m < 16 →
     s.sched.table[i] = none → (∀ j : Fin 24, j < i → s.sched.table[j] ≠ none) →
     r.scene = scene.map (fun k => k.val) → r.tone = tone.map (fun t => (t.pattern.val, t.timing)) →
     (∀ t, tone = some t → (s.tone.patterns[t.pattern]).isSome = true ∧
       (t.pattern.val < 8 ∨ (m = .w ∧ t.pattern.val < 20) ∨ (m = .d ∧ 20 ≤ t.pattern.val))) →
     (∃ k ∈ s.sched.markers.get m, k < s.sched.nextPosting.get m) →
     exec (.cuePost m note p) s = .next
       (({ s with sched := { s.sched with
         table := s.sched.table.set i (some
           { uid := s.sched.nextUid, id := r.id, origin := .machine m, cls := r.cls, group := r.group,
             deadline := if r.lifetime = 0 then none else some (s.now + r.lifetime * 100000), repeats := r.repeats,
             gapLength := r.gapLength, speech := r.speech, tone := tone, scene := scene, lamp := r.lamp, hold := r.hold,
             state := .held, phase := none, preempts := 0, repeatsLeft := r.repeats, flags := ⟨false, false, false⟩,
             endCause := none, deadlinePassed := false, posting := s.sched.nextPosting.get m, outcome := none,
             latestStart := 0, speechPlays := false, utteranceEnded := false, patternEnded := false, holdTimer := none,
             gapTimer := none, fade := none }),
         nextUid := s.sched.nextUid + 1,
         nextPosting := s.sched.nextPosting.modify m (· + 1) } }).done m .cuePost note)) ∧
  ∀ (s : State) (m : Side) (note : Bool) (p : List Byte) (r : CuePostReq) (tone : Option TonePart)
    (scene : Option (Fin 8)), s.ServesRequest m → lenAllowed .cuePost p = true → parseCuePost p = some r →
    (r.speech ≠ none ∨ r.tone ≠ none ∨ r.scene ≠ none ∨ r.lamp ≠ none) →
    (∀ (j : Fin 24) c, s.sched.table[j] = some c → c.ofMachine m = true → c.id ≠ r.id) → s.machineCount m < 16 →
    (∃ i : Fin 24, s.sched.table[i] = none) →
    r.scene = scene.map (fun k => k.val) → r.tone = tone.map (fun t => (t.pattern.val, t.timing)) →
    (∀ t, tone = some t → (s.tone.patterns[t.pattern]).isSome = true ∧
      (t.pattern.val < 8 ∨ (m = .w ∧ t.pattern.val < 20) ∨ (m = .d ∧ 20 ≤ t.pattern.val))) →
    ∃ t i c, exec (.cuePost m note p) s = .next t ∧ s.sched.table[(i : Fin 24)] = none ∧
      t.sched.table[i] = some c ∧ c.id = r.id ∧ c.origin = .machine m ∧ c.cls = r.cls ∧ c.group = r.group ∧
      c.deadline = (if r.lifetime = 0 then none else some (s.now + r.lifetime * 100000)) ∧ c.repeats = r.repeats ∧
      c.gapLength = r.gapLength ∧ c.speech = r.speech ∧ c.tone = tone ∧ c.scene = scene ∧ c.lamp = r.lamp ∧
      c.hold = r.hold ∧ c.deadlinePassed = false ∧ c.posting = s.sched.nextPosting.get m ∧
      t.sched.nextPosting.get m = s.sched.nextPosting.get m + 1 ∧ t.machineCount m = s.machineCount m + 1 ∧
      ∀ j : Fin 24, j ≠ i → match s.sched.table[j], t.sched.table[j] with
        | none, none => True
        | some a, some b => a.id = b.id ∧ a.origin = b.origin ∧ a.posting = b.posting ∧ a.uid = b.uid
        | _, _ => False

/-- CUE_POST of a cue with neither speech nor tone, with nothing before it (R40, R61, R63, R66, R71, R72, R169): it starts at once, in
MAIN, with its hold timer running; its machine becomes the class's last served; the backlight is FULL and its idle timer stops; and
the ring cue is chosen afresh among all cues with a lamp part on stage (R166). Slot and serials: log 8. -/
def Obligations.CuePostHoldOnlyStartsAtOnce : Prop :=
  ∀ (s : State) (m : Side) (note : Bool) (p : List Byte) (r : CuePostReq) (scene : Option (Fin 8)) (i : Fin 24),
    s.ServesRequest m → lenAllowed .cuePost p = true → parseCuePost p = some r → r.speech = none → r.tone = none →
    (r.scene ≠ none ∨ r.lamp ≠ none) →
    (∀ (j : Fin 24) c, s.sched.table[j] = some c → c.ofMachine m = true → c.id ≠ r.id) → s.machineCount m < 16 →
    s.sched.table[i] = none → (∀ j : Fin 24, j < i → s.sched.table[j] ≠ none) →
    r.scene = scene.map (fun k => k.val) → s.sched.markers.get m = [] → s.NothingToServe →
    s.sched.path.reservation ≠ some (.slot i) → (∀ v : Fin 4, (s.sched.voices[v]).reservation ≠ some (.slot i)) →
    ∃ t : State, exec (.cuePost m note p) s = .next (t.done m .cuePost note) ∧
      t = { s with
        sched := { s.sched with
          table := s.sched.table.set i (some
            { uid := s.sched.nextUid, id := r.id, origin := .machine m, cls := r.cls, group := r.group,
              deadline := if r.lifetime = 0 then none else some (s.now + r.lifetime * 100000), repeats := r.repeats,
              gapLength := r.gapLength, speech := none, tone := none, scene := scene, lamp := r.lamp, hold := r.hold,
              state := .playing, phase := some .main, preempts := 0, repeatsLeft := r.repeats,
              flags := ⟨false, false, false⟩, endCause := none, deadlinePassed := false,
              posting := s.sched.nextPosting.get m, outcome := none, latestStart := s.sched.nextStart,
              speechPlays := false, utteranceEnded := false, patternEnded := false,
              holdTimer := some (s.now + r.hold * 100000), gapTimer := none, fade := none }),
          nextUid := s.sched.nextUid + 1, nextPosting := s.sched.nextPosting.modify m (· + 1),
          nextStart := s.sched.nextStart + 1,
          lastAlarm := if r.cls = .alarm then some m else s.sched.lastAlarm,
          lastPrompt := if r.cls = .prompt then some m else s.sched.lastPrompt,
          lastChime := if r.cls = .chime then some m else s.sched.lastChime },
        display := { s.display with backlight := .full, idleTimer := none, ringEffect := t.display.ringEffect } } ∧
      (r.lamp = none → (∀ (j : Fin 24) c, s.sched.table[j] = some c → c.lamp = none) → t.display.ringEffect = none) ∧
      (r.lamp ≠ none → (∀ (j : Fin 24) c, s.sched.table[j] = some c → c.lamp = none) → s.display.ringEffect = none →
        t.display.ringEffect = some { cue := i, start := s.now }) ∧
      t.RingChosen s.display.ringEffect

/-- CUE_CANCEL with nothing to select (R46): NO_SUCH_CUE by id, DONE with count 0 by group and for all; a mode above 2 or a group above
15 is FORMAT. Nothing but the reply changes.
CUE_CANCEL of one cue, by its id, in each live state (R46, R47, R49): WAITING, HELD and GAP go to REPORTING with CANCELLED and
their report, PLAYING begins its fade, the ring cue chosen afresh (R166), a fade goes on as CANCELLED. The reply counts 1. -/
def Obligations.CueCancelByState : Prop :=
  (∀ (s : State) (m : Side) (note : Bool) (mode x : Byte), s.ServesRequest m →
    (∀ (i : Fin 24) c, s.sched.table[i] = some c → c.ofMachine m = true → c.state ≠ .reporting →
      (mode = 0 ∧ c.id ≠ x.toNat) ∨ (mode = 1 ∧ c.group ≠ x.toNat) ∨ 2 < mode.toNat ∨ (mode = 1 ∧ 15 < x.toNat)) →
    exec (.cueCancel m note [mode, x]) s = .next
      (if mode = 0 then s.refuses m .cueCancel .noSuchCue note
      else if 2 < mode.toNat ∨ (mode = 1 ∧ 15 < x.toNat) then s.refuses m .cueCancel .format note
      else s.answered m .cueCancel (.done [0]) note)) ∧
  ∀ (s : State) (m : Side) (note : Bool) (id : Byte) (i : Fin 24) (c : Cue), s.ServesRequest m →
    s.sched.table[i] = some c → c.origin = .machine m → c.id = id.toNat → ¬(c.state = .ending ∧ c.endCause = some .purged) →
    (∀ (j : Fin 24) d, s.sched.table[j] = some d → d.ofMachine m = true → d.state ≠ .reporting → d.id = c.id → j = i) →
    ((c.state = .waiting ∨ c.state = .held ∨ c.state = .gap) → s.EndsQuietly m i →
      exec (.cueCancel m note [0, id]) s = .next ((s.reported i c m .cancelled).answered m .cueCancel (.done [1]) note)) ∧
    (c.state = .playing → ∃ t : State, exec (.cueCancel m note [0, id]) s = .next (t.answered m .cueCancel (.done [1]) note) ∧
      t = { s with
        sched := { s.sched with table := s.sched.table.set i (some
          { c with state := .ending, phase := none, endCause := some .cancelled, holdTimer := none,
                   fade := some { factor := 256, timer := s.now + 1000 } }) },
        display := { s.display with
          idleTimer := if t.anyPlaying then s.display.idleTimer else some (s.now + 60000000),
          ringEffect := t.display.ringEffect } } ∧
      t.RingChosen s.display.ringEffect) ∧
    (c.state = .ending → exec (.cueCancel m note [0, id]) s = .next
      (({ s with sched := { s.sched with table := s.sched.table.set i (some
        { c with endCause := some .cancelled }) } }).answered m .cueCancel (.done [1]) note))

/-- CUE_CANCEL by group and for all (R46, R47), whatever fences and arbitrations it sets off: the selected cues are treated in posting
order. A WAITING, HELD or GAP cue is in REPORTING as CANCELLED, a PLAYING one begins its fade, a fade goes on as CANCELLED; the reports
join the list in posting order, before any that the arbitration adds; the reply counts every selected cue; and every other cue keeps
its slot. -/
def Obligations.CancelGroupAndAll : Prop :=
  ∀ (s : State) (m : Side) (note : Bool) (mode x : Byte) (sel : List (Fin 24 × Cue)), s.ServesRequest m →
    ((mode = 1 ∧ x.toNat ≤ 15) ∨ mode = 2) →
    (∀ i c, (i, c) ∈ sel ↔ s.sched.table[(i : Fin 24)] = some c ∧ c.ofMachine m = true ∧ c.state ≠ .reporting ∧
      (mode = 1 → c.group = x.toNat)) →
    sel.Pairwise (fun a b => a.2.posting < b.2.posting) →
    ∃ t, exec (.cueCancel m note [mode, x]) s = .next t ∧
      (∃ cond, (t.link m).reply = some
        { echo := 0x11, body := .done [BitVec.ofNat 8 sel.length], condition := if note then some cond else none }) ∧
      (∃ reports more, (t.link m).done = (s.link m).done ++ reports ++ more ∧
        reports.map (fun r => (r.uid, r.id, r.outcome, r.preempts)) =
          (sel.filter fun p => p.2.state = .waiting || p.2.state = .held || p.2.state = .gap).map fun p =>
            (p.2.uid, p.2.id, .cancelled, p.2.preempts)) ∧
      (∀ i c, (i, c) ∈ sel →
        (c.state = .waiting ∨ c.state = .held ∨ c.state = .gap → t.sched.table[i] = some
          { c with state := .reporting, outcome := some .cancelled, phase := none, endCause := none, holdTimer := none,
                   gapTimer := none, fade := none }) ∧
        (c.state = .playing → t.sched.table[i] = some (c.fadingAs .cancelled s.now)) ∧
        (c.state = .ending → t.sched.table[i] = some { c with endCause := some .cancelled })) ∧
      ∀ j : Fin 24, (∀ c, (j, c) ∉ sel) → match s.sched.table[j], t.sched.table[j] with
        | none, none => True
        | some a, some b => a.id = b.id ∧ a.origin = b.origin ∧ a.posting = b.posting ∧ a.uid = b.uid
        | _, _ => False

/-- CUE_QUERY (R48): five values of the cue found in any state, NO_SUCH_CUE without one; nothing changes but the reply. -/
def Obligations.CueQueryReadsCue : Prop :=
  ∀ (s : State) (m : Side) (note : Bool) (id : Byte), s.ServesRequest m →
    (∀ (i : Fin 24) (c : Cue), s.sched.table[i] = some c → c.ofMachine m = true → c.id = id.toNat →
      (∀ (j : Fin 24) d, s.sched.table[j] = some d → d.ofMachine m = true → d.id = c.id → j = i) →
      exec (.cueQuery m note [id]) s = .next (s.answered m .cueQuery (.done
        [match c.state with
          | .waiting => 0
          | .held => 1
          | .playing => 2
          | .gap => 3
          | .ending => 4
          | .reporting => 5,
         match c.state, c.phase with
          | .playing, some .lead => 0
          | .playing, some .main => 1
          | .playing, some .tail => 2
          | _, _ => 0xFF,
         BitVec.ofNat 8 c.preempts, BitVec.ofNat 8 c.repeatsLeft,
         match c.state, c.outcome with
          | .reporting, some .completed => 0
          | .reporting, some .cancelled => 1
          | .reporting, some .expired => 2
          | .reporting, some .displaced => 3
          | _, _ => 0xFF]) note)) ∧
    ((∀ (i : Fin 24) (c : Cue), s.sched.table[i] = some c → c.ofMachine m = true → c.id ≠ id.toNat) →
      exec (.cueQuery m note [id]) s = .next (s.refuses m .cueQuery .noSuchCue note))

/-- FENCE (R42): the three rows of its table.
The fence law at a removal (R43): when the last live cue before a machine's only marker expires, the marker goes and every HELD
cue of the machine leaves HELD and keeps its slot, id and place. -/
def Obligations.FencesStoreAndRelease : Prop :=
  (∀ (s : State) (m : Side) (note : Bool), s.ServesRequest m →
     let live := ∃ (i : Fin 24) (c : Cue), s.sched.table[i] = some c ∧ c.ofMachine m = true ∧ c.state ≠ .reporting
     (4 ≤ (s.sched.markers.get m).length →
       exec (.fence m note []) s = .next (s.refuses m .fence .fenceLimit note)) ∧
     ((s.sched.markers.get m).length < 4 → ¬live → exec (.fence m note []) s = .next (s.done m .fence note)) ∧
     ((s.sched.markers.get m).length < 4 → live → exec (.fence m note []) s = .next
       (({ s with sched := { s.sched with
         markers := s.sched.markers.modify m (· ++ [s.sched.nextPosting.get m]),
         nextPosting := s.sched.nextPosting.modify m (· + 1) } }).done m .fence note))) ∧
  ∀ (s : State) (m : Side) (i : Fin 24) (c : Cue) (k : Nat), s.AtRest → s.sched.table[i] = some c →
    c.origin = .machine m → c.deadline ≠ none → c.state = .waiting → s.sched.markers.get m = [k] →
    (∀ (j : Fin 24) d, s.sched.table[j] = some d → j ≠ i → d.origin = .machine m →
      d.state = .held ∧ k < d.posting) →
    ∃ t, exec (.deadlinePasses i) s = .next t ∧ t.sched.markers.get m = [] ∧
      ∀ (j : Fin 24) d, s.sched.table[j] = some d → j ≠ i → d.origin = .machine m →
        ∃ e, t.sched.table[j] = some e ∧ e.state ≠ .held ∧ e.id = d.id ∧ e.origin = d.origin ∧ e.posting = d.posting

/-- DEADLINE_PASSES (R44, R45): WAITING and HELD go to REPORTING with EXPIRED, and an IDLE transmitter begins the report; PLAYING, GAP
and ENDING only note it; a cue in REPORTING and a cue without a deadline are not touched. -/
def Obligations.DeadlineExpiresOrIsNoted : Prop :=
  ∀ (s : State) (i : Fin 24) (c : Cue) (m : Side), s.AtRest → s.sched.table[i] = some c → c.origin = .machine m →
    (c.deadline = none → exec (.deadlinePasses i) s = .next s) ∧
    (c.state = .reporting → exec (.deadlinePasses i) s = .next s) ∧
    (c.deadline ≠ none → (c.state = .playing ∨ c.state = .gap ∨ c.state = .ending) →
      exec (.deadlinePasses i) s = .next
        { s with sched := { s.sched with table := s.sched.table.set i (some { c with deadlinePassed := true }) } }) ∧
    (c.deadline ≠ none → (c.state = .waiting ∨ c.state = .held) → s.EndsQuietly m i →
      exec (.deadlinePasses i) s = .next
        ((s.reported i c m .expired).onLink m fun l => l.sends (.done (s.doneReport m c .expired))))

/-! ### Hold, gap and fade (R44, R45, R71 to R77, R146) -/

/-- HOLD_TIMER_EXPIRY of a cue that plays with neither speech nor tone (R72 to R75): with no repeat left it is COMPLETED and reported;
with repeats left and a gap it enters GAP with its timer; with a gap of 0 it starts again at once, or is COMPLETED if its deadline
has passed; a panel cue is gone. A cue whose hold timer does not run is not touched (log 3).
CUE_GAP_END (R45, R75): a cue whose deadline passed is COMPLETED, its repeats left as they are; any other returns to WAITING, where
it stays while a store check bars the speech it needs (R62), and from where a cue with neither speech nor tone starts at once, its
machine last served. A cue in no gap is not touched (log 3). A table cue's class is ALARM, PROMPT or CHIME (R39).
At each end and start of play the ring cue is chosen afresh (R166). Start serials: log 8. -/
def Obligations.HoldAndGapEnd : Prop :=
  ((∀ (s : State) (r : CueRef) (c : Cue), s.AtRest → s.cue? r = some c → c.holdTimer = none →
    exec (.holdTimerExpiry r) s = .next s) ∧
  (∀ (s : State) (i : Fin 24) (c : Cue) (m : Side), s.AtRest → s.sched.table[i] = some c → c.origin = .machine m →
    c.state = .playing → c.holdTimer ≠ none → s.sched.path.holder ≠ some (.slot i) → s.voiceOf (.slot i) = none →
    (c.repeatsLeft = 0 → s.EndsQuietly m i → ∃ t : State,
      exec (.holdTimerExpiry (.slot i)) s = .next (t.onLink m fun l => l.sends (.done (s.doneReport m c .completed))) ∧
      t = { s.reported i c m .completed with display := { s.display with
        idleTimer := if t.anyPlaying then s.display.idleTimer else some (s.now + 60000000),
        ringEffect := t.display.ringEffect } } ∧
      t.RingChosen s.display.ringEffect) ∧
    (0 < c.repeatsLeft → 0 < c.gapLength → ∃ t : State, exec (.holdTimerExpiry (.slot i)) s = .next t ∧
      t = { s with
        sched := { s.sched with table := s.sched.table.set i (some
          { c with state := .gap, phase := none, holdTimer := none, repeatsLeft := c.repeatsLeft - 1,
                   gapTimer := some (s.now + c.gapLength * 100000) }) },
        display := { s.display with
          idleTimer := if t.anyPlaying then s.display.idleTimer else some (s.now + 60000000),
          ringEffect := t.display.ringEffect } } ∧
      t.RingChosen s.display.ringEffect) ∧
    (0 < c.repeatsLeft → c.gapLength = 0 → c.deadlinePassed = true → s.EndsQuietly m i →
      let c' := { c with repeatsLeft := c.repeatsLeft - 1 }
      ∃ t : State,
        exec (.holdTimerExpiry (.slot i)) s = .next (t.onLink m fun l => l.sends (.done (s.doneReport m c .completed))) ∧
        t = { s.reported i c' m .completed with display := s.displayOfEnd t } ∧ t.RingChosen s.display.ringEffect) ∧
    (0 < c.repeatsLeft → c.gapLength = 0 → c.deadlinePassed = false → c.cls ≠ .echo → c.speech = none → c.tone = none →
      s.NothingToServe → s.Unreserved (.slot i) → ∃ t : State, exec (.holdTimerExpiry (.slot i)) s = .next t ∧
      t = { s with
        sched := s.sched.withStart i
          ({ c with repeatsLeft := c.repeatsLeft - 1 }.holding s.sched.nextStart s.now) m,
        display := s.displayOfStart t } ∧
      t.RingChosen (s.display.ringBut i))) ∧
  ∀ (s : State) (c : Cue), s.AtRest → s.sched.narration.current = some c → c.state = .playing → c.holdTimer ≠ none →
    s.sched.path.holder ≠ some .narration → s.voiceOf .narration = none → ∃ t : State,
    exec (.holdTimerExpiry .narration) s = .next t ∧
      t = { s with
        sched := { s.sched with narration := { s.sched.narration with current := none } },
        display := { s.display with
          idleTimer := if t.anyPlaying then s.display.idleTimer else some (s.now + 60000000),
          ringEffect := t.display.ringEffect } } ∧
      t.RingChosen s.display.ringEffect) ∧
  ∀ (s : State) (i : Fin 24) (c : Cue) (m : Side), s.AtRest → s.sched.table[i] = some c → c.origin = .machine m →
    (c.state ≠ .gap → exec (.cueGapEnd i) s = .next s) ∧
    (c.state = .gap → c.deadlinePassed = true → s.EndsQuietly m i →
      exec (.cueGapEnd i) s = .next
        ((s.reported i c m .completed).onLink m fun l => l.sends (.done (s.doneReport m c .completed)))) ∧
    (c.state = .gap → c.deadlinePassed = false → s.NothingToServe → c.speech ≠ none → s.store.state = .ok →
      s.store.check ≠ .idle → exec (.cueGapEnd i) s = .next
        { s with sched := { s.sched with table := s.sched.table.set i (some
          { c with state := .waiting, gapTimer := none }) } }) ∧
    (c.state = .gap → c.deadlinePassed = false → c.cls ≠ .echo → c.speech = none → c.tone = none → s.NothingToServe →
      s.Unreserved (.slot i) → ∃ t : State, exec (.cueGapEnd i) s = .next t ∧
      t = { s with
        sched := s.sched.withStart i (c.holding s.sched.nextStart s.now) m, display := s.displayOfStart t } ∧
      t.RingChosen s.display.ringEffect)

/-- FADE_TIMER_EXPIRY (R76, R77, R146) of a table cue: F falls by 16 every millisecond. At 0 the cue becomes what its end cause says: gone
with its slot, or in REPORTING with its outcome; and a cancelled cue that held the speech path frees it with the utterance, channel S
and the ring. What becomes of a preempted cue that is not late, of a voice, and of a panel cue: FadeEndFreesAndReturns.
A path that is reserved when its holder's fade ends (R64, R65, R69, R76, R77): a DISPLACED holder is reported and a preempted one waits
again, and the reserver, if all it needs is then available, is PLAYING on the path, its reservations gone: with speech alone its list
is assembled and its utterance starts, with a tone part as well it also holds the free voice that was reserved for it. While its
reserved voice is still fading, and no voice is free and unreserved, it waits on, path and voice reserved. The ring cue is chosen
afresh (R166). Start serial: log 8. -/
def Obligations.FadeRunsAndEnds : Prop :=
  (∀ (s : State) (r : CueRef) (c : Cue) (f : FadeRecord), s.AtRest → s.cue? r = some c → c.state = .ending →
    c.fade = some f → 16 < f.factor →
    exec (.fadeTimerExpiry r) s = .next
      (s.setCue r (some { c with fade := some { factor := f.factor - 16, timer := f.timer + 1000 } }))) ∧
  (∀ (s : State) (i : Fin 24) (c : Cue) (m : Side) (f : FadeRecord), s.AtRest → s.sched.table[i] = some c →
    c.origin = .machine m → c.state = .ending → c.fade = some f → f.factor ≤ 16 →
    (c.endCause = some .purged → ∃ t, exec (.fadeTimerExpiry (.slot i)) s = .next t ∧ t.sched.table[i] = none) ∧
    (c.endCause = some .cancelled ∨ c.endCause = some .displaced ∨
        (c.endCause = some .preempted ∧ c.deadlinePassed = true) →
      ∃ t, exec (.fadeTimerExpiry (.slot i)) s = .next t ∧ t.sched.table[i] = some
        { c with
          state := .reporting, phase := none, endCause := none, holdTimer := none, gapTimer := none, fade := none,
          outcome := some (match c.endCause with
            | some .displaced => .displaced
            | some .preempted => .expired
            | _ => .cancelled) }) ∧
    (s.sched.path.holder = some (.slot i) → s.voiceOf (.slot i) = none → c.endCause = some .cancelled →
      s.EndsQuietly m i → s.NothingToServe → s.sched.path.reservation = none → s.store.check = .idle →
      s.store.chanG = [] → s.store.port = .s → ∃ t : State,
      exec (.fadeTimerExpiry (.slot i)) s = .next
        (t.onLink m fun l => l.sends (.done (s.doneReport m c .cancelled))) ∧
      t = { s.reported i c m .cancelled with
        sched := { (s.reported i c m .cancelled).sched with path := { holder := none, reservation := none } },
        utt := { entries := [], owner := none }, stream := idleStream,
        store := { s.store with chanS := idleChannelS, port := .idle },
        display := { s.display with ringEffect := t.display.ringEffect } } ∧
      t.RingChosen s.display.ringEffect)) ∧
  ∀ (s : State) (i a : Fin 24) (c x : Cue) (m n : Side) (f : FadeRecord) (items : List PhraseItem), s.AtRest →
    s.sched.table[i] = some c → c.origin = .machine m → c.state = .ending → c.fade = some f → f.factor ≤ 16 →
    s.sched.path = ⟨some (.slot i), some (.slot a)⟩ → s.voiceOf (.slot i) = none → s.sched.table[a] = some x →
    x.state = .waiting → x.origin = .machine n → x.cls ≠ .echo → x.speech = some items → s.store.state = .ok →
    s.store.check = .idle → s.sched.narration.pending = none → s.sched.feedback.pending = none →
    (∀ (k : Fin 24) d, s.sched.table[k] = some d → k ≠ a → d.state ≠ .waiting) →
    let back : Cue := { c with state := .waiting, endCause := none, fade := none }
    let displaced : Prop := c.endCause = some .displaced ∧ s.EndsQuietly m i
    let returns : Prop := c.endCause = some .preempted ∧ c.deadlinePassed = false ∧ c.speech ≠ none ∧ x.cls.rank < c.cls.rank
    (∀ (g : FragEntry) (rest : List UttEntry), x.tone = none →
      (∀ v : Fin 4, (s.sched.voices[v]).reservation ≠ some (.slot a)) →
      (s.assembleItems (s.context n) items).entries = .fragment g :: rest →
      let x' : Cue :=
        { x with
          state := .playing, phase := some .main, latestStart := s.sched.nextStart, speechPlays := true,
          utteranceEnded := false, patternEnded := false, endCause := none, fade := none, holdTimer := none,
          gapTimer := none, flags := { x.flags with
            isPartial := x.flags.isPartial || (s.assembleItems (s.context n) items).isPartial } }
      let plays (u t : State) : State :=
        { u with
          sched := { u.sched.withStart a x' n with path := ⟨some (.slot a), none⟩ },
          utt := { entries := .fragment g :: rest, owner := some (.slot a) },
          stream := { idleStream with state := .priming, threshold := min (utteranceData (.fragment g :: rest)) 256 },
          store := { s.store with
            chanS := { active := true, index := 2, address := g.start, count := g.count },
            port := if s.store.port = .idle then .s else s.store.port },
          display := s.displayOfStart t }
      (displaced → ∃ t : State,
        exec (.fadeTimerExpiry (.slot i)) s = .next
          (t.onLink m fun l => l.sends (.done (s.doneReport m c .displaced))) ∧
        t = plays (s.reported i c m .displaced) t ∧ t.RingChosen (s.display.ringBut a)) ∧
      (returns → ∃ t : State, exec (.fadeTimerExpiry (.slot i)) s = .next t ∧
        t = plays { s with sched := { s.sched with table := s.sched.table.set i (some back) } } t ∧
        t.RingChosen (s.display.ringBut a))) ∧
    (∀ (v : Fin 4) (tone : TonePart), x.tone = some tone → s.voiceOf (.slot a) = none → v ≠ 0 →
      (∀ w : Fin 4, w ≠ v → (s.sched.voices[w]).reservation ≠ some (.slot a)) → displaced ∨ returns →
      (∀ (g : FragEntry) (rest : List UttEntry), s.sched.voices[v] = ⟨none, some (.slot a)⟩ →
        (s.assembleItems (s.context n) items).entries = .fragment g :: rest →
        ∃ t : State, exec (.fadeTimerExpiry (.slot i)) s = .next t ∧ t.sched.path = ⟨some (.slot a), none⟩ ∧
          t.sched.voices = s.sched.voices.set v ⟨some (.slot a), none⟩ ∧ ∃ e, t.sched.table[a] = some e ∧ e.uid = x.uid ∧
            e.state = .playing ∧ e.phase = some (if tone.timing = ToneTiming.before then .lead else .main) ∧
            e.latestStart = s.sched.nextStart) ∧
      (∀ h y, s.sched.voices[v] = ⟨some h, some (.slot a)⟩ → s.cue? h = some y → y.state = .ending →
        (∀ w : Fin 4, w ≠ 0 → s.sched.voices[w] ≠ ⟨none, none⟩) →
        ∃ t : State, exec (.fadeTimerExpiry (.slot i)) s = .next t ∧ t.sched.path = ⟨none, some (.slot a)⟩ ∧
          t.sched.voices = s.sched.voices ∧ t.sched.table[a] = some x))

/-- The end of a fade (R76 to R78, R53 to R55). A preempted cue whose deadline has not passed is back in WAITING with every posted
field, its posting number, preempt count, repeats left and flags: it stays there while a store check bars the speech it needs (R62, R82),
and with nothing else waiting a cue with tone alone plays again from the beginning of its pattern. A cancelled cue gives up its voice,
which goes idle. A panel cue is removed from its entry, and the feedback cue that waited behind it starts on voice 0.
A voice that is freed while cues wait for it (R61 to R65): of any number of WAITING cues with tone alone, with no other voice to be had, the
one served first takes it and the others wait on, and so does a cue of higher rank whose speech path is blocked. The order of
service is that of R63: rank, then the machine that the last-served marker does not name, then the posting number.
A voice that is reserved (R65, R69, R76, R77): a DISPLACED holder is reported and a preempted one waits again, and the reserver is
PLAYING on that voice, though others be free, its reservation gone. At each end and start of play the ring cue is chosen afresh (R166).
That an idle voice has the values of R135, beyond its state and its pattern, is the model's reading (log 20); the serial of a start
is the model's (log 8). -/
def Obligations.FadeEndFreesAndReturns : Prop :=
  (∀ (s : State) (i : Fin 24) (c : Cue) (m : Side) (f : FadeRecord), s.AtRest → s.sched.table[i] = some c →
    c.origin = .machine m → c.state = .ending → c.fade = some f → f.factor ≤ 16 →
    (c.endCause = some .preempted → c.deadlinePassed = false → c.speech ≠ none → s.store.state = .ok →
      s.store.check ≠ .idle → ∃ t, exec (.fadeTimerExpiry (.slot i)) s = .next t ∧
        t.sched.table[i] = some { c with state := .waiting, endCause := none, fade := none }) ∧
    (∀ (v : Fin 4) (tone : TonePart) (p : Pattern), c.endCause = some .preempted → c.deadlinePassed = false →
      c.cls ≠ .echo → c.speech = none → c.tone = some tone → s.tone.patterns[tone.pattern] = some p →
      s.NothingToServe → s.Unreserved (.slot i) → s.sched.path.holder ≠ some (.slot i) →
      s.voiceOf (.slot i) = some v → v ≠ 0 → (s.sched.voices[v]).reservation = none →
      (∀ w : Fin 4, w ≠ 0 → w < v → s.sched.voices[w] ≠ ⟨none, none⟩) →
      ∃ t : State, exec (.fadeTimerExpiry (.slot i)) s = .next t ∧
        t = { s with
          sched := s.sched.withStart i
            { c with
              state := .playing, phase := some .main, latestStart := s.sched.nextStart, speechPlays := false,
              utteranceEnded := false, patternEnded := false, endCause := none, fade := none, holdTimer := none,
              gapTimer := none } m,
          tone := { s.tone with voices := s.tone.voices.set v (voiceAt tone.pattern p) },
          display := s.displayOfStart t } ∧
        t.RingChosen (s.display.ringBut i)) ∧
    (∀ v : Fin 4, c.endCause = some .cancelled → s.sched.path.holder ≠ some (.slot i) → s.voiceOf (.slot i) = some v →
      s.EndsQuietly m i → s.NothingToServe → ∃ t : State,
        exec (.fadeTimerExpiry (.slot i)) s = .next
          (t.onLink m fun l => l.sends (.done (s.doneReport m c .cancelled))) ∧
        t = { (s.freed i (some v)).reported i c m .cancelled with
          display := { s.display with ringEffect := t.display.ringEffect } } ∧
        t.RingChosen s.display.ringEffect) ∧
    (∀ (v : Fin 4) (a : Fin 24) (x : Cue) (n : Side) (tone : TonePart) (p : Pattern),
      s.sched.path.holder ≠ some (.slot i) → s.voiceOf (.slot i) = some v → v ≠ 0 → s.sched.table[a] = some x →
      x.state = .waiting → x.origin = .machine n → x.cls ≠ .echo → x.speech = none → x.tone = some tone →
      s.tone.patterns[tone.pattern] = some p → s.voiceOf (.slot a) = none → s.sched.narration.pending = none →
      s.sched.feedback.pending = none →
      let x' : Cue :=
        { x with
          state := .playing, phase := some .main, latestStart := s.sched.nextStart, speechPlays := false,
          utteranceEnded := false, patternEnded := false, endCause := none, fade := none, holdTimer := none,
          gapTimer := none }
      let plays (u t : State) : State :=
        { u with
          sched := { u.sched.withStart a x' n with voices := s.sched.voices.set v ⟨some (.slot a), none⟩ },
          tone := { s.tone with voices := s.tone.voices.set v (voiceAt tone.pattern p) },
          display := s.displayOfStart t }
      (c.endCause = some .cancelled → s.EndsQuietly m i → (s.sched.voices[v]).reservation = none → s.Unreserved (.slot a) →
        (∀ w : Fin 4, w ≠ 0 → w ≠ v → ∃ h, s.sched.voices[w] = ⟨some h, none⟩ ∧
          ∀ y, s.cue? h = some y → y.state = .playing → ∀ (k : Fin 24) d, s.sched.table[k] = some d →
            d.state = .waiting → d.speech = none → y.cls.rank ≤ d.cls.rank) →
        (∀ (k : Fin 24) d, s.sched.table[k] = some d → k ≠ a → d.state = .waiting →
          s.PathBlocked d ∨ (d.speech = none ∧ d.tone ≠ none ∧ s.ServedBefore x d)) →
        ∃ t : State, exec (.fadeTimerExpiry (.slot i)) s = .next
            (t.onLink m fun l => l.sends (.done (s.doneReport m c .cancelled))) ∧
          t = plays (s.reported i c m .cancelled) t ∧ t.RingChosen (s.display.ringBut a)) ∧
      ((s.sched.voices[v]).reservation = some (.slot a) → s.sched.path.reservation ≠ some (.slot a) →
        (∀ w : Fin 4, w ≠ v → (s.sched.voices[w]).reservation ≠ some (.slot a)) →
        (∀ (k : Fin 24) d, s.sched.table[k] = some d → k ≠ a → d.state ≠ .waiting) →
        (c.endCause = some .displaced → s.EndsQuietly m i → ∃ t : State,
          exec (.fadeTimerExpiry (.slot i)) s = .next
            (t.onLink m fun l => l.sends (.done (s.doneReport m c .displaced))) ∧
          t = plays (s.reported i c m .displaced) t ∧ t.RingChosen (s.display.ringBut a)) ∧
        (c.endCause = some .preempted → c.deadlinePassed = false → c.tone ≠ none → x.cls.rank < c.cls.rank →
          (∀ w : Fin 4, w ≠ 0 → w ≠ v → ∃ h, s.sched.voices[w] = ⟨some h, none⟩ ∧
            ∀ y, s.cue? h = some y → y.state = .playing → y.cls.rank ≤ c.cls.rank) →
          ∃ t : State, exec (.fadeTimerExpiry (.slot i)) s = .next t ∧
            t = plays { s with sched := { s.sched with table := s.sched.table.set i (some
              { c with state := .waiting, endCause := none, fade := none }) } } t ∧
            t.RingChosen (s.display.ringBut a))))) ∧
  (∀ (s : State) (c : Cue) (f : FadeRecord), s.AtRest → s.sched.narration = ⟨none, some c⟩ → c.state = .ending →
    c.fade = some f → f.factor ≤ 16 →
    ∃ t, exec (.fadeTimerExpiry .narration) s = .next t ∧ t.sched.narration = ⟨none, none⟩) ∧
  ∀ (s : State) (c : Cue) (f : FadeRecord) (next : Option Cue), s.AtRest → s.sched.feedback = ⟨next, some c⟩ →
    c.state = .ending → c.fade = some f → f.factor ≤ 16 → (s.sched.voices[(0 : Fin 4)]).holder = some .feedback →
    s.sched.path.holder ≠ some .feedback →
    ∃ t, exec (.fadeTimerExpiry .feedback) s = .next t ∧
      (next = none → t.sched.feedback = ⟨none, none⟩ ∧ (t.sched.voices[(0 : Fin 4)]).holder = none ∧
        t.tone.voices[(0 : Fin 4)] = idleVoice) ∧
      ∀ d tone p, s.candidates = [] → s.ResourceLaws → next = some d → d.origin = .panel → d.speech = none →
        d.tone = some tone → s.tone.patterns[tone.pattern] = some p →
        t.sched.feedback = ⟨none, some
          { d with
            state := .playing, phase := some .main, latestStart := t.sched.nextStart - 1, speechPlays := false,
            utteranceEnded := false, patternEnded := false, endCause := none, fade := none, holdTimer := none,
            gapTimer := none }⟩ ∧
          (t.sched.voices[(0 : Fin 4)]).holder = some .feedback ∧
          t.tone.voices[(0 : Fin 4)] = voiceAt tone.pattern p

/-! ### The phrase store (R82 to R96, R116 to R122) -/

/-- The tests of a catalog check (R84, R85, R92, R93): a store passes exactly when every test of the header, the addresses and the sum
holds, and the catalog then holds what the store returned. -/
def Obligations.CatalogCheckTests : Prop :=
  ∀ f : Flash,
    let b (k : Nat) : Nat := (flashRead f k).toNat
    let at24 (a : Nat) : Nat := b a * 65536 + b (a + 1) * 256 + b (a + 2)
    let size := (b 4 * 256 + b 5) * 4096
    let dir (k : Nat) : Nat := at24 (at24 (8 + 3 * k) + 1)
    let total (n : Nat) (g : Nat → Nat) : Nat := ((List.range n).map g).sum
    ((runCheck f).isSome = true ↔
      (b 0 = 0x53 ∧ b 1 = 0x4A ∧ b 2 = 0x50 ∧ b 3 = 0x53) ∧ (1 ≤ b 4 * 256 + b 5 ∧ b 4 * 256 + b 5 ≤ 4096) ∧
      (1 ≤ b 6 ∧ b 6 ≤ 4) ∧ b 7 ≤ 64 ∧ (∀ k < b 6, at24 (8 + 3 * k) + 4 ≤ size) ∧
      (b 7 = 0 ∨ at24 20 + 3 * b 7 ≤ size) ∧ (∀ k < b 6, dir k + 8192 ≤ size) ∧
      (total 23 b + total (b 6) (fun k => total 4 fun j => b (at24 (8 + 3 * k) + j)) +
        total (3 * b 7) (fun j => b (at24 20 + j)) +
        total (b 6) (fun k => total 1024 fun c => total 7 fun j => b (dir k + 8 * c + j))) % 65536 =
          b 23 * 256 + b 24) ∧
    ∀ c, runCheck f = some c → c.sizeBytes = size ∧ c.languages.length = b 6 ∧
      c.images = (List.range (b 7)).map (fun n => at24 (at24 20 + 3 * n)) ∧
      ∀ k l, c.languages[k]? = some l → l.wordOrder = (flashRead f (at24 (8 + 3 * k))).getLsbD 0 ∧
        l.join = (flashRead f (at24 (8 + 3 * k))).getLsbD 1 ∧
        l.entries = (List.range 1024).map fun e =>
          { start := at24 (dir k + 8 * e), count := b (dir k + 8 * e + 3) * 256 + b (dir k + 8 * e + 4),
            scale := b (dir k + 8 * e + 5), silence := b (dir k + 8 * e + 6) }

/-- CHECK_END (R28, R90, R94 to R96): store state and catalog take the result, both languages are clamped, the part is READY, every
waiting link gets its DONE with the store state, the next waiters become the current ones of a check that is due, and a store that
goes from OK to FAILED is a fault of every attached machine.
A store found FAILED (R60, R63, R66, R72, R80, R82): every WAITING cue that the check held back for its speech, and that has no tone part,
starts without speech in one arbitration, PARTIAL and with its hold timer running, in the order of R63 that stood when it was taken.
The starts are numbered by the model (log 8). -/
def Obligations.CheckEndHandsOff : Prop :=
  ∀ (s : State) (flash : Flash), s.resetHeld = false → s.store.check = .running →
    ∃ t, exec (.checkEnd flash) s = .next t ∧ t.partState = .ready ∧ t.store.catalog = runCheck flash ∧
      (t.store.state = .ok ↔ runCheck flash ≠ none) ∧
      t.ctx = s.ctx.mapBoth (fun c => { c with language := min c.language (match runCheck flash with
        | some cat => cat.languages.length - 1
        | none => 0) }) ∧
      (s.store.nextWaiters = .both false →
        t.store.check = .idle ∧ t.store.currentWaiters = .both false ∧ t.store.nextWaiters = .both false) ∧
      (s.store.nextWaiters ≠ .both false →
        t.store.check ≠ .idle ∧ t.store.currentWaiters = s.store.nextWaiters ∧ t.store.nextWaiters = .both false) ∧
      (∀ m r, s.store.currentWaiters.get m = true → (s.link m).inService = some r → r.kind = .storeCheck →
        (t.link m).inService = none ∧ ∃ cond, (t.link m).reply = some
          { echo := 0x30, body := .done [if runCheck flash = none then 1 else 0],
            condition := if r.note then some cond else none }) ∧
      (∀ m, s.store.currentWaiters.get m = false →
        (t.link m).inService = (s.link m).inService ∧ (t.link m).reply = (s.link m).reply) ∧
      (s.store.state = .ok → runCheck flash = none → ∀ m, s.attached m = true →
        (t.link m).fault = true ∧ (t.link m).causes.store = true) ∧
      ((∀ (k : Fin 24) d, s.sched.table[k] = some d → d.state = .waiting →
          d.origin ≠ .panel ∧ d.cls ≠ .echo ∧ d.tone = none) →
        s.sched.narration.pending = none → s.sched.feedback.pending = none → runCheck flash = none →
        (∀ (k : Fin 24) d, s.sched.table[k] = some d → d.state = .waiting → ∃ n, s.sched.nextStart ≤ n ∧
          t.sched.table[k] = some { d.holding n s.now with
            flags := { d.flags with isPartial := d.flags.isPartial || d.speech.isSome } }) ∧
        ∀ (j k : Fin 24) a b a' b', s.sched.table[j] = some a → s.sched.table[k] = some b → a.state = .waiting →
          b.state = .waiting → s.ServedBefore a b → t.sched.table[j] = some a' → t.sched.table[k] = some b' →
          a'.latestStart < b'.latestStart)

/-- STORE_CHECK (R82, R90, R91): with no check about, its link waits for a new one, which runs at once when the path and the port let it
and is pending otherwise; a pending check gains a waiter, a running one a next waiter. Of both links at once, the check state IDLE, either
order gives one check that answers both, also when it begins at once; that one moment is one count of the part's time is log 27. The
reply is deferred (R9). As the check becomes
pending, a reservation of the speech path ends, with the voice reservations of the same cue, which waits on as no candidate (R69, R82).
CHECK_BEGIN (R91): the pending check begins exactly when the speech path is free and unreserved and no G burst is in progress; it
takes the port.
STORE_BURST_END of a G burst that kept a pending check waiting (R91): the check begins, or channel G is granted its next burst
first, which of the two is free (log 7); a grant taken first is the last, and at that burst's end the check begins. -/
def Obligations.StoreCheckTakesWaiter : Prop :=
  (∀ (s : State) (m : Side) (note : Bool), s.ServesRequest m →
    let deferred : State := { s with
      links := s.links.modify m fun l => { l with inService := some { kind := .storeCheck, note := note } } }
    let only : PerSide Bool := (PerSide.both false).set m true
    (s.store.check = .idle → s.sched.path.holder = none → s.sched.path.reservation = none → s.store.port ≠ .g →
      exec (.storeCheck m note []) s = .next { deferred with
        store := { s.store with
          check := .running, port := .check, currentWaiters := only, grantedFirst := false, askedAt := some s.now } }) ∧
    (s.store.check = .idle → (s.sched.path.holder ≠ none ∨ s.store.port = .g) → s.sched.path.reservation = none →
      exec (.storeCheck m note []) s = .next { deferred with
        store := { s.store with check := .pending, currentWaiters := only, askedAt := some s.now } }) ∧
    (∀ (r : CueRef) (c : Cue), s.store.check = .idle → s.sched.path.reservation = some r → s.candidate? r = some c →
      c.state = .waiting → c.speech ≠ none → s.store.state = .ok → (∀ x ∈ s.candidates, x = r) →
      s.sched.feedback.pending = none → exec (.storeCheck m note []) s = .next { deferred with
        sched := { s.sched with
          path := { s.sched.path with reservation := none },
          voices := s.sched.voices.map fun x => if x.reservation = some r then { x with reservation := none } else x },
        store := if s.sched.path.holder = none ∧ s.store.port ≠ .g then
            { s.store with
              check := .running, port := .check, currentWaiters := only, grantedFirst := false, askedAt := some s.now }
          else { s.store with check := .pending, currentWaiters := only, askedAt := some s.now } }) ∧
    (s.store.check = .pending → exec (.storeCheck m note []) s = .next { deferred with
      store := { s.store with currentWaiters := s.store.currentWaiters.set m true } }) ∧
    (s.store.check = .running → s.store.askedAt ≠ some s.now → exec (.storeCheck m note []) s = .next { deferred with
      store := { s.store with nextWaiters := s.store.nextWaiters.set m true } }) ∧
    (s.store.check = .running → s.store.askedAt = some s.now → exec (.storeCheck m note []) s = .next { deferred with
      store := { s.store with currentWaiters := s.store.currentWaiters.set m true } })) ∧
  (∀ (s : State) (noteW noteD : Bool), s.ServesRequest .w → s.ServesRequest .d → s.store.check = .idle →
    s.sched.path.reservation = none → ∃ u v t : State,
      exec (.storeCheck .w noteW []) s = .next u ∧ exec (.storeCheck .d noteD []) u = .next t ∧
      exec (.storeCheck .d noteD []) s = .next v ∧ exec (.storeCheck .w noteW []) v = .next t ∧
      t.store.check = (if s.sched.path.holder = none ∧ s.store.port ≠ .g then .running else .pending) ∧
      t.store.currentWaiters = .both true ∧ t.store.nextWaiters = s.store.nextWaiters) ∧
  (∀ s : State, s.resetHeld = false → exec .checkBegin s = .next
    (if s.store.check = .pending ∧ s.sched.path.holder = none ∧ s.sched.path.reservation = none ∧ s.store.port ≠ .g then
      { s with store := { s.store with check := .running, port := .check, grantedFirst := false } }
    else s)) ∧
  ∀ (s : State) (flash : Flash) (x : Transfer) (rest : List Transfer), s.AtRest → s.store.port = .g →
    s.store.check = .pending → s.sched.path.holder = none → s.sched.path.reservation = none → s.store.chanG = x :: rest →
    x.bytesDone < 224 → ∃ t, exec (.storeBurstEnd flash) s = .next t ∧
      t.store.chanG = { x with bytesDone := x.bytesDone + 32 } :: rest ∧
      (s.store.grantedFirst = true → t.store.check = .running ∧ t.store.port = .check) ∧
      (s.store.grantedFirst = false → (t.store.check = .running ∧ t.store.port = .check) ∨
        (t.store.check = .pending ∧ t.store.port = .g ∧ t.store.grantedFirst = true))

/-- STORE_BURST_END of a G burst (R116, R117, R121, R122): two rows of the staged copy are written; before the last burst the transfer
goes on, and after it the slot is complete, the transfer leaves the list and the deferred DONE is formed.
STORE_BURST_END of an S burst inside a fragment, the Stream not priming (R116, R117, R119, R123): the bytes join the ring in
order, the channel's address and count move by 32, and the port goes to the next channel that is eligible, S before G.
Every S burst (R117 to R119, R123, R124): it brings what is left of the fragment, at most 32 bytes. At terminal count the next fragment
of the list is loaded, or without one the channel is IDLE (the address then one past the bytes fetched, log 24). A PRIMING Stream
whose ring holds its threshold is PLAYING and takes up the first entry; any other Stream only gains the bytes. -/
def Obligations.BurstsDeliverBytes : Prop :=
  (∀ (s : State) (flash : Flash) (x : Transfer) (rest : List Transfer), s.AtRest → s.store.port = .g →
    s.store.chanG = x :: rest → s.store.check = .idle → s.eligibleS = false →
    let row (r : Nat) : BitVec 128 := rowOfBytes ((List.range 16).map fun k =>
      flashRead flash (x.start + x.bytesDone + 16 * r + k))
    let staged (p : Picture) : Picture := Vector.ofFn fun r : Fin 16 =>
      if r.val = x.bytesDone / 16 then row 0 else if r.val = x.bytesDone / 16 + 1 then row 1 else p[r]
    let old : SceneSlot := s.display.slots[x.slot]
    (x.bytesDone < 224 → exec (.storeBurstEnd flash) s = .next { s with
      store := { s.store with chanG := { x with bytesDone := x.bytesDone + 32 } :: rest },
      display := { s.display with
        slots := s.display.slots.set x.slot { old with staged := staged old.staged } } }) ∧
    (x.bytesDone = 224 → ∀ note, (s.link x.link).inService = some { kind := .sceneFromStore, note := note } →
      ∃ t : State, exec (.storeBurstEnd flash) s = .next t ∧
        t.display = { s.display with
          slots := s.display.slots.set x.slot
            { old with staged := staged old.staged, marks := Vector.replicate 4 true } } ∧
        t.store = { s.store with chanG := rest, port := if rest = [] then .idle else .g } ∧
        (t.link x.link).inService = none ∧ (t.link x.link).reply = some
          { echo := 0x21, body := .done [], condition := if note then some (s.conditionByte x.link) else none })) ∧
  (∀ (s : State) (flash : Flash), s.AtRest → s.store.port = .s → s.store.check = .idle → s.store.chanS.active = true →
    32 < s.store.chanS.count → s.stream.state ≠ .priming →
    exec (.storeBurstEnd flash) s = .next { s with
      stream := { s.stream with
        ring := s.stream.ring ++ (List.range 32).map fun k => flashRead flash (s.store.chanS.address + k) },
      store := { s.store with
        chanS := { s.store.chanS with address := s.store.chanS.address + 32, count := s.store.chanS.count - 32 },
        port := if s.stream.ring.length + 64 ≤ 512 then .s else if s.store.chanG = [] then .idle else .g } }) ∧
  ∀ (s : State) (flash : Flash), s.AtRest → s.store.port = .s → s.store.check = .idle → s.store.chanS.active = true →
    let ch := s.store.chanS
    let n := min ch.count 32
    let more : Stream := { s.stream with
      ring := s.stream.ring ++ (List.range n).map fun k => flashRead flash (ch.address + k) }
    let silent (l : List UttEntry) : Prop := ∀ x ∈ l, ∃ ms, x = .silence ms
    ∃ t : State, exec (.storeBurstEnd flash) s = .next t ∧
      t = { s with stream := t.stream, store := { s.store with chanS := t.store.chanS, port := t.store.port } } ∧
      (32 < ch.count → t.store.chanS = { ch with address := ch.address + 32, count := ch.count - 32 }) ∧
      (∀ skip f rest, ch.count ≤ 32 → s.utt.entries.drop (ch.index - 1) = skip ++ .fragment f :: rest → silent skip →
        t.store.chanS = { active := true, index := ch.index + skip.length + 1, address := f.start, count := f.count }) ∧
      (ch.count ≤ 32 → silent (s.utt.entries.drop (ch.index - 1)) → t.store.chanS =
        { active := false, index := s.utt.entries.length + 1, address := ch.address + ch.count, count := 0 }) ∧
      (s.stream.state ≠ .priming ∨ more.ring.length < s.stream.threshold → t.stream = more) ∧
      (s.stream.state = .priming → s.stream.threshold ≤ more.ring.length →
        (∀ f rest, s.utt.entries = .fragment f :: rest → t.stream = { more with
          state := .playing, index := 1, part := .samples, bytesLeft := f.count, scale := f.scale, half := .consume }) ∧
        ∀ ms rest, s.utt.entries = .silence ms :: rest → t.stream = { more with
          state := .playing, index := 1, part := .silence, eventsLeft := 16 * ms }) ∧
      t.store.port = if t.store.chanS.active = true ∧ 0 < t.store.chanS.count ∧ more.ring.length + 32 ≤ 512 then .s
        else if s.store.chanG = [] then .idle else .g

/-- SCENE_FROM_STORE (R87, R121, R162): a slot above 7, a FAILED store and an image that is not usable are refused; a usable image
begins a transfer, empties the slot's marks, and its reply is deferred (R9).
SCENE_WRITE (R161): a chunk above 3 is FORMAT, then a slot above 7 is BAD_SLOT; otherwise the four rows of the chunk are written dot
by dot into the staged copy, the leftmost dot of a byte in bit 7, and the chunk is marked. -/
def Obligations.ScenesWrittenAndLoaded : Prop :=
  (∀ (s : State) (m : Side) (note : Bool) (slot image : Byte), s.ServesRequest m → s.store.CatalogOk →
     (7 < slot.toNat → exec (.sceneFromStore m note [slot, image]) s = .next (s.refuses m .sceneFromStore .badSlot note)) ∧
     (slot.toNat ≤ 7 → s.store.state = .failed →
       exec (.sceneFromStore m note [slot, image]) s = .next (s.refuses m .sceneFromStore .storeFailed note)) ∧
     ∀ cat, slot.toNat ≤ 7 → s.store.catalog = some cat →
       (cat.images.length ≤ image.toNat ∨ (∃ a, cat.images[image.toNat]? = some a ∧ cat.sizeBytes < a + 256) →
         exec (.sceneFromStore m note [slot, image]) s = .next (s.refuses m .sceneFromStore .badImage note)) ∧
       ∀ (a : Nat) (i : Fin 16), cat.images[image.toNat]? = some a → a + 256 ≤ cat.sizeBytes →
         i.val = (match m with
           | .w => slot.toNat
           | .d => 8 + slot.toNat) →
         exec (.sceneFromStore m note [slot, image]) s = .next { s with
           store := { s.store with
             chanG := s.store.chanG ++ [{ link := m, slot := i, start := a, bytesDone := 0 }],
             port := if s.store.port = .idle ∧ s.store.check ≠ .running then .g else s.store.port },
           display := { s.display with
             slots := s.display.slots.set i { s.display.slots[i] with marks := Vector.replicate 4 false } },
           links := s.links.modify m fun l =>
             { l with inService := some { kind := .sceneFromStore, note := note } } }) ∧
  ∀ (s : State) (m : Side) (note : Bool) (slot chunk : Byte) (dots : List Byte), s.ServesRequest m → dots.length = 64 →
    (3 < chunk.toNat → exec (.sceneWrite m note (slot :: chunk :: dots)) s = .next (s.refuses m .sceneWrite .format note)) ∧
    (chunk.toNat ≤ 3 → 7 < slot.toNat →
      exec (.sceneWrite m note (slot :: chunk :: dots)) s = .next (s.refuses m .sceneWrite .badSlot note)) ∧
    ∀ (i : Fin 16) (c : Fin 4), c.val = chunk.toNat → slot.toNat ≤ 7 →
      i.val = (match m with
        | .w => slot.toNat
        | .d => 8 + slot.toNat) →
      ∃ picture : Picture,
        (∀ r : Fin 16, (r.val < 4 * c.val ∨ 4 * c.val + 4 ≤ r.val) → picture[r] = (s.display.slots[i]).staged[r]) ∧
        (∀ (r : Fin 16) (x : Nat), 4 * c.val ≤ r.val → r.val < 4 * c.val + 4 → x < 128 →
          (picture[r]).getLsbD (127 - x) =
            (dots.getD (16 * (r.val - 4 * c.val) + x / 8) 0).getLsbD (7 - x % 8)) ∧
        exec (.sceneWrite m note (slot :: chunk :: dots)) s = .next (({ s with
          display := { s.display with
            slots := s.display.slots.set i
              { s.display.slots[i] with staged := picture, marks := (s.display.slots[i]).marks.set c true } } }).done
          m .sceneWrite note)

/-! ### Utterances, speaking starts and preemption (R62 to R72, R99 to R114) -/

/-- The assembly (R86, R101 to R113) from any context, written out: what each item gives (number expansion, unit words, the five fields,
pauses), how a code is looked up in the language and then in language 0 and skipped when absent, the limit of 48 entries, and when
the result is partial. A number of 0 to 9999 expands to 1 to 8 codes. -/
def Obligations.UtteranceAssembled : Prop :=
  (∀ (s : State) (c : Context) (items : List PhraseItem),
    let flags := s.languageFlags c.language
    let number (n : Nat) : List Nat :=
      if n = 0 then [0]
      else (if 1000 ≤ n then [n / 1000, 29] else []) ++ (if 100 ≤ n % 1000 then [n % 1000 / 100, 28] else []) ++
        (if n % 100 ≠ 0 ∧ flags.2 = true ∧ 100 ≤ n then [30] else []) ++
        (if n % 100 = 0 then [] else if n % 100 < 20 then [n % 100]
          else if n % 10 = 0 then [18 + n % 100 / 10]
          else if flags.1 then [n % 10, 30, 18 + n % 100 / 10] else [18 + n % 100 / 10, n % 10])
    let counted (n u : Nat) : List Nat := number n ++ [if n = 1 then 32 + 2 * u else 33 + 2 * u]
    let codes (i : PhraseItem) : List Nat := match i with
      | .fragment k => [k]
      | .number n none => number n
      | .number n (some u) => counted n u
      | .field .remaining =>
        if c.remaining < 60 then counted c.remaining 0
        else counted (c.remaining / 60) 1 ++ if c.remaining % 60 = 0 then [] else 30 :: counted (c.remaining % 60) 0
      | .field .temperature => if c.temperature < 0 then 31 :: counted c.temperature.natAbs 2 else counted c.temperature.natAbs 2
      | .field .speed => counted c.speed 3
      | .field .program => [c.programs.getD c.index 0]
      | .field .phase => [match c.phase with
        | .idle => 69
        | .fill => 70
        | .wash => 71
        | .rinse => 72
        | .spin => 73
        | .dry => 74
        | .cool => 75
        | .done => 76
        | .fault => 77]
      | .pause _ => []
    let found (l k : Nat) : Option UttEntry := match s.store.state, s.store.catalog with
      | .ok, some cat => match (cat.languages[l]?).bind fun x => x.entries[k]? with
        | some e =>
          if e.count ≠ 0 ∧ e.start + e.count ≤ cat.sizeBytes then some (.fragment { e with scale := min e.scale 8 }) else none
        | none => none
      | _, _ => none
    let entryOf (k : Nat) : Option UttEntry := match found c.language k with
      | some e => some e
      | none => if c.language = 0 then none else found 0 k
    let due : List (Option UttEntry) := items.flatMap fun i => match i with
      | .pause p => [some (.silence (10 * p))]
      | i => (codes i).map entryOf
    (s.assembleItems c items).entries = (due.filterMap id).take 48 ∧
      ((s.assembleItems c items).isPartial = true ↔
        48 < (due.filterMap id).length ∨ none ∈ due ∨ due.filterMap id = [])) ∧
  ∀ (order join : Bool) (n : Nat), n ≤ 9999 →
    1 ≤ (numberCodes order join n).length ∧ (numberCodes order join n).length ≤ 8

/-- CUE_POST of a cue with speech alone, the speech path free and nothing before it (R40, R62 to R66, R71, R100, R114, R118, R124): it
takes the path, is PLAYING in MAIN with the list its items give, PARTIAL if the assembly was, and with a fragment first channel S has
that fragment to fetch, the Stream is PRIMING up to 256 bytes, and an IDLE port is given to channel S. The ring cue is chosen afresh
(R166). Slot and serials: log 8. -/
def Obligations.SpeakingCueStarts : Prop :=
  ∀ (s : State) (m : Side) (note : Bool) (p : List Byte) (r : CuePostReq) (items : List PhraseItem) (i : Fin 24)
    (f : FragEntry) (rest : List UttEntry), s.ServesRequest m → lenAllowed .cuePost p = true →
    parseCuePost p = some r → r.speech = some items → r.tone = none → r.scene = none → r.lamp = none →
    (∀ (j : Fin 24) c, s.sched.table[j] = some c → c.ofMachine m = true → c.id ≠ r.id) → s.machineCount m < 16 →
    s.sched.table[i] = none → (∀ j : Fin 24, j < i → s.sched.table[j] ≠ none) → s.sched.markers.get m = [] →
    s.NothingToServe → s.store.state = .ok → s.store.check = .idle → s.sched.path = ⟨none, none⟩ →
    (∀ v : Fin 4, (s.sched.voices[v]).reservation ≠ some (.slot i)) → s.stream = idleStream →
    (s.assembleItems (s.context m) items).entries = .fragment f :: rest →
    ∃ t : State, exec (.cuePost m note p) s = .next (t.done m .cuePost note) ∧
      t = { s with
        sched := { s.sched with
          table := s.sched.table.set i (some
            { uid := s.sched.nextUid, id := r.id, origin := .machine m, cls := r.cls, group := r.group,
              deadline := if r.lifetime = 0 then none else some (s.now + r.lifetime * 100000), repeats := r.repeats,
              gapLength := r.gapLength, speech := some items, tone := none, scene := none, lamp := none, hold := r.hold,
              state := .playing, phase := some .main, preempts := 0, repeatsLeft := r.repeats,
              flags := ⟨(s.assembleItems (s.context m) items).isPartial, false, false⟩, endCause := none,
              deadlinePassed := false, posting := s.sched.nextPosting.get m, outcome := none,
              latestStart := s.sched.nextStart, speechPlays := true, utteranceEnded := false, patternEnded := false,
              holdTimer := none, gapTimer := none, fade := none }),
          nextUid := s.sched.nextUid + 1, nextPosting := s.sched.nextPosting.modify m (· + 1),
          nextStart := s.sched.nextStart + 1, path := ⟨some (.slot i), none⟩,
          lastAlarm := if r.cls = .alarm then some m else s.sched.lastAlarm,
          lastPrompt := if r.cls = .prompt then some m else s.sched.lastPrompt,
          lastChime := if r.cls = .chime then some m else s.sched.lastChime },
        utt := { entries := .fragment f :: rest, owner := some (.slot i) },
        stream := { idleStream with state := .priming, threshold := min (utteranceData (.fragment f :: rest)) 256 },
        store := { s.store with
          chanS := { active := true, index := 2, address := f.start, count := f.count },
          port := if s.store.port = .idle then .s else s.store.port },
        display := { s.display with backlight := .full, idleTimer := none, ringEffect := t.display.ringEffect } } ∧
      t.RingChosen s.display.ringEffect

/-- CUE_POST of a cue with tone alone, nothing waiting before it (R40, R62, R63, R65, R66, R72, R136): it is PLAYING in MAIN on the lowest
free and unreserved voice of 1 to 3, which begins its pattern; the tone timing plays no part (R72). Slot and serials: log 8. -/
def Obligations.ToneCueStarts : Prop :=
  ∀ (s : State) (m : Side) (note : Bool) (p : List Byte) (r : CuePostReq) (q : Fin 32) (timing : ToneTiming)
    (pat : Pattern) (i : Fin 24) (v : Fin 4), s.ServesRequest m → lenAllowed .cuePost p = true →
    parseCuePost p = some r → r.speech = none → r.tone = some (q.val, timing) → r.scene = none → r.lamp = none →
    s.tone.patterns[q] = some pat → (q.val < 8 ∨ (m = .w ∧ q.val < 20) ∨ (m = .d ∧ 20 ≤ q.val)) →
    s.PostsInto m r.id i → s.NothingToServe → s.Unreserved (.slot i) → s.voiceOf (.slot i) = none → v ≠ 0 →
    s.sched.voices[v] = ⟨none, none⟩ → (∀ w : Fin 4, w ≠ 0 → w < v → s.sched.voices[w] ≠ ⟨none, none⟩) →
    ∃ t : State, exec (.cuePost m note p) s = .next (t.done m .cuePost note) ∧
      t = { s with
        sched := { (s.sched.posted m).withStart i
            { s.newCue m r (some ⟨q, timing⟩) none with
              state := .playing, phase := some .main, latestStart := s.sched.nextStart } m with
          voices := s.sched.voices.set v ⟨some (.slot i), none⟩ },
        tone := { s.tone with voices := s.tone.voices.set v (voiceAt q pat) },
        display := s.displayOfStart t }

/-- CUE_POST of a cue with speech and tone, both resources free and nothing waiting before it (R40, R64 to R66, R71, R99, R114, R118, R124,
R136): it holds the speech path and the lowest free voice of 1 to 3, its list is assembled, and its first phase begins. BEFORE: LEAD
with the pattern, no utterance flowing yet. WITH: MAIN with both. AFTER: MAIN with the utterance, the voice held and idle. Slot and
serials: log 8. -/
def Obligations.TwoPartCueStarts : Prop :=
  ∀ (s : State) (m : Side) (note : Bool) (p : List Byte) (r : CuePostReq) (items : List PhraseItem) (q : Fin 32)
    (timing : ToneTiming) (pat : Pattern) (i : Fin 24) (v : Fin 4) (f : FragEntry) (rest : List UttEntry),
    s.ServesRequest m → lenAllowed .cuePost p = true → parseCuePost p = some r → r.speech = some items →
    r.tone = some (q.val, timing) → r.scene = none → r.lamp = none → s.tone.patterns[q] = some pat →
    (q.val < 8 ∨ (m = .w ∧ q.val < 20) ∨ (m = .d ∧ 20 ≤ q.val)) → s.PostsInto m r.id i → s.NothingToServe →
    s.Unreserved (.slot i) → s.voiceOf (.slot i) = none → s.store.state = .ok → s.store.check = .idle →
    s.sched.path = ⟨none, none⟩ → v ≠ 0 → s.sched.voices[v] = ⟨none, none⟩ →
    (∀ w : Fin 4, w ≠ 0 → w < v → s.sched.voices[w] ≠ ⟨none, none⟩) →
    s.stream = idleStream → (s.assembleItems (s.context m) items).entries = .fragment f :: rest →
    ∃ t : State, exec (.cuePost m note p) s = .next (t.done m .cuePost note) ∧
      t = { s with
        sched := { (s.sched.posted m).withStart i
            { s.newCue m r (some ⟨q, timing⟩) none with
              state := .playing, phase := some (if timing = ToneTiming.before then .lead else .main),
              latestStart := s.sched.nextStart, speechPlays := true,
              flags := ⟨(s.assembleItems (s.context m) items).isPartial, false, false⟩ } m with
          path := ⟨some (.slot i), none⟩, voices := s.sched.voices.set v ⟨some (.slot i), none⟩ },
        utt := { entries := .fragment f :: rest, owner := some (.slot i) },
        tone := if timing = ToneTiming.after then s.tone
          else { s.tone with voices := s.tone.voices.set v (voiceAt q pat) },
        stream := if timing = ToneTiming.before then idleStream
          else { idleStream with state := .priming, threshold := min (utteranceData (.fragment f :: rest)) 256 },
        store := if timing = ToneTiming.before then s.store
          else { s.store with
            chanS := { active := true, index := 2, address := f.start, count := f.count },
            port := if s.store.port = .idle then .s else s.store.port },
        display := s.displayOfStart t }

/-- CUE_POST of a cue with speech alone while a cue of lower rank speaks (R60, R62, R64, R67, R68, R76, R146): the speaking cue enters its
fade with its preempt count raised, DISPLACED if it is a CHIME or preempted for the third time, PREEMPTED otherwise; it keeps the path,
which is reserved for the new cue; and the new cue waits. Slot and serial: log 8.
A speaking narration cue gives way to an ALARM (R53, R60, R68): it enters its fade as PREEMPTED, without a count.
A cue with both parts (R65, R67, R68): where the speaking cue is outranked and a voice is free, or the voice victim is outranked too, every
victim fades, one that is both only once, and path and voice are reserved for the new cue; a free voice stays idle until it starts.
Where the speaking cue is not outranked, nobody is preempted and the new cue waits. -/
def Obligations.SpeechPreempts : Prop :=
  (∀ (s : State) (m : Side) (note : Bool) (p : List Byte) (r : CuePostReq) (items : List PhraseItem) (i j : Fin 24)
    (x : Cue), s.ServesRequest m → lenAllowed .cuePost p = true → parseCuePost p = some r → r.speech = some items →
    r.tone = none → r.scene = none → r.lamp = none →
    (∀ (k : Fin 24) c, s.sched.table[k] = some c → c.ofMachine m = true → c.id ≠ r.id) → s.machineCount m < 16 →
    s.sched.table[i] = none → (∀ k : Fin 24, k < i → s.sched.table[k] ≠ none) → s.sched.markers.get m = [] →
    s.NothingToServe → s.store.state = .ok → s.store.check = .idle → s.sched.path = ⟨some (.slot j), none⟩ →
    s.sched.table[j] = some x → x.state = .playing → r.cls.rank < x.cls.rank →
    ∃ t : State, exec (.cuePost m note p) s = .next (t.done m .cuePost note) ∧
      t = { s with
        sched := { s.sched with
          table := (s.sched.table.set i (some
            { uid := s.sched.nextUid, id := r.id, origin := .machine m, cls := r.cls, group := r.group,
              deadline := if r.lifetime = 0 then none else some (s.now + r.lifetime * 100000), repeats := r.repeats,
              gapLength := r.gapLength, speech := some items, tone := none, scene := none, lamp := none, hold := r.hold,
              state := .waiting, phase := none, preempts := 0, repeatsLeft := r.repeats, flags := ⟨false, false, false⟩,
              endCause := none, deadlinePassed := false, posting := s.sched.nextPosting.get m, outcome := none,
              latestStart := 0, speechPlays := false, utteranceEnded := false, patternEnded := false, holdTimer := none,
              gapTimer := none, fade := none })).set j (some
            { x with
              state := .ending, phase := none, preempts := x.preempts + 1, holdTimer := none,
              endCause := some (if x.cls = .chime ∨ (x.cls = .prompt ∧ 3 ≤ x.preempts + 1) then .displaced
                else .preempted),
              fade := some { factor := 256, timer := s.now + 1000 } }),
          path := ⟨some (.slot j), some (.slot i)⟩, nextUid := s.sched.nextUid + 1,
          nextPosting := s.sched.nextPosting.modify m (· + 1) },
        display := { s.display with
          idleTimer := if t.anyPlaying then s.display.idleTimer else some (s.now + 60000000),
          ringEffect := t.display.ringEffect } }) ∧
  (∀ (s : State) (m : Side) (note : Bool) (p : List Byte) (r : CuePostReq) (items : List PhraseItem) (i : Fin 24) (x : Cue),
    s.ServesRequest m → lenAllowed .cuePost p = true → parseCuePost p = some r → r.speech = some items → r.tone = none →
    r.scene = none → r.lamp = none → r.cls = .alarm → s.PostsInto m r.id i → s.NothingToServe → s.store.state = .ok →
    s.store.check = .idle → s.sched.path = ⟨some .narration, none⟩ → s.sched.narration.current = some x →
    x.state = .playing → x.cls = .echo →
    ∃ t : State, exec (.cuePost m note p) s = .next (t.done m .cuePost note) ∧
      t = { s with
        sched := { s.sched.posted m with
          table := s.sched.table.set i (some (s.newCue m r none none)),
          narration := { s.sched.narration with current := some (x.fadingAs .preempted s.now) },
          path := ⟨some .narration, some (.slot i)⟩ },
        display := s.displayOfEnd t }) ∧
  ∀ (s : State) (m : Side) (note : Bool) (p : List Byte) (r : CuePostReq) (items : List PhraseItem) (q : Fin 32)
    (timing : ToneTiming) (i j : Fin 24) (x : Cue), s.ServesRequest m → lenAllowed .cuePost p = true →
    parseCuePost p = some r → r.speech = some items → r.tone = some (q.val, timing) → r.scene = none → r.lamp = none →
    s.tone.patterns[q] ≠ none → (q.val < 8 ∨ (m = .w ∧ q.val < 20) ∨ (m = .d ∧ 20 ≤ q.val)) → s.PostsInto m r.id i →
    s.NothingToServe → s.Unreserved (.slot i) → s.store.state = .ok → s.store.check = .idle →
    s.sched.path = ⟨some (.slot j), none⟩ → s.sched.table[j] = some x → x.state = .playing →
    let c := s.newCue m r (some ⟨q, timing⟩) none
    let cut (y : Cue) : Cue := { y with preempts := y.preempts + 1 }.fadingAs
      (if y.cls = CueClass.chime ∨ (y.cls = CueClass.prompt ∧ 3 ≤ y.preempts + 1) then .displaced else .preempted) s.now
    (∀ v : Fin 4, r.cls.rank < x.cls.rank → v ≠ 0 → s.sched.voices[v] = ⟨none, none⟩ →
      (∀ w : Fin 4, w ≠ 0 → w < v → s.sched.voices[w] ≠ ⟨none, none⟩) →
      ∃ t : State, exec (.cuePost m note p) s = .next (t.done m .cuePost note) ∧
        t = { s with
          sched := { s.sched.posted m with
            table := (s.sched.table.set i (some c)).set j (some (cut x)), path := ⟨some (.slot j), some (.slot i)⟩,
            voices := s.sched.voices.set v ⟨none, some (.slot i)⟩ },
          display := s.displayOfEnd t }) ∧
    (∀ (k : Fin 24) (v : Fin 4) (y : Cue), r.cls.rank < x.cls.rank → v ≠ 0 →
      (∀ w : Fin 4, w ≠ 0 → s.sched.voices[w] ≠ ⟨none, none⟩) → s.sched.voices[v] = ⟨some (.slot k), none⟩ →
      s.sched.table[k] = some y → y.state = .playing → r.cls.rank < y.cls.rank →
      (∀ (w : Fin 4) h z, w ≠ 0 → w ≠ v → s.sched.voices[w] = ⟨some h, none⟩ → s.cue? h = some z → z.state = .playing →
        z.cls.rank < y.cls.rank ∨ (z.cls.rank = y.cls.rank ∧ z.latestStart < y.latestStart)) →
      ∃ t : State, exec (.cuePost m note p) s = .next (t.done m .cuePost note) ∧
        t = { s with
          sched := { s.sched.posted m with
            table := ((s.sched.table.set i (some c)).set j (some (cut x))).set k (some (cut y)),
            path := ⟨some (.slot j), some (.slot i)⟩, voices := s.sched.voices.set v ⟨some (.slot k), some (.slot i)⟩ },
          display := s.displayOfEnd t }) ∧
    (x.cls.rank ≤ r.cls.rank → exec (.cuePost m note p) s = .next
      (({ s with sched := { s.sched.posted m with table := s.sched.table.set i (some c) } }).done m .cuePost note))

/-- CUE_POST of a cue with a tone part while none of voices 1 to 3 is available (R65, R67, R68). The voice victim is, of the PLAYING holders
of unreserved voices, the lowest in rank and the latest started. Outranked, it enters its fade with its count raised and keeps its
voice, which is reserved for the new cue, and so is a free speech path that the new cue needs. Not outranked, it plays on: the new
cue preempts nobody, whatever else it needs, and waits. Slot and serial: log 8. -/
def Obligations.VoicePreempts : Prop :=
  ∀ (s : State) (m : Side) (note : Bool) (p : List Byte) (r : CuePostReq) (q : Fin 32) (timing : ToneTiming)
    (i j : Fin 24) (v : Fin 4) (x : Cue), s.ServesRequest m → lenAllowed .cuePost p = true →
    parseCuePost p = some r → r.tone = some (q.val, timing) → r.scene = none → r.lamp = none →
    s.tone.patterns[q] ≠ none → (q.val < 8 ∨ (m = .w ∧ q.val < 20) ∨ (m = .d ∧ 20 ≤ q.val)) → s.PostsInto m r.id i →
    s.NothingToServe → s.Unreserved (.slot i) → v ≠ 0 → (∀ w : Fin 4, w ≠ 0 → s.sched.voices[w] ≠ ⟨none, none⟩) →
    s.sched.voices[v] = ⟨some (.slot j), none⟩ → s.sched.table[j] = some x → x.state = .playing →
    (∀ (w : Fin 4) h y, w ≠ 0 → w ≠ v → s.sched.voices[w] = ⟨some h, none⟩ → s.cue? h = some y → y.state = .playing →
      y.cls.rank < x.cls.rank ∨ (y.cls.rank = x.cls.rank ∧ y.latestStart < x.latestStart)) →
    let c := s.newCue m r (some ⟨q, timing⟩) none
    (r.cls.rank < x.cls.rank →
      r.speech = none ∨ (s.store.state = .ok ∧ s.store.check = .idle ∧ s.sched.path = ⟨none, none⟩) →
      ∃ t : State, exec (.cuePost m note p) s = .next (t.done m .cuePost note) ∧
        t = { s with
          sched := { s.sched.posted m with
            table := (s.sched.table.set i (some c)).set j (some
              ({ x with preempts := x.preempts + 1 }.fadingAs
                (if x.cls = CueClass.chime ∨ (x.cls = CueClass.prompt ∧ 3 ≤ x.preempts + 1) then .displaced else .preempted)
                s.now)),
            voices := s.sched.voices.set v ⟨some (.slot j), some (.slot i)⟩,
            path := if r.speech = none then s.sched.path else ⟨none, some (.slot i)⟩ },
          display := s.displayOfEnd t }) ∧
    (x.cls.rank ≤ r.cls.rank → exec (.cuePost m note p) s = .next
      (({ s with sched := { s.sched.posted m with table := s.sched.table.set i (some c) } }).done m .cuePost note))

/-! ### Tones, the mix and the speaker stage (R129 to R156) -/

/-- TONE_DEFINE (R132, R133) with any number of steps: the entry is checked, and the whole content replaced by the steps as the
treatments give them. -/
def Obligations.ToneDefineWritesPattern : Prop :=
  ∀ (s : State) (m : Side) (note : Bool) (entry loop : Byte) (recs : List (Byte × Byte × Byte × Byte × Byte))
    (levels : List Byte), s.ServesRequest m → 1 ≤ recs.length → recs.length ≤ 16 →
    levels.length = (recs.length + 1) / 2 →
    let payload := entry :: loop :: recs.flatMap (fun x => [x.1, x.2.1, x.2.2.1, x.2.2.2.1, x.2.2.2.2]) ++ levels
    let treat (p : Nat) : Nat := if p = 0 then 0 else if p < 125 then 125 else if 20000 < p then 20000 else p
    let stepOf (x : Byte × Byte × Byte × Byte × Byte) (k : Nat) : ToneStep :=
      let period := treat (x.1.toNat % 128 * 256 + x.2.1.toNat)
      let two := (levels.getD (k / 2) 0).toNat
      { period := period, duty := min (x.2.2.1.toNat % 128 * 256 + x.2.2.2.1.toNat) period,
        duration := if x.2.2.2.2 = 0 then 1 else x.2.2.2.2.toNat, level := if k % 2 = 0 then two % 16 else two / 16,
        halfRate := x.1.getLsbD 7, inverse := x.2.2.1.getLsbD 7 }
    let busy := ∃ v : Fin 4, (s.tone.voices[v]).playing = true ∧
      (s.tone.voices[v]).pattern.map (fun q => q.val) = some entry.toNat
    (entry.toNat < 8 → exec (.toneDefine m note payload) s = .next (s.refuses m .toneDefine .patternLocked note)) ∧
    (31 < entry.toNat ∨ (m = .w ∧ 20 ≤ entry.toNat) ∨ (m = .d ∧ 8 ≤ entry.toNat ∧ entry.toNat < 20) →
      exec (.toneDefine m note payload) s = .next (s.refuses m .toneDefine .badPattern note)) ∧
    ((m = .w ∧ 8 ≤ entry.toNat ∧ entry.toNat < 20) ∨ (m = .d ∧ 20 ≤ entry.toNat ∧ entry.toNat ≤ 31) →
      (busy → exec (.toneDefine m note payload) s = .next (s.refuses m .toneDefine .patternBusy note)) ∧
      (¬busy → exec (.toneDefine m note payload) s = .next
        (({ s with
          tone := { s.tone with
            patterns := Vector.ofFn fun q : Fin 32 =>
              if q.val = entry.toNat then
                some { loops := min loop.toNat 15, steps := recs.zipIdx.map fun (x, k) => stepOf x k }
              else s.tone.patterns[q] } }).done m .toneDefine note)))

/-- STEP_END (R136, R137, R140): a step ends when its counts have run out and not before; the next step begins with its count and a phase
of 0, the list is played again while loops are left, and the end of the feedback entry's pattern ends its cue and leaves voice 0 idle.
An IDLE voice and a step with counts left are not touched (log 3); that an idle voice has the values of R135 again is log 20. -/
def Obligations.StepEndMovesPattern : Prop :=
  ∀ (s : State) (v : Fin 4) (p : Pattern), s.AtRest →
    ((s.tone.voices[v]).playing = false ∨ (s.tone.voices[v]).countsLeft ≠ 0 → exec (.stepEnd v) s = .next s) ∧
    ((s.tone.voices[v]).playing = true → (s.tone.voices[v]).countsLeft = 0 → (s.tone.voices[v]).copy = some p →
      (∀ st, p.steps[(s.tone.voices[v]).stepIndex + 1]? = some st →
        exec (.stepEnd v) s = .next { s with
          tone := { s.tone with
            voices := s.tone.voices.set v { s.tone.voices[v] with
              stepIndex := (s.tone.voices[v]).stepIndex + 1, countsLeft := st.duration * 10000, phase := 0 } } }) ∧
      (∀ st, p.steps[(s.tone.voices[v]).stepIndex + 1]? = none → (s.tone.voices[v]).loopIndex < p.loops →
        p.steps[0]? = some st →
        exec (.stepEnd v) s = .next { s with
          tone := { s.tone with
            voices := s.tone.voices.set v { s.tone.voices[v] with
              stepIndex := 0, loopIndex := (s.tone.voices[v]).loopIndex + 1, countsLeft := st.duration * 10000,
              phase := 0 } } }) ∧
      (∀ c, v = 0 → p.steps[(s.tone.voices[v]).stepIndex + 1]? = none → p.loops ≤ (s.tone.voices[v]).loopIndex →
        s.sched.feedback.current = some c → c.state = .playing → c.phase = some .main → c.tone ≠ none →
        c.speechPlays = false → (s.sched.voices[v]).holder = some .feedback → s.sched.path.holder ≠ some .feedback →
        s.NothingToServe →
        ∃ t : State, exec (.stepEnd v) s = .next t ∧
          t = { s with
            tone := { s.tone with voices := s.tone.voices.set v idleVoice },
            sched := { s.sched with
              feedback := { pending := none, current := none },
              voices := s.sched.voices.set v { s.sched.voices[v] with holder := none } },
            display := { s.display with
              idleTimer := if t.anyPlaying then s.display.idleTimer else some (s.now + 60000000),
              ringEffect := t.display.ringEffect } }))

/-- STEP_END of the last step of a table cue's pattern (R71 to R75, R137): at the end of LEAD the cue enters MAIN and its utterance
begins, the voice staying held; under WITH it is recorded while the utterance still runs; and at the end of a play with tone alone, of
TAIL, and of MAIN under WITH with the utterance ended before, the cue gives up its voice, and the speech path if it held it, and goes
to REPORTING as COMPLETED or to GAP. A gap of 0 is over as it begins: with the deadline passed the cue is COMPLETED, otherwise a cue with
tone alone that finds nothing before it plays its pattern again. That the voice is idle with the values of R135 is log 20, the serial of
a start log 8. -/
def Obligations.PatternEndsPhase : Prop :=
  ∀ (s : State) (v : Fin 4) (i : Fin 24) (c : Cue) (m : Side) (p : Pattern) (tone : TonePart), s.AtRest →
    (s.tone.voices[v]).playing = true → (s.tone.voices[v]).countsLeft = 0 → (s.tone.voices[v]).copy = some p →
    p.steps.length ≤ (s.tone.voices[v]).stepIndex + 1 → p.loops ≤ (s.tone.voices[v]).loopIndex →
    s.voiceOf (.slot i) = some v → s.sched.table[i] = some c → c.origin = .machine m → c.state = .playing →
    c.tone = some tone →
    let quiet : Tone := { s.tone with voices := s.tone.voices.set v idleVoice }
    (∀ f rest, c.phase = some .lead → c.speechPlays = true → s.utt.entries = .fragment f :: rest → 0 < f.count →
      s.stream = idleStream → exec (.stepEnd v) s = .next { s with
        tone := quiet,
        sched := { s.sched with table := s.sched.table.set i (some { c with phase := some .main }) },
        stream := { idleStream with state := .priming, threshold := min (utteranceData (.fragment f :: rest)) 256 },
        store := { s.store with
          chanS := { active := true, index := 2, address := f.start, count := f.count },
          port := if s.store.port = .idle then .s else s.store.port } }) ∧
    (c.phase = some .main → c.speechPlays = true → tone.timing = .together → c.utteranceEnded = false →
      exec (.stepEnd v) s = .next { s with
        tone := quiet,
        sched := { s.sched with table := s.sched.table.set i (some { c with patternEnded := true }) } }) ∧
    (c.phase = some .tail ∨ (c.phase = some .main ∧ c.speechPlays = false) ∨
        (c.phase = some .main ∧ tone.timing = .together ∧ c.utteranceEnded = true) →
      s.NothingToServe → s.FreesQuietly i →
      (c.repeatsLeft = 0 → s.EndsQuietly m i → ∃ t : State,
        exec (.stepEnd v) s = .next (t.onLink m fun l => l.sends (.done (s.doneReport m c .completed))) ∧
        t = { (s.freed i (some v)).reported i c m .completed with display := s.displayOfEnd t }) ∧
      (0 < c.repeatsLeft → 0 < c.gapLength → ∃ t : State, exec (.stepEnd v) s = .next t ∧
        t = { s.freed i (some v) with
          sched := { (s.freed i (some v)).sched with
            table := s.sched.table.set i (some
              { c with state := .gap, phase := none, holdTimer := none, repeatsLeft := c.repeatsLeft - 1,
                       gapTimer := some (s.now + c.gapLength * 100000) }) },
          display := s.displayOfEnd t }) ∧
      (0 < c.repeatsLeft → c.gapLength = 0 → c.deadlinePassed = true → s.EndsQuietly m i →
        let c' := { c with repeatsLeft := c.repeatsLeft - 1 }
        ∃ t : State, exec (.stepEnd v) s = .next (t.onLink m fun l => l.sends (.done (s.doneReport m c .completed))) ∧
          t = { (s.freed i (some v)).reported i c' m .completed with display := s.displayOfEnd t }) ∧
      (∀ q, 0 < c.repeatsLeft → c.gapLength = 0 → c.deadlinePassed = false → c.cls ≠ .echo → c.speech = none →
        s.tone.patterns[tone.pattern] = some q → s.Unreserved (.slot i) → s.sched.path.holder ≠ some (.slot i) → v ≠ 0 →
        (s.sched.voices[v]).reservation = none → (∀ w : Fin 4, w ≠ 0 → w < v → s.sched.voices[w] ≠ ⟨none, none⟩) →
        ∃ t : State, exec (.stepEnd v) s = .next t ∧
          t = { s with
            sched := s.sched.withStart i
              { c with
                state := .playing, phase := some .main, latestStart := s.sched.nextStart, speechPlays := false,
                utteranceEnded := false, patternEnded := false, endCause := none, fade := none, holdTimer := none,
                gapTimer := none, repeatsLeft := c.repeatsLeft - 1 } m,
            tone := { s.tone with voices := s.tone.voices.set v (voiceAt tone.pattern q) },
            display := s.displayOfStart t }))

/-- OUTPUT_SAMPLE_EVENT, the mix (R125, R138, R139, R142 to R148): every source's value times its governing cue's gain, the five
factors multiplied in their order and each division truncated, added up and saturated to 16 bits. -/
def Obligations.SampleMixesSources : Prop :=
  ∀ s : State, s.AtRest → ∃ t, exec .outputSampleEvent s = .next t ∧
    let st := s.stream
    let value (b : Byte) : Int := b.toInt * 2 ^ st.scale
    let speech : Int := match st.state, st.part, st.half, st.ring with
      | .playing, .samples, .consume, b :: _ => value b
      | .playing, .samples, .blend, ring =>
        (st.lastOutput + (if st.bytesLeft = 0 then 0 else match ring with
          | b :: _ => value b
          | [] => 0)) / 2
      | _, _, _, _ => 0
    let tone (v : Fin 4) : Int := match (s.tone.voices[v]).step? with
      | none => 0
      | some x =>
        if x.period = 0 then 0
        else if decide ((s.tone.voices[v]).phase < (if x.halfRate then 2 * x.duty else x.duty)) = x.inverse then
          -((x.level : Int) * 2048)
        else (x.level : Int) * 2048
    let level (c : Cue) : Nat :=
      let own := match c.origin, s.focus with
        | .machine m, _ => (s.context m).volume
        | .panel, some m => (s.context m).volume
        | .panel, none => 4
      if c.cls = .alarm then max own 2 else own
    let speed := max (if s.attached .w then s.ctx.w.speed else 0) (if s.attached .d then s.ctx.d.speed else 0)
    let boost := if speed ≤ 400 then 256 else if 1200 ≤ speed then 512 else 256 + (speed - 400) * 256 / 800
    let gain (holder : Option CueRef) (duck : Nat) : Nat := match holder.bind s.cue? with
      | none => 0
      | some c =>
        (match c.cls with
          | .alarm => 256
          | .echo => 224
          | .prompt => 192
          | .chime => 160) * ([0, 32, 45, 64, 90, 128, 181, 256].getD (level c) 256) / 256 * boost / 256 * duck / 256 *
          (match c.fade with
            | some f => f.factor
            | none => 256) / 256
    let part (x : Int) (g : Nat) : Int := x * (g : Int) / 256
    t.mixer = { s.mixer with
      mixed := max (-32768) (min 32767 (part speech (gain s.sched.path.holder 256) +
        part (tone 0) (gain (s.sched.voices[(0 : Fin 4)]).holder s.mixer.duck[(0 : Fin 4)]) +
        part (tone 1) (gain (s.sched.voices[(1 : Fin 4)]).holder s.mixer.duck[(1 : Fin 4)]) +
        part (tone 2) (gain (s.sched.voices[(2 : Fin 4)]).holder s.mixer.duck[(2 : Fin 4)]) +
        part (tone 3) (gain (s.sched.voices[(3 : Fin 4)]).holder s.mixer.duck[(3 : Fin 4)]))) }

/-- OUTPUT_SAMPLE_EVENT, the SILENT flag (R79, R149): a table cue with a part sounding, its utterance while it holds the path and the
Stream is not IDLE or its pattern while its voice plays, is marked SILENT when the stage is not DRIVING or the volume level used for
it is 0, an ALARM's being at least 2; not in its purge fade; and no other cue's flag changes. -/
def Obligations.SilentMarked : Prop :=
  ∀ s : State, s.AtRest → ∃ t, exec .outputSampleEvent s = .next t ∧
    ∀ (i : Fin 24) (c : Cue), s.sched.table[i] = some c →
      let own := match c.origin, s.focus with
        | .machine m, _ => (s.context m).volume
        | .panel, some m => (s.context m).volume
        | .panel, none => 4
      let sounds := (s.sched.path.holder = some (.slot i) ∧ s.stream.state ≠ .idle) ∨
        ∃ v : Fin 4, (s.sched.voices[v]).holder = some (.slot i) ∧ (s.tone.voices[v]).playing = true
      let unheard := s.mixer.stage ≠ .driving ∨ (if c.cls = .alarm then max own 2 else own) = 0
      let purge := c.state = .ending ∧ c.endCause = some .purged
      ∃ d, t.sched.table[i] = some d ∧ d.id = c.id ∧
        (sounds ∧ unheard ∧ ¬purge → d.flags.silent = true) ∧
        (¬(sounds ∧ unheard ∧ ¬purge) → d.flags.silent = c.flags.silent)

/-- OUTPUT_SAMPLE_EVENT, the Stream (R81, R124 to R127): a consume event takes one byte from the ring, or marks the owner STALLED once
when there is none; a blend event leads back to consume or to the trailing silence; silence counts down; and at the end of an entry,
its last silence event or its last blend when its trailing silence is 0, the next entry is taken up, a fragment or a silence. What
follows the last entry: UtteranceEndsPhase. -/
def Obligations.SampleAdvancesStream : Prop :=
  ∀ s : State, s.AtRest → s.stream.state = .playing →
    ∃ t, exec .outputSampleEvent s = .next t ∧
      (s.stream.part = .samples → s.stream.half = .consume →
        (∀ b rest, s.stream.ring = b :: rest → t.stream = { s.stream with
          ring := rest, lastOutput := b.toInt * 2 ^ s.stream.scale, bytesLeft := s.stream.bytesLeft - 1, half := .blend,
          stalled := false }) ∧
        (s.stream.ring = [] → t.stream = { s.stream with stalled := true } ∧
          ∀ i c, s.stream.stalled = false → s.utt.owner = some (.slot i) → s.sched.table[(i : Fin 24)] = some c →
            ∃ d, t.sched.table[i] = some d ∧ d.flags.stalled = true)) ∧
      (s.stream.part = .samples → s.stream.half = .blend →
        (0 < s.stream.bytesLeft → t.stream = { s.stream with half := .consume }) ∧
        (∀ e, s.stream.bytesLeft = 0 → s.utt.entries[s.stream.index - 1]? = some (.fragment e) → 0 < e.silence →
          t.stream = { s.stream with part := .trailing, eventsLeft := 16 * e.silence })) ∧
      (s.stream.part ≠ .samples → 1 < s.stream.eventsLeft →
        t.stream = { s.stream with eventsLeft := s.stream.eventsLeft - 1 }) ∧
      ((s.stream.part ≠ .samples ∧ s.stream.eventsLeft ≤ 1) ∨
          (s.stream.part = .samples ∧ s.stream.half = .blend ∧ s.stream.bytesLeft = 0 ∧
            ∃ e, s.utt.entries[s.stream.index - 1]? = some (.fragment e) ∧ e.silence = 0) →
        (∀ f, s.utt.entries[s.stream.index]? = some (.fragment f) → t.stream = { s.stream with
          index := s.stream.index + 1, part := .samples, bytesLeft := f.count, scale := f.scale, half := .consume,
          eventsLeft := 0 }) ∧
        ∀ ms, s.utt.entries[s.stream.index]? = some (.silence ms) → t.stream = { s.stream with
          index := s.stream.index + 1, part := .silence, eventsLeft := 16 * ms })

/-- OUTPUT_SAMPLE_EVENT at the end of the utterance of a table cue (R71 to R75, R125, R126, R128): the Stream has output its last entry.
With speech alone, under BEFORE, and under WITH once the pattern has ended, it is the end of play: path, list, channel S and ring are
given up, the voice is idle, and the cue is COMPLETED and reported or in GAP. A gap of 0 is over as it begins: COMPLETED with the
deadline passed, otherwise a cue with speech alone that finds nothing before it speaks again, its list assembled anew. Under WITH with
the pattern on it is recorded, the Stream IDLE, in TRAILING after a fragment. Under AFTER the cue enters TAIL, channel S and the ring are
cleared, and its voice begins the pattern. That an idle voice has the values of R135 is log 20, the serial of a start log 8. -/
def Obligations.UtteranceEndsPhase : Prop :=
  ∀ (s : State) (i : Fin 24) (c : Cue) (m : Side), s.AtRest → s.stream.state = .playing →
    s.utt.entries[s.stream.index]? = none → s.utt.owner = some (.slot i) → s.sched.table[i] = some c →
    c.origin = .machine m → c.state = .playing → c.phase = some .main → c.speechPlays = true →
    s.sched.path.holder = some (.slot i) →
    (s.stream.part ≠ .samples ∧ s.stream.eventsLeft ≤ 1) ∨
      (s.stream.part = .samples ∧ s.stream.half = .blend ∧ s.stream.bytesLeft = 0 ∧
        ∃ e, s.utt.entries[s.stream.index - 1]? = some (.fragment e) ∧ e.silence = 0) →
    ∃ t d, exec .outputSampleEvent s = .next t ∧ t.sched.table[i] = some d ∧ d.id = c.id ∧
      (c.tone = none ∨ (∃ x, c.tone = some x ∧ (x.timing = .before ∨ (x.timing = .together ∧ c.patternEnded = true))) →
        s.NothingToServe → s.FreesQuietly i →
        (c.repeatsLeft = 0 ∨ (c.gapLength = 0 ∧ c.deadlinePassed = true) → s.EndsQuietly m i →
          d.state = .reporting ∧ d.outcome = some .completed ∧ d.repeatsLeft = c.repeatsLeft - 1 ∧ (t.link m).done = (s.link m).done ++
            [{ order := (s.link m).nextOrder, uid := c.uid, id := c.id, outcome := .completed, flags := d.flags,
               preempts := c.preempts }]) ∧
        (0 < c.repeatsLeft → 0 < c.gapLength → d.state = .gap ∧ d.repeatsLeft = c.repeatsLeft - 1 ∧
          d.gapTimer = some (s.now + c.gapLength * 100000)) ∧
        (((c.repeatsLeft = 0 ∨ (c.gapLength = 0 ∧ c.deadlinePassed = true)) ∧ s.EndsQuietly m i) ∨
            (0 < c.repeatsLeft ∧ 0 < c.gapLength) →
          t.sched.path = ⟨none, none⟩ ∧ t.utt = ⟨[], none⟩ ∧ t.stream = idleStream ∧ t.store.chanS = idleChannelS ∧
          ∀ v, s.voiceOf (.slot i) = some v →
            (t.sched.voices[v]).holder = none ∧ t.tone.voices[v] = idleVoice)) ∧
      (∀ items f rest, c.tone = none → c.speech = some items → c.cls ≠ .echo → 0 < c.repeatsLeft → c.gapLength = 0 →
        c.deadlinePassed = false → s.NothingToServe → s.FreesQuietly i → s.Unreserved (.slot i) → s.store.state = .ok →
        (s.assembleItems (s.context m) items).entries = .fragment f :: rest →
        d.state = .playing ∧ d.phase = some .main ∧ d.repeatsLeft = c.repeatsLeft - 1 ∧
        d.latestStart = s.sched.nextStart ∧ t.sched.path = ⟨some (.slot i), none⟩ ∧
        t.utt = ⟨.fragment f :: rest, some (.slot i)⟩ ∧
        t.stream = { idleStream with state := .priming, threshold := min (utteranceData (.fragment f :: rest)) 256 } ∧
        t.store.chanS = { active := true, index := 2, address := f.start, count := f.count }) ∧
      (∀ x, c.tone = some x → x.timing = .together → c.patternEnded = false →
        d.state = .playing ∧ d.phase = some .main ∧ d.utteranceEnded = true ∧ t.sched.path = s.sched.path ∧
        t.utt = s.utt ∧ t.stream = { s.stream with
          index := s.stream.index + 1, state := .idle, eventsLeft := 0,
          part := if s.stream.part = .samples then .trailing else s.stream.part }) ∧
      (∀ x v p, c.tone = some x → x.timing = .after → s.voiceOf (.slot i) = some v →
        s.tone.patterns[x.pattern] = some p →
        d.state = .playing ∧ d.phase = some .tail ∧ t.sched.path = s.sched.path ∧ t.sched.voices = s.sched.voices ∧
        t.stream = idleStream ∧ t.store.chanS = idleChannelS ∧ t.tone.voices[v] = voiceAt x.pattern p)

/-- DUCK_TICK (R145): every voice's factor moves by 16 towards 64 while another cue speaks in MAIN with the Stream PLAYING, towards
256 otherwise.
CARRIER_PERIOD (R150, R151): the duty is 512 + floor(M / 64), held between DT and 1024 − DT, and drives the gates only in DRIVING.
The bridge never shorts (R151): at every count of a carrier period of a part that keeps the stage laws, a side's two gates are
never on together; between one gate of a side turning off and the other turning on lie at least DT counts, within a period and, since
every line is off in its first DT counts and none is on past count 1023, from the low line of one period to the high line of the next;
and outside DRIVING all are off. -/
def Obligations.DuckCarrierAndBridge : Prop :=
  ((∀ s : State, s.resetHeld = false → ∃ t, exec .duckTick s = .next t ∧
     t = { s with mixer := { s.mixer with duck := t.mixer.duck } } ∧
     ∀ v : Fin 4,
       let speaks (h p : CueRef) : Prop := h ≠ p ∧ s.stream.state = .playing ∧
         ∃ c, s.cue? p = some c ∧ c.state = .playing ∧ c.phase = some .main
       let ducked := ∃ h p, (s.sched.voices[v]).holder = some h ∧ s.sched.path.holder = some p ∧ speaks h p
       let d := s.mixer.duck[v]
       (ducked → t.mixer.duck[v] = if d < 64 then d + 16 else if 64 < d then d - 16 else d) ∧
       (¬ducked → t.mixer.duck[v] = if d < 256 then d + 16 else if 256 < d then d - 16 else d)) ∧
   ∀ s : State, s.resetHeld = false → 1 ≤ s.mixer.deadTime → s.mixer.deadTime ≤ 16 → ∃ d : Nat,
     (d : Int) = max (s.mixer.deadTime : Int) (min (1024 - s.mixer.deadTime) (512 + s.mixer.mixed / 64)) ∧
     exec .carrierPeriod s = .next { s with
       mixer := { s.mixer with
         duty := d,
         gates := if s.mixer.stage = .driving then some { duty := d, deadTime := s.mixer.deadTime } else none } }) ∧
  ∀ s : State, s.mixer.StageOk →
    (∀ k, ¬(s.gateOn .pHigh k = true ∧ s.gateOn .pLow k = true) ∧ ¬(s.gateOn .nHigh k = true ∧ s.gateOn .nLow k = true)) ∧
    (∀ g a b, s.mixer.gates = some g → (s.gateOn .pHigh a = true → s.gateOn .pLow b = true → a + g.deadTime < b) ∧
      (s.gateOn .nLow a = true → s.gateOn .nHigh b = true → a + g.deadTime < b)) ∧
    (∀ g line k, s.mixer.gates = some g → (k < g.deadTime ∨ 1024 ≤ k) → s.gateOn line k = false) ∧
    (∀ (t : State) g a b, t.mixer.gates = some g →
      (s.gateOn .pLow a = true → t.gateOn .pHigh b = true → a + g.deadTime < 1024 + b) ∧
      (s.gateOn .nHigh a = true → t.gateOn .nLow b = true → a + g.deadTime < 1024 + b)) ∧
    (s.mixer.stage ≠ .driving → ∀ line k, s.gateOn line k = false)

/-- SPEAKER_SETUP (R152, R155): an enable byte above 1 is FORMAT; the dead time is clamped to 1 to 16; enable drives a DISABLED stage
and its absence disables a DRIVING one, while TRIPPED and LOCKED stay; entered with the sense input active, DRIVING trips at once
(R153): the request is answered DONE, and every attached machine has the fault and its report waiting or begun.
SPEAKER_RESET (R156): the trip count returns to 0 in every state; TRIPPED and LOCKED go on to DRIVING or DISABLED by the enable,
and the retry timer stops; DRIVING entered with the sense input active trips at once, with count 1 and the rest as above (R153). -/
def Obligations.SpeakerCommandsMoveStage : Prop :=
  let faulted (t : State) (trips : Nat) : Prop :=
    ∀ n, t.attached n = true → (t.link n).fault = true ∧ (t.link n).causes.speaker = true ∧
      (((t.link n).faultMark ≠ none ∧ (t.link n).pendingSpeaker = true) ∨
        ∃ store, (t.link n).tx = .sending (.fault store true trips))
  let answers (t : State) (m : Side) (k : RequestKind) (note : Bool) : Prop :=
    (t.link m).reply = some
      { echo := k.code, body := .done [], condition := if note then some (t.conditionByte m) else none }
  (∀ (s : State) (m : Side) (note : Bool) (e dt : Byte), s.ServesRequest m →
    let dead := max 1 (min 16 dt.toNat)
    (1 < e.toNat → exec (.speakerSetup m note [e, dt]) s = .next (s.refuses m .speakerSetup .format note)) ∧
    (e.toNat ≤ 1 → ¬(s.mixer.stage = .disabled ∧ e = 1 ∧ s.mixer.sense = true) →
      exec (.speakerSetup m note [e, dt]) s = .next (({ s with
        mixer := { s.mixer with
          enable := e = 1, deadTime := dead,
          stage := if s.mixer.stage = StageState.disabled ∧ e = 1 then .driving
            else if s.mixer.stage = StageState.driving ∧ e = 0 then .disabled
            else s.mixer.stage,
          gates := if s.mixer.stage = StageState.driving ∧ e = 0 then none else s.mixer.gates } }).done m .speakerSetup note)) ∧
    (s.mixer.stage = .disabled → e = 1 → s.mixer.sense = true → ∃ t : State,
      exec (.speakerSetup m note [e, dt]) s = .next t ∧
      t = { s with
        mixer := { s.mixer with
          enable := true, deadTime := dead, stage := .tripped, gates := none, trips := s.mixer.trips + 1,
          retryTimer := some (s.now + 500000) },
        links := t.links } ∧
      faulted t (s.mixer.trips + 1) ∧ answers t m .speakerSetup note)) ∧
  ∀ (s : State) (m : Side) (note : Bool), s.ServesRequest m →
    (s.mixer.stage = .driving ∨ s.mixer.stage = .disabled →
      exec (.speakerReset m note []) s = .next
        (({ s with mixer := { s.mixer with trips := 0 } }).done m .speakerReset note)) ∧
    (s.mixer.stage = .tripped ∨ s.mixer.stage = .locked → ¬(s.mixer.enable = true ∧ s.mixer.sense = true) →
      exec (.speakerReset m note []) s = .next (({ s with
        mixer := { s.mixer with
          trips := 0, retryTimer := if s.mixer.stage = StageState.tripped then none else s.mixer.retryTimer,
          stage := if s.mixer.enable then .driving else .disabled,
          gates := if s.mixer.enable then s.mixer.gates else none } }).done m .speakerReset note)) ∧
    (s.mixer.stage = .tripped ∨ s.mixer.stage = .locked → s.mixer.enable = true → s.mixer.sense = true → ∃ t : State,
      exec (.speakerReset m note []) s = .next t ∧
      t = { s with
        mixer := { s.mixer with
          stage := .tripped, gates := none, trips := 1, retryTimer := some (s.now + 500000) },
        links := t.links } ∧
      faulted t 1 ∧ answers t m .speakerReset note)

/-- OVER_CURRENT_TRIP (R153): active in DRIVING, the gates go off, the stage is TRIPPED, the count rises, the retry timer starts, and
every attached machine gets the fault, which an IDLE transmitter begins to report; in any other state, and for an inactive level,
only the level is kept.
RETRY_TIMER_EXPIRY (R154): a third trip locks the stage; otherwise it returns to DRIVING or DISABLED by the enable, and DRIVING
with the sense input still active trips at once, with the count raised, a new retry time and the faults (R153); outside TRIPPED no
retry timer runs. -/
def Obligations.TripAndRetry : Prop :=
  let faulted (s t : State) : Prop :=
    ∀ n, (s.attached n = false → t.link n = s.link n) ∧
      (s.attached n = true → (s.link n).tx = .idle → t.link n = { s.link n with
        fault := true, causes := { (s.link n).causes with speaker := true }, nextOrder := (s.link n).nextOrder + 1,
        faultMark := none, pendingStore := false, pendingSpeaker := false,
        tx := .sending (.fault (s.link n).pendingStore true (s.mixer.trips + 1)) }) ∧
      (∀ f, s.attached n = true → (s.link n).tx = .sending f → t.link n = { s.link n with
        fault := true, causes := { (s.link n).causes with speaker := true }, pendingSpeaker := true,
        faultMark := some ((s.link n).faultMark.getD (s.link n).nextOrder),
        nextOrder := if (s.link n).faultMark = none then (s.link n).nextOrder + 1 else (s.link n).nextOrder })
  (∀ s : State, s.AtRest →
    (∀ a, (a = false ∨ s.mixer.stage ≠ .driving) →
      exec (.overCurrentTrip a) s = .next { s with mixer := { s.mixer with sense := a } }) ∧
    (s.mixer.stage = .driving → ∃ t : State, exec (.overCurrentTrip true) s = .next t ∧
      t = { s with
        mixer := { s.mixer with
          sense := true, gates := none, stage := .tripped, trips := s.mixer.trips + 1,
          retryTimer := some (s.now + 500000) },
        links := t.links } ∧
      faulted s t)) ∧
  ∀ s : State, s.AtRest →
    (s.mixer.stage ≠ .tripped → exec .retryTimerExpiry s = .next s) ∧
    (s.mixer.stage = .tripped → 3 ≤ s.mixer.trips → exec .retryTimerExpiry s = .next
      { s with mixer := { s.mixer with retryTimer := none, stage := .locked } }) ∧
    (s.mixer.stage = .tripped → s.mixer.trips < 3 → ¬(s.mixer.enable = true ∧ s.mixer.sense = true) →
      exec .retryTimerExpiry s = .next { s with
        mixer := { s.mixer with
          retryTimer := none, stage := if s.mixer.enable then .driving else .disabled,
          gates := if s.mixer.enable then s.mixer.gates else none } }) ∧
    (s.mixer.stage = .tripped → s.mixer.trips < 3 → s.mixer.enable = true → s.mixer.sense = true → ∃ t : State,
      exec .retryTimerExpiry s = .next t ∧
      t = { s with
        mixer := { s.mixer with gates := none, trips := s.mixer.trips + 1, retryTimer := some (s.now + 500000) },
        links := t.links } ∧
      faulted s t)

/-! ### Display and lamps (R157 to R169) -/

/-- UPDATE_EVENT (R158 to R160, R164): skipped while a transfer is under way; taken, it copies every complete staging, fills rows 8 to 23
with the slot of the cue of highest rank and earliest start, or the holder's idle scene, or blank; a free band is composed from its
context now, blank for an unattached machine; a held band uses and keeps its frozen picture, or freezes one composed now; and the
transfer begins, of 512 bytes, row 0 first, 16 bytes a row, the leftmost dot of a byte in bit 7. -/
def Obligations.UpdateComposesFrame : Prop :=
  ∀ s : State, s.resetHeld = false →
    (s.display.transfer = .sending → exec .updateEvent s = .next s) ∧
    (s.display.transfer = .idle → ∃ t, exec .updateEvent s = .next t ∧
      t = { s with
        display := { s.display with
          slots := t.display.slots, frame := t.display.frame, frozen := t.display.frozen, transfer := .sending } } ∧
      (∀ i : Fin 16,
        let x : SceneSlot := s.display.slots[i]
        t.display.slots[i] =
          if x.marks = Vector.replicate 4 true then { x with shown := x.staged, marks := Vector.replicate 4 false }
          else x) ∧
      (∀ (i : Fin 24) (c : Cue) (m : Side) (k : Fin 8) (r : Fin 16), s.sched.table[i] = some c →
        (c.state = .playing ∨ c.state = .ending) → c.scene = some k → c.origin = .machine m →
        (∀ (j : Fin 24) (d : Cue), s.sched.table[j] = some d → j ≠ i → (d.state = .playing ∨ d.state = .ending) →
          d.scene ≠ none → c.cls.rank < d.cls.rank ∨ (c.cls.rank = d.cls.rank ∧ c.latestStart < d.latestStart)) →
        t.display.frame[8 + r.val] = (t.display.slots[(sceneSlot m k)]).shown[r]) ∧
      ((∀ (i : Fin 24) (c : Cue), s.sched.table[i] = some c → c.state = .playing ∨ c.state = .ending → c.scene = none) →
        ∀ r : Fin 16, t.display.frame[8 + r.val] =
          match s.focus with
          | none => 0
          | some h => match (s.context h).idleScene with
            | none => 0
            | some k => (t.display.slots[(sceneSlot h k)]).shown[r]) ∧
      (∃ bytes, t.display.sending? = some bytes ∧ bytes.length = 512 ∧
        ∀ (r : Fin 32) (k j : Nat), k < 16 → j < 8 →
          (bytes.getD (16 * r.val + k) 0).getLsbD (7 - j) = (t.display.frame[r]).getLsbD (127 - (8 * k + j))) ∧
      ∀ (m : Side) (r : Fin 8),
        let row : BitVec 128 := match m with
          | .w => t.display.frame[r.val]
          | .d => t.display.frame[24 + r.val]
        ((s.context m).bandHold = true → (∃ b, t.display.frozen.get m = some b ∧ row = b[r]) ∧
          (∀ b, s.display.frozen.get m = some b → t.display.frozen.get m = some b) ∧
          (s.display.frozen.get m = none → t.display.frozen.get m = some (s.composeBand m))) ∧
        ((s.context m).bandHold = false → t.display.frozen.get m = none ∧ row = (s.composeBand m)[r] ∧
          ((s.context m).attached = false → row = 0)))

/-- The band of an attached machine (R159), whatever the dots of the glyphs are: character k of the text stands in dots 6k to 6k + 5,
the remaining time as H:MM ends at dot 127 in every phase but IDLE and DONE, and a blinking text is off in the hidden half of the
second, the time still shown. That digits and colon are the font's codes 0x30 to 0x39 and 0x3A is the model's reading (log 15). -/
def Obligations.BandDrawsTextAndTime : Prop :=
  ∀ (s : State) (m : Side) (r : Fin 8), (s.context m).attached = true → (s.context m).remaining ≤ 999 →
    (s.context m).bandText.length ≤ 16 →
    let c := s.context m
    let row := (s.composeBand m)[r]
    let drawn (g : Config.Glyph) (at_ : Nat) : Prop :=
      ∀ d, d < 6 → row.getLsbD (127 - (at_ + d)) = (Config.glyphRow g r.val).getLsbD (5 - d)
    let hidden := c.bandBlink = true ∧ 500 ≤ s.now / 1000 % 1000
    let timed := c.phase ≠ .idle ∧ c.phase ≠ .done
    let digit (n : Nat) : Config.Glyph := .code (BitVec.ofNat 8 (0x30 + n))
    let minutes := c.remaining % 60
    (¬hidden → ∀ k x, c.bandText[k]? = some x →
      drawn (if (0x20 ≤ x.toNat ∧ x.toNat ≤ 0x7E) ∨ (0x80 ≤ x.toNat ∧ x.toNat ≤ 0x9F) then .code x else .box) (6 * k)) ∧
    (∀ x, (hidden ∧ x < 96) ∨ (6 * c.bandText.length ≤ x ∧ x < 96) → row.getLsbD (127 - x) = false) ∧
    (timed → drawn (digit (minutes % 10)) 122 ∧ drawn (digit (minutes / 10)) 116 ∧ drawn (.code 0x3A) 110 ∧
      drawn (digit (c.remaining / 60 % 10)) 104 ∧
      (600 ≤ c.remaining → drawn (digit (c.remaining / 600)) 98) ∧
      (c.remaining < 600 → ∀ x, 96 ≤ x → x < 104 → row.getLsbD (127 - x) = false)) ∧
    (¬timed → ∀ x, 96 ≤ x → x < 128 → row.getLsbD (127 - x) = false)

/-- PWM_PERIOD (R165 to R169): all sixteen lamps take their brightness: the ring its effect, timed from the effect's start, or the
holder's position, the focus lamps the holder's and the attached machines' levels, the backlight its level or an eighth of it.
DISPLAY_TRANSFER_END and BACKLIGHT_IDLE_EXPIRY (R158, R169): the transfer state becomes IDLE; a running idle timer that expires
dims the backlight and stops, and a stopped one does nothing. -/
def Obligations.PwmAndBacklight : Prop :=
  (∀ s : State, s.resetHeld = false → ∃ t, exec .pwmPeriod s = .next t ∧
    t = { s with display := { s.display with lamps := t.display.lamps } } ∧
    (∀ m, t.display.lamps.focus.get m =
      if s.focus = some m then (s.display.ringLevels.get m).bright
      else if s.attached m = true then (s.display.ringLevels.get m).background
      else 0) ∧
    t.display.lamps.backlight =
      (if s.display.backlight = .full then s.display.backlightLevel else s.display.backlightLevel / 8) ∧
    t.display.lamps.general = s.display.generalLevel ∧
    (s.display.ringEffect = none → ∀ i : Fin 12, t.display.lamps.ring[i] =
      match s.focus with
      | none => 0
      | some h =>
        if (s.context h).index * 12 / (s.context h).programs.length = i.val then (s.display.ringLevels.get h).bright
        else (s.display.ringLevels.get h).background) ∧
    ∀ e c m, s.display.ringEffect = some e → s.sched.table[(e.cue : Fin 24)] = some c → c.origin = .machine m →
      let ms := (s.now - e.start) / 1000
      let bright := (s.display.ringLevels.get m).bright
      ∀ i : Fin 12,
        (c.lamp = some .chase → t.display.lamps.ring[i] = if ms / 80 % 12 = i.val then bright else 0) ∧
        (c.lamp = some .pulse → t.display.lamps.ring[i] =
          if ms % 1280 < 640 then bright * (ms % 1280) / 640 else bright * (1280 - ms % 1280) / 640) ∧
        (c.lamp = some .flash → t.display.lamps.ring[i] = if ms / 250 % 2 = 0 then bright else 0)) ∧
  ∀ s : State, s.resetHeld = false →
    exec .displayTransferEnd s = .next { s with display := { s.display with transfer := .idle } } ∧
    (s.display.idleTimer ≠ none → exec .backlightIdleExpiry s = .next
      { s with display := { s.display with backlight := .dimmed, idleTimer := none } }) ∧
    (s.display.idleTimer = none → exec .backlightIdleExpiry s = .next s)

/-! ### Panel inputs (R170 to R179) -/

/-- LAMP_SET, INPUT_MASK and INPUT_FILTER (R165, R176, R179): levels clamped to 63, the ring's for the sender alone; the mask
replaced, bits 9 to 15 ignored; edges per detent other than 2 and 4 FORMAT, the filter settings clamped, the edge count 0. -/
def Obligations.PanelSettingsWritten : Prop :=
  ∀ (s : State) (m : Side) (note : Bool) (a b c d : Byte), s.ServesRequest m →
    exec (.lampSet m note [a, b, c, d]) s = .next (({ s with
      display := { s.display with
        ringLevels := s.display.ringLevels.set m { bright := min a.toNat 63, background := min b.toNat 63 },
        backlightLevel := min c.toNat 63, generalLevel := min d.toNat 63 } }).done m .lampSet note) ∧
    exec (.inputMask m note [a, b]) s = .next (({ s with
      panel := { s.panel with mask := s.panel.mask.set m (BitVec.ofNat 9 (a.toNat * 256 + b.toNat)) } }).done
        m .inputMask note) ∧
    exec (.inputFilter m note [a, b, c]) s = .next
      (if c ≠ 2 ∧ c ≠ 4 then s.refuses m .inputFilter .format note
      else
        ({ s with
          panel := { s.panel with
            keyN := max 2 (min 16 a.toNat), encoderN := max 1 (min 4 b.toNat), edgesPerDetent := c.toNat,
            edgeCount := 0 } }).done m .inputFilter note)

/-- INPUT_FORCE of an event without a local action (R30, R169, R173, R176 to R178): START, OPTIONS, BACK and the knob push, every RELEASE
and SWAP LONG set the holder's last input time, its summary, the report if its mask has the class, and the backlight; a PROXIMITY does
the same but for the last input time, and on a DIMMED backlight sets WAKE, which a free voice 0 begins at once. Every class of a
machine without focus is refused with NO_FOCUS; a class above 8, an action above 2 and a knob step other than +1 and -1 are FORMAT. -/
def Obligations.ForcedKeyReported : Prop :=
  ∀ (s : State) (m : Side) (note : Bool) (cls step action : Byte), s.ServesRequest m →
    (8 < cls.toNat ∨ (1 ≤ cls.toNat ∧ cls.toNat ≤ 7 ∧ 2 < action.toNat) ∨ (cls = 0 ∧ step ≠ 1 ∧ step ≠ 0xFF) →
      exec (.inputForce m note [cls, step, action]) s = .next (s.refuses m .inputForce .format note)) ∧
    (s.focus ≠ some m → (cls = 0 ∧ (step = 1 ∨ step = 0xFF)) ∨ (1 ≤ cls.toNat ∧ cls.toNat ≤ 7 ∧ action.toNat ≤ 2) ∨ cls = 8 →
      exec (.inputForce m note [cls, step, action]) s = .next (s.refuses m .inputForce .noFocus note)) ∧
    (∀ k a, s.focus = some m → 1 ≤ cls.toNat → (cls.toNat ≤ 4 ∨ action = 2 ∨ (cls = 5 ∧ action = 1)) →
      [Key.push, .start, .options, .back, .swap, .volume, .assist][cls.toNat - 1]? = some k →
      [KeyAction.press, .long, .release][action.toNat]? = some a →
      exec (.inputForce m note [cls, step, action]) s = .next (({ s with
        ctx := s.ctx.modify m fun c => { c with lastInput := some s.now },
        panel := { s.panel with summary := s.panel.summary.modify m fun x => x ||| (1#9 <<< cls.toNat) },
        links := s.links.modify m fun l =>
          let r : InputReport := { order := l.nextOrder, content := .key k a }
          if (s.panel.mask.get m).getLsbD cls.toNat = false then l
          else if l.inputs.length < 16 then { l with inputs := l.inputs ++ [r], nextOrder := l.nextOrder + 1 }
          else { l with fault := true, causes := { l.causes with reportDrop := true } },
        display := { s.display with
          backlight := .full, idleTimer := if s.anyPlaying then none else some (s.now + 60000000) } }).done
        m .inputForce note)) ∧
    (s.focus = some m → cls = 8 →
      let taken : State := { s with
        panel := { s.panel with summary := s.panel.summary.modify m fun x => x ||| (1#9 <<< 8) },
        links := s.links.modify m fun l =>
          let r : InputReport := { order := l.nextOrder, content := .proximity }
          if (s.panel.mask.get m).getLsbD 8 = false then l
          else if l.inputs.length < 16 then { l with inputs := l.inputs ++ [r], nextOrder := l.nextOrder + 1 }
          else { l with fault := true, causes := { l.causes with reportDrop := true } } }
      (s.display.backlight = .full → exec (.inputForce m note [cls, step, action]) s = .next (({ taken with
        display := { s.display with
          idleTimer := if s.anyPlaying then none else some (s.now + 60000000) } }).done m .inputForce note)) ∧
      ∀ p, s.display.backlight = .dimmed → s.sched.feedback = ⟨none, none⟩ → s.sched.voices[(0 : Fin 4)] = ⟨none, none⟩ →
        s.candidates = [] → s.Unreserved .feedback → s.tone.patterns[(6 : Fin 32)] = some p → ∃ (t : State) (d : Cue),
        exec (.inputForce m note [cls, step, action]) s = .next (t.done m .inputForce note) ∧
        d.origin = .panel ∧ d.cls = .echo ∧ d.state = .playing ∧ d.phase = some .main ∧ d.speech = none ∧
        d.tone = some ⟨6, .together⟩ ∧
        t = { taken with
          sched := { s.sched with
            feedback := ⟨none, some d⟩, voices := s.sched.voices.set 0 ⟨some .feedback, none⟩,
            nextUid := t.sched.nextUid, nextStart := t.sched.nextStart },
          tone := { s.tone with voices := s.tone.voices.set 0 (voiceAt 6 p) }, display := s.displayOfStart t })

/-- The local actions of the keys (R33, R175), made by INPUT_FORCE: the holder's volume, muted-from level, assist mode and language
change as the table gives, with the PROFILE mark set; SWAP moves focus to the other machine when it is attached and sets both last
input times. The panel cues they set: PanelCuesFollowActions.
The knob step of a detent (R173, R174, R177), made by INPUT_FORCE: inside the list the index moves by one, at an end it wraps or stays
with END 1; the report carries the direction and the index after. A KNOB report at the tail whose frame has not begun takes it in: the
steps add up within -128 to 127, the index is the later one, END stays 1 once it is; otherwise the report joins the list, or is dropped
with REPORT_DROP when 16 are held. -/
def Obligations.LocalActionsChangeContext : Prop :=
  (∀ (s : State) (m : Side) (note : Bool) (cls step action : Byte), s.ServesRequest m → s.focus = some m →
    5 ≤ cls.toNat → cls.toNat ≤ 7 → action.toNat ≤ 1 →
    ∃ t, exec (.inputForce m note [cls, step, action]) s = .next t ∧
      let after (f : Context → Context) : Prop :=
        t.ctx = s.ctx.modify m (fun c => { f c with lastInput := some s.now }) ∧ t.focus = some m ∧
          (t.link m).profileMark = some ((s.link m).profileMark.getD (s.link m).nextOrder)
      (cls = 6 → action = 0 → after fun c => { c with
        volume := if c.volume = 0 then c.mutedFrom else if c.volume < 7 then c.volume + 1 else 1 }) ∧
      (cls = 6 → action = 1 → after fun c =>
        if 0 < c.volume then { c with mutedFrom := c.volume, volume := 0 } else { c with volume := c.mutedFrom }) ∧
      (cls = 7 → action = 0 → after fun c => { c with assist := !c.assist }) ∧
      (cls = 7 → action = 1 → after fun c => { c with language := (c.language + 1) % s.languageCount }) ∧
      (cls = 5 → action = 0 → s.attached m.other = true → t.focus = some m.other ∧
        t.ctx = s.ctx.mapBoth (fun c => { c with lastInput := some s.now })) ∧
      (cls = 5 → action = 0 → s.attached m.other = false → t.focus = some m ∧
        t.ctx = s.ctx.modify m fun c => { c with lastInput := some s.now })) ∧
  ∀ (s : State) (m : Side) (note up : Bool) (action : Byte), s.ServesRequest m → s.focus = some m →
    (s.context m).index < (s.context m).programs.length →
    (s.panel.mask.get m).getLsbD 0 = true →
    let c := s.context m
    let n := c.programs.length
    let atEnd := if up then n ≤ c.index + 1 else c.index = 0
    let index := if up then (if c.index + 1 < n then c.index + 1 else if c.wrap then 0 else c.index)
      else if 0 < c.index then c.index - 1 else if c.wrap then n - 1 else c.index
    ∃ t, exec (.inputForce m note [0, if up then 1 else 0xFF, action]) s = .next t ∧
      t.ctx = s.ctx.modify m (fun x => { x with index := index, lastInput := some s.now }) ∧
      (t.panel.summary.get m).getLsbD 0 = true ∧
      let l := s.link m
      let dir : Int := if up then 1 else -1
      let joined : Prop := if l.inputs.length < 16 then
          (t.link m).inputs = l.inputs ++ [{ order := l.nextOrder, content := .knob dir index (atEnd && !c.wrap) }]
        else (t.link m).inputs = l.inputs ∧ (t.link m).fault = true ∧ (t.link m).causes.reportDrop = true
      (l.inputs = [] → joined) ∧
      ∀ init r, l.inputs = init ++ [r] → match r.content with
        | .knob steps _ ended =>
          ((∀ x, l.tx = .sending (.input x) → x.order ≠ r.order) → (t.link m).inputs = init ++
            [{ r with content := .knob (max (-128) (min 127 (steps + dir))) index (ended || (atEnd && !c.wrap)) }]) ∧
          (∀ x, l.tx = .sending (.input x) → x.order = r.order → joined)
        | .key _ _ | .proximity => joined

/-- The panel cues that local actions set (R33, R35, R54, R55, R174, R175), made by INPUT_FORCE. Feedback: CLICK for a detent that moves,
without assist; REJECT at an end stop and for a refused SWAP; ACCEPT for SWAP, both VOLUME actions and assist off. On a free voice 0 it
begins at once; a feedback cue that plays begins its fade and the new one takes the pending position. Narration: FIELD PROGRAM for a
detent that moves, with assist; FRAGMENT 66 for assist on, 67 for the language; the name and program for a SWAP to a machine in assist.
While a check bars speech it is the pending one and a playing one begins its fade; with a failed store it plays its hold of 100 ms; on a
free speech path it speaks at once, assembled from the holder's context as it stands then.
FOCUS_CLAIM that moves focus to a machine in assist mode (R34, R35) sets the same narration of name and program. -/
def Obligations.PanelCuesFollowActions : Prop :=
  let narrates (s t : State) (items : List PhraseItem) : Prop :=
    let narration (d : Cue) : Prop := d.speech = some items ∧ d.tone = none ∧ d.cls = .echo ∧ d.origin = .panel
    (s.store.state = .ok → s.store.check ≠ .idle → ∃ d, t.sched.narration =
        ⟨some d, s.sched.narration.current.map fun x =>
          if x.state = .playing then x.fadingAs .preempted s.now else x⟩ ∧ narration d ∧ d.state = .waiting) ∧
    (s.ResourceLaws → s.store.state = .failed → s.sched.narration.current = none → ∃ d, t.sched.narration = ⟨none, some d⟩ ∧
      narration d ∧ d.state = .playing ∧ d.phase = some .main ∧ d.holdTimer = some (s.now + 100000)) ∧
    ∀ h e rest, s.ResourceLaws → s.store.state = .ok → s.store.check = .idle → s.sched.path = ⟨none, none⟩ →
      s.sched.narration.current = none → s.candidates = [] → t.focus = some h →
      (s.assembleItems (t.context h) items).entries = e :: rest → ∃ d, t.sched.narration = ⟨none, some d⟩ ∧ narration d ∧
        d.state = .playing ∧ d.phase = some .main ∧ d.speechPlays = true ∧ t.sched.path = ⟨some .narration, none⟩ ∧
        t.utt = ⟨e :: rest, some .narration⟩
  (∀ (s : State) (m : Side) (note : Bool) (cls step action : Byte), s.ServesRequest m → s.focus = some m →
    let c := s.context m
    let detent := cls = 0 ∧ (step = 1 ∨ step = 0xFF)
    let stop := c.wrap = false ∧ ((step = 1 ∧ c.programs.length ≤ c.index + 1) ∨ (step = 0xFF ∧ c.index = 0))
    let swap := cls = 5 ∧ action = 0
    let feedback (q : Fin 32) : Prop :=
      (q = 0 ∧ detent ∧ ¬stop ∧ c.assist = false) ∨
      (q = 1 ∧ ((swap ∧ s.attached m.other = true) ∨ (cls = 6 ∧ action.toNat ≤ 1) ∨
        (cls = 7 ∧ action = 0 ∧ c.assist = true))) ∨
      (q = 2 ∧ ((detent ∧ stop) ∨ (swap ∧ s.attached m.other = false)))
    let narration (items : List PhraseItem) : Prop :=
      (items = [.field .program] ∧ detent ∧ ¬stop ∧ c.assist = true) ∨
      (items = [.fragment 66] ∧ cls = 7 ∧ action = 0 ∧ c.assist = false) ∨
      (items = [.fragment 67] ∧ cls = 7 ∧ action = 1) ∨
      (items = [.fragment (if m = .w then 65 else 64), .field .program] ∧ swap ∧ s.attached m.other = true ∧
        (s.context m.other).assist = true)
    ∃ t, exec (.inputForce m note [cls, step, action]) s = .next t ∧
      (∀ q p, feedback q → s.tone.patterns[(q : Fin 32)] = some p →
        (s.ResourceLaws → s.sched.feedback.current = none → (s.sched.voices[(0 : Fin 4)]).holder = none →
          (t.sched.voices[(0 : Fin 4)]).holder = some .feedback ∧ t.tone.voices[(0 : Fin 4)] = voiceAt q p ∧
          ∃ d, t.sched.feedback = ⟨none, some d⟩ ∧ d.tone = some ⟨q, .together⟩ ∧ d.speech = none ∧ d.cls = .echo ∧
            d.origin = .panel ∧ d.state = .playing ∧ d.phase = some .main) ∧
        ∀ x, s.sched.feedback.current = some x → (s.sched.voices[(0 : Fin 4)]).holder = some .feedback →
          ∃ d, t.sched.feedback = ⟨some d, some (if x.state = .playing then x.fadingAs .preempted s.now else x)⟩ ∧
            d.tone = some ⟨q, .together⟩ ∧ d.speech = none ∧ d.cls = .echo ∧ d.origin = .panel ∧ d.state = .waiting) ∧
      ∀ items, narration items → narrates s t items) ∧
  ∀ (s : State) (m h : Side) (note : Bool), s.ServesRequest m → s.focus = some h → s.attached h = true → h ≠ m →
    (s.context h).lastInput.any (fun t => s.now < t + 10000000) = false → (s.context m).assist = true →
    ∃ t, exec (.focusClaim m note []) s = .next t ∧ t.focus = some m ∧
      narrates s t [.fragment (if m = .w then 64 else 65), .field .program]

/-- INPUT_SAMPLE, the first one after a power reset (R170, R171): every filtered level and the reference pair are loaded, every run
count is 0, and nothing is handed on.
INPUT_SAMPLE, every later one (R170 to R173): each line's run count and filtered level, the encoder's reference pair and edge
count, and every long-press timer move as the rules give, whatever the events set off; a sample that changes no filtered level
changes nothing else; a changed key and a proximity edge leave the backlight FULL; with nobody holding focus the contexts, summaries
and input reports stay; and a proximity edge with a VOLUME PRESS of the same sample leaves ACCEPT playing on a free voice 0, in
whichever order they are taken (R169).
LONG_PRESS_EXPIRY (R172, R173, R176, R177) of a key whose LONG has no local action: the timer stops and the event is taken for the
holder, whose IDLE transmitter begins the report; with nobody holding focus any key's LONG only reaches the backlight; a stopped timer
does not expire. -/
def Obligations.PanelLinesTaken : Prop :=
  ((∀ (s : State) (levels : BitVec 10) (order : List InputClass), s.resetHeld = false → s.panel.sampled = false →
     exec (.inputSample levels order) s = .next { s with
       panel := { s.panel with
         sampled := true, refA := levels.getLsbD 0, refB := levels.getLsbD 1,
         lines := Vector.ofFn fun i : Fin 10 => { level := levels.getLsbD i.val, run := 0 } } }) ∧
   ∀ (s : State) (levels : BitVec 10) (order : List InputClass), s.resetHeld = false → s.panel.sampled = true →
     ∃ t, exec (.inputSample levels order) s = .next t ∧
       let p := s.panel
       let old (i : Fin 10) : Bool := (p.lines[i]).level
       let new (i : Fin 10) : Bool := (t.panel.lines[i]).level
       (∀ i : Fin 10, t.panel.lines[i] =
         let f : LineFilter := p.lines[i]
         if levels.getLsbD i.val = f.level then { level := f.level, run := 0 }
         else if (if i.val < 2 then p.encoderN else p.keyN) ≤ f.run + 1 then { level := !f.level, run := 0 }
         else { level := f.level, run := f.run + 1 }) ∧
       ((∀ i, new i = old i) → t = { s with panel := { p with lines := t.panel.lines } }) ∧
       (let place (a b : Bool) : Nat := if a then (if b then 2 else 1) else if b then 3 else 0
         let moved := new 0 ≠ old 0 ∨ new 1 ≠ old 1
         let before := place p.refA p.refB
         let now := place (new 0) (new 1)
         let edge : Int := if now = (before + 1) % 4 then 1 else if now = (before + 3) % 4 then -1 else 0
         let count := if edge = 0 then p.edgeCount else if 0 ≤ p.edgeCount * edge then p.edgeCount + edge else edge
         (moved → t.panel.refA = new 0 ∧ t.panel.refB = new 1 ∧
           t.panel.edgeCount = if p.edgesPerDetent ≤ count.natAbs ∧ count ≠ 0 then 0 else count) ∧
         (¬moved → t.panel.refA = p.refA ∧ t.panel.refB = p.refB ∧ t.panel.edgeCount = p.edgeCount)) ∧
       (∀ k : Fin 7,
         let line : Fin 10 := ⟨k.val + 2, by omega⟩
         t.panel.longTimers[k] =
           if new line = old line then p.longTimers[k] else if new line then some (s.now + 1500000) else none) ∧
       ((∃ i : Fin 10, 2 ≤ i.val ∧ i.val ≤ 8 ∧ new i ≠ old i) ∨ (new 9 = true ∧ old 9 = false) →
         t.display.backlight = .full) ∧
       (s.focus = none → t.focus = none ∧ t.ctx = s.ctx ∧ t.panel.summary = s.panel.summary ∧
         ∀ m, (t.link m).inputs = (s.link m).inputs) ∧
       (s.focus ≠ none → s.sched.feedback = ⟨none, none⟩ → (s.sched.voices[(0 : Fin 4)]).holder = none →
         s.tone.patterns[(1 : Fin 32)] ≠ none → (∀ i, i ≠ 7 → i ≠ 9 → new i = old i) → (new 7 = true ∧ old 7 = false) →
         (new 9 = true ∧ old 9 = false) → s.AtRest → s.ResourceLaws → ∃ d, t.sched.feedback = ⟨none, some d⟩ ∧ d.state = .playing ∧
           d.tone = some ⟨1, .together⟩)) ∧
  ∀ (s : State) (k : Key), s.AtRest →
    (s.panel.longTimers[keyTimer k] = none → exec (.longPressExpiry k) s = .next s) ∧
    (s.panel.longTimers[keyTimer k] ≠ none → s.focus = none → exec (.longPressExpiry k) s = .next { s with
      panel := { s.panel with longTimers := s.panel.longTimers.set (keyTimer k) none },
      display := { s.display with
        backlight := .full, idleTimer := if s.anyPlaying then none else some (s.now + 60000000) } }) ∧
    (∀ h (n : Nat), s.panel.longTimers[keyTimer k] ≠ none → s.focus = some h →
      [Key.push, .start, .options, .back, .swap][n]? = some k →
      exec (.longPressExpiry k) s = .next { s with
        ctx := s.ctx.modify h fun c => { c with lastInput := some s.now },
        panel := { s.panel with
          longTimers := s.panel.longTimers.set (keyTimer k) none,
          summary := s.panel.summary.modify h fun x => x ||| (1#9 <<< (n + 1)) },
        links := s.links.modify h fun l =>
          let r : InputReport := { order := l.nextOrder, content := .key k .long }
          if (s.panel.mask.get h).getLsbD (n + 1) = false then l
          else if l.inputs.length < 16 then
            { l.sends (.input r) with inputs := l.inputs ++ [r], nextOrder := l.nextOrder + 1 }
          else { l with fault := true, causes := { l.causes with reportDrop := true } },
        display := { s.display with
          backlight := .full, idleTimer := if s.anyPlaying then none else some (s.now + 60000000) } })

/-! ### Laws of every step -/

/-- Nothing waits to be settled after any step, if nothing did before: arbitrations, checks, bursts and frames begin as soon as they can
(R6, R15, R61, R91, R116). -/
def Obligations.StepKeepsSettled : Prop :=
  ∀ s t : State, s.Settled → step s = .next t → t.Settled

/-- The contexts and the catalog keep their ranges in every step (R22, R28, R29, R83, R88).
Focus is held by an attached machine, or by nobody while no machine is attached, through every step; and no step but a power reset
takes focus from both machines or detaches a machine (R23, R31). -/
def Obligations.StepKeepsContextsAndFocus : Prop :=
  (∀ s t : State, s.ContextsInRange → step s = .next t → t.ContextsInRange) ∧
  ∀ s t : State, s.FocusAttached → step s = .next t → t.FocusAttached ∧
    ((∀ b, s.pending.head? ≠ some (.powerReset b)) →
      (s.focus ≠ none → t.focus ≠ none) ∧ ∀ m, s.attached m = true → t.attached m = true)

/-- The bounds of the links hold through every step (R1, R5, R13).
The mixed sample stays a 16-bit number and the duck factors stay multiples of 16 from 64 to 256 (R145, R148); the levels stay 0 to
63 (R157, R165); and the input settings and run counts stay in their ranges (R170, R171, R179).
The sample ring never overflows (R116, R123): a burst of channel S always finds room.
A machine never has more than 16 cues in the table (R36, R40). -/
def Obligations.StepKeepsBounds : Prop :=
  (∀ s t : State, s.LinksBounded → step s = .next t → t.LinksBounded) ∧
  (∀ s t : State, s.mixer.MixOk → s.display.LevelsOk → s.panel.SettingsOk → step s = .next t →
    t.mixer.MixOk ∧ t.display.LevelsOk ∧ t.panel.SettingsOk) ∧
  (∀ s t : State, s.RingOk → step s = .next t → t.RingOk) ∧
  ∀ (s t : State) (m : Side), s.machineCount m ≤ 16 → step s = .next t → t.machineCount m ≤ 16

/-- The done-report lists and the cue table agree through every step (R12, R49, R52), so a link never holds more than 16 CUE_DONE reports
while its machine has at most 16 cues (R12); and a machine never has more than 4 fence markers (R42). -/
def Obligations.StepKeepsReports : Prop :=
  (∀ s t : State, s.ReportsOk → step s = .next t → t.ReportsOk) ∧
  (∀ (s : State) (m : Side), s.ReportsOk → s.machineCount m ≤ 16 → (s.link m).done.length ≤ 16) ∧
  ∀ (s t : State) (m : Side), (s.sched.markers.get m).length ≤ 4 → step s = .next t → (t.sched.markers.get m).length ≤ 4

/-- The laws of the speaker stage hold through every step (R150 to R156): in particular the gates are driven only in DRIVING, DRIVING is
never with the sense input active, and a part whose reset input is low has its stage DISABLED (log 16). -/
def Obligations.StepKeepsStage : Prop :=
  ∀ s t : State, s.StageLaws → step s = .next t → t.StageLaws

/-- Every deferred request has its work in the Store Interface and every piece of work its request, through every step (R9, R90, R116,
R121). -/
def Obligations.StepKeepsService : Prop :=
  ∀ s t : State, s.ServiceOk → step s = .next t → t.ServiceOk

/-- The laws of the playback resources hold through every step (R53, R59): every holder is PLAYING or ENDING, no cue holds two voices,
voice 0 is the feedback entry's alone. -/
def Obligations.StepKeepsResources : Prop :=
  ∀ s t : State, s.ResourceLaws → step s = .next t → t.ResourceLaws
end

