-- ==== Sys2Proof/Laws/State.lean ====
section
/-! SUPPORT. What each update of a block leaves in every field of State: one lemma per field per update; and the pair of values kept
for the two machines. -/

namespace Sys2Proof

namespace PerSide

variable {α : Type}

@[simp] theorem get_set_same (p : PerSide α) (m : Side) (a : α) : (p.set m a).get m = a := by cases m <;> rfl
theorem get_set (p : PerSide α) (m n : Side) (a : α) : (p.set m a).get n = if n = m then a else p.get n := by
  cases m <;> cases n <;> rfl
theorem get_set_of_ne (p : PerSide α) {m n : Side} (a : α) (h : n ≠ m) : (p.set m a).get n = p.get n := by
  simp [get_set, h]
@[simp] theorem get_modify_same (p : PerSide α) (m : Side) (f : α → α) : (p.modify m f).get m = f (p.get m) := by
  simp [modify]
theorem get_modify (p : PerSide α) (m n : Side) (f : α → α) :
    (p.modify m f).get n = if n = m then f (p.get n) else p.get n := by
  cases m <;> cases n <;> rfl
theorem get_modify_of_ne (p : PerSide α) {m n : Side} (f : α → α) (h : n ≠ m) : (p.modify m f).get n = p.get n := by
  simp [get_modify, h]
@[simp] theorem get_both (a : α) (m : Side) : (both a).get m = a := by cases m <;> rfl
@[simp] theorem get_mapBoth (p : PerSide α) (f : α → α) (m : Side) : (p.mapBoth f).get m = f (p.get m) := by
  cases m <;> rfl
@[simp] theorem w_eq_get (p : PerSide α) : p.get .w = p.w := rfl
@[simp] theorem d_eq_get (p : PerSide α) : p.get .d = p.d := rfl
@[simp] theorem set_get (p : PerSide α) (m : Side) : p.set m (p.get m) = p := by cases m <;> rfl
@[simp] theorem modify_modify (p : PerSide α) (m : Side) (f g : α → α) :
    (p.modify m f).modify m g = p.modify m (g ∘ f) := by cases m <;> rfl
theorem ext_get {p q : PerSide α} (h : ∀ m, p.get m = q.get m) : p = q :=
  congrArg₂ mk (h .w) (h .d)

end PerSide

namespace Machine

variable (s : State)

/-! ### onSched -/

@[simp] theorem State.onSched_now (f : Sched → Sched) : (s.onSched f).now = s.now := rfl
@[simp] theorem State.onSched_resetHeld (f : Sched → Sched) : (s.onSched f).resetHeld = s.resetHeld := rfl
@[simp] theorem State.onSched_partState (f : Sched → Sched) : (s.onSched f).partState = s.partState := rfl
@[simp] theorem State.onSched_focus (f : Sched → Sched) : (s.onSched f).focus = s.focus := rfl
@[simp] theorem State.onSched_ctx (f : Sched → Sched) : (s.onSched f).ctx = s.ctx := rfl
@[simp] theorem State.onSched_links (f : Sched → Sched) : (s.onSched f).links = s.links := rfl
@[simp] theorem State.onSched_sched (f : Sched → Sched) : (s.onSched f).sched = f s.sched := rfl
@[simp] theorem State.onSched_utt (f : Sched → Sched) : (s.onSched f).utt = s.utt := rfl
@[simp] theorem State.onSched_store (f : Sched → Sched) : (s.onSched f).store = s.store := rfl
@[simp] theorem State.onSched_stream (f : Sched → Sched) : (s.onSched f).stream = s.stream := rfl
@[simp] theorem State.onSched_tone (f : Sched → Sched) : (s.onSched f).tone = s.tone := rfl
@[simp] theorem State.onSched_mixer (f : Sched → Sched) : (s.onSched f).mixer = s.mixer := rfl
@[simp] theorem State.onSched_display (f : Sched → Sched) : (s.onSched f).display = s.display := rfl
@[simp] theorem State.onSched_panel (f : Sched → Sched) : (s.onSched f).panel = s.panel := rfl
@[simp] theorem State.onSched_pending (f : Sched → Sched) : (s.onSched f).pending = s.pending := rfl

/-! ### onStore -/

@[simp] theorem State.onStore_now (f : Store → Store) : (s.onStore f).now = s.now := rfl
@[simp] theorem State.onStore_resetHeld (f : Store → Store) : (s.onStore f).resetHeld = s.resetHeld := rfl
@[simp] theorem State.onStore_partState (f : Store → Store) : (s.onStore f).partState = s.partState := rfl
@[simp] theorem State.onStore_focus (f : Store → Store) : (s.onStore f).focus = s.focus := rfl
@[simp] theorem State.onStore_ctx (f : Store → Store) : (s.onStore f).ctx = s.ctx := rfl
@[simp] theorem State.onStore_links (f : Store → Store) : (s.onStore f).links = s.links := rfl
@[simp] theorem State.onStore_sched (f : Store → Store) : (s.onStore f).sched = s.sched := rfl
@[simp] theorem State.onStore_utt (f : Store → Store) : (s.onStore f).utt = s.utt := rfl
@[simp] theorem State.onStore_store (f : Store → Store) : (s.onStore f).store = f s.store := rfl
@[simp] theorem State.onStore_stream (f : Store → Store) : (s.onStore f).stream = s.stream := rfl
@[simp] theorem State.onStore_tone (f : Store → Store) : (s.onStore f).tone = s.tone := rfl
@[simp] theorem State.onStore_mixer (f : Store → Store) : (s.onStore f).mixer = s.mixer := rfl
@[simp] theorem State.onStore_display (f : Store → Store) : (s.onStore f).display = s.display := rfl
@[simp] theorem State.onStore_panel (f : Store → Store) : (s.onStore f).panel = s.panel := rfl
@[simp] theorem State.onStore_pending (f : Store → Store) : (s.onStore f).pending = s.pending := rfl

/-! ### onStream -/

@[simp] theorem State.onStream_now (f : Stream → Stream) : (s.onStream f).now = s.now := rfl
@[simp] theorem State.onStream_resetHeld (f : Stream → Stream) : (s.onStream f).resetHeld = s.resetHeld := rfl
@[simp] theorem State.onStream_partState (f : Stream → Stream) : (s.onStream f).partState = s.partState := rfl
@[simp] theorem State.onStream_focus (f : Stream → Stream) : (s.onStream f).focus = s.focus := rfl
@[simp] theorem State.onStream_ctx (f : Stream → Stream) : (s.onStream f).ctx = s.ctx := rfl
@[simp] theorem State.onStream_links (f : Stream → Stream) : (s.onStream f).links = s.links := rfl
@[simp] theorem State.onStream_sched (f : Stream → Stream) : (s.onStream f).sched = s.sched := rfl
@[simp] theorem State.onStream_utt (f : Stream → Stream) : (s.onStream f).utt = s.utt := rfl
@[simp] theorem State.onStream_store (f : Stream → Stream) : (s.onStream f).store = s.store := rfl
@[simp] theorem State.onStream_stream (f : Stream → Stream) : (s.onStream f).stream = f s.stream := rfl
@[simp] theorem State.onStream_tone (f : Stream → Stream) : (s.onStream f).tone = s.tone := rfl
@[simp] theorem State.onStream_mixer (f : Stream → Stream) : (s.onStream f).mixer = s.mixer := rfl
@[simp] theorem State.onStream_display (f : Stream → Stream) : (s.onStream f).display = s.display := rfl
@[simp] theorem State.onStream_panel (f : Stream → Stream) : (s.onStream f).panel = s.panel := rfl
@[simp] theorem State.onStream_pending (f : Stream → Stream) : (s.onStream f).pending = s.pending := rfl

/-! ### onTone -/

@[simp] theorem State.onTone_now (f : Tone → Tone) : (s.onTone f).now = s.now := rfl
@[simp] theorem State.onTone_resetHeld (f : Tone → Tone) : (s.onTone f).resetHeld = s.resetHeld := rfl
@[simp] theorem State.onTone_partState (f : Tone → Tone) : (s.onTone f).partState = s.partState := rfl
@[simp] theorem State.onTone_focus (f : Tone → Tone) : (s.onTone f).focus = s.focus := rfl
@[simp] theorem State.onTone_ctx (f : Tone → Tone) : (s.onTone f).ctx = s.ctx := rfl
@[simp] theorem State.onTone_links (f : Tone → Tone) : (s.onTone f).links = s.links := rfl
@[simp] theorem State.onTone_sched (f : Tone → Tone) : (s.onTone f).sched = s.sched := rfl
@[simp] theorem State.onTone_utt (f : Tone → Tone) : (s.onTone f).utt = s.utt := rfl
@[simp] theorem State.onTone_store (f : Tone → Tone) : (s.onTone f).store = s.store := rfl
@[simp] theorem State.onTone_stream (f : Tone → Tone) : (s.onTone f).stream = s.stream := rfl
@[simp] theorem State.onTone_tone (f : Tone → Tone) : (s.onTone f).tone = f s.tone := rfl
@[simp] theorem State.onTone_mixer (f : Tone → Tone) : (s.onTone f).mixer = s.mixer := rfl
@[simp] theorem State.onTone_display (f : Tone → Tone) : (s.onTone f).display = s.display := rfl
@[simp] theorem State.onTone_panel (f : Tone → Tone) : (s.onTone f).panel = s.panel := rfl
@[simp] theorem State.onTone_pending (f : Tone → Tone) : (s.onTone f).pending = s.pending := rfl

/-! ### onMixer -/

@[simp] theorem State.onMixer_now (f : Mixer → Mixer) : (s.onMixer f).now = s.now := rfl
@[simp] theorem State.onMixer_resetHeld (f : Mixer → Mixer) : (s.onMixer f).resetHeld = s.resetHeld := rfl
@[simp] theorem State.onMixer_partState (f : Mixer → Mixer) : (s.onMixer f).partState = s.partState := rfl
@[simp] theorem State.onMixer_focus (f : Mixer → Mixer) : (s.onMixer f).focus = s.focus := rfl
@[simp] theorem State.onMixer_ctx (f : Mixer → Mixer) : (s.onMixer f).ctx = s.ctx := rfl
@[simp] theorem State.onMixer_links (f : Mixer → Mixer) : (s.onMixer f).links = s.links := rfl
@[simp] theorem State.onMixer_sched (f : Mixer → Mixer) : (s.onMixer f).sched = s.sched := rfl
@[simp] theorem State.onMixer_utt (f : Mixer → Mixer) : (s.onMixer f).utt = s.utt := rfl
@[simp] theorem State.onMixer_store (f : Mixer → Mixer) : (s.onMixer f).store = s.store := rfl
@[simp] theorem State.onMixer_stream (f : Mixer → Mixer) : (s.onMixer f).stream = s.stream := rfl
@[simp] theorem State.onMixer_tone (f : Mixer → Mixer) : (s.onMixer f).tone = s.tone := rfl
@[simp] theorem State.onMixer_mixer (f : Mixer → Mixer) : (s.onMixer f).mixer = f s.mixer := rfl
@[simp] theorem State.onMixer_display (f : Mixer → Mixer) : (s.onMixer f).display = s.display := rfl
@[simp] theorem State.onMixer_panel (f : Mixer → Mixer) : (s.onMixer f).panel = s.panel := rfl
@[simp] theorem State.onMixer_pending (f : Mixer → Mixer) : (s.onMixer f).pending = s.pending := rfl

/-! ### onDisplay -/

@[simp] theorem State.onDisplay_now (f : Display → Display) : (s.onDisplay f).now = s.now := rfl
@[simp] theorem State.onDisplay_resetHeld (f : Display → Display) : (s.onDisplay f).resetHeld = s.resetHeld := rfl
@[simp] theorem State.onDisplay_partState (f : Display → Display) : (s.onDisplay f).partState = s.partState := rfl
@[simp] theorem State.onDisplay_focus (f : Display → Display) : (s.onDisplay f).focus = s.focus := rfl
@[simp] theorem State.onDisplay_ctx (f : Display → Display) : (s.onDisplay f).ctx = s.ctx := rfl
@[simp] theorem State.onDisplay_links (f : Display → Display) : (s.onDisplay f).links = s.links := rfl
@[simp] theorem State.onDisplay_sched (f : Display → Display) : (s.onDisplay f).sched = s.sched := rfl
@[simp] theorem State.onDisplay_utt (f : Display → Display) : (s.onDisplay f).utt = s.utt := rfl
@[simp] theorem State.onDisplay_store (f : Display → Display) : (s.onDisplay f).store = s.store := rfl
@[simp] theorem State.onDisplay_stream (f : Display → Display) : (s.onDisplay f).stream = s.stream := rfl
@[simp] theorem State.onDisplay_tone (f : Display → Display) : (s.onDisplay f).tone = s.tone := rfl
@[simp] theorem State.onDisplay_mixer (f : Display → Display) : (s.onDisplay f).mixer = s.mixer := rfl
@[simp] theorem State.onDisplay_display (f : Display → Display) : (s.onDisplay f).display = f s.display := rfl
@[simp] theorem State.onDisplay_panel (f : Display → Display) : (s.onDisplay f).panel = s.panel := rfl
@[simp] theorem State.onDisplay_pending (f : Display → Display) : (s.onDisplay f).pending = s.pending := rfl

/-! ### onPanel -/

@[simp] theorem State.onPanel_now (f : Panel → Panel) : (s.onPanel f).now = s.now := rfl
@[simp] theorem State.onPanel_resetHeld (f : Panel → Panel) : (s.onPanel f).resetHeld = s.resetHeld := rfl
@[simp] theorem State.onPanel_partState (f : Panel → Panel) : (s.onPanel f).partState = s.partState := rfl
@[simp] theorem State.onPanel_focus (f : Panel → Panel) : (s.onPanel f).focus = s.focus := rfl
@[simp] theorem State.onPanel_ctx (f : Panel → Panel) : (s.onPanel f).ctx = s.ctx := rfl
@[simp] theorem State.onPanel_links (f : Panel → Panel) : (s.onPanel f).links = s.links := rfl
@[simp] theorem State.onPanel_sched (f : Panel → Panel) : (s.onPanel f).sched = s.sched := rfl
@[simp] theorem State.onPanel_utt (f : Panel → Panel) : (s.onPanel f).utt = s.utt := rfl
@[simp] theorem State.onPanel_store (f : Panel → Panel) : (s.onPanel f).store = s.store := rfl
@[simp] theorem State.onPanel_stream (f : Panel → Panel) : (s.onPanel f).stream = s.stream := rfl
@[simp] theorem State.onPanel_tone (f : Panel → Panel) : (s.onPanel f).tone = s.tone := rfl
@[simp] theorem State.onPanel_mixer (f : Panel → Panel) : (s.onPanel f).mixer = s.mixer := rfl
@[simp] theorem State.onPanel_display (f : Panel → Panel) : (s.onPanel f).display = s.display := rfl
@[simp] theorem State.onPanel_panel (f : Panel → Panel) : (s.onPanel f).panel = f s.panel := rfl
@[simp] theorem State.onPanel_pending (f : Panel → Panel) : (s.onPanel f).pending = s.pending := rfl

/-! ### setUtt -/

@[simp] theorem State.setUtt_now (u : Utterance) : (s.setUtt u).now = s.now := rfl
@[simp] theorem State.setUtt_resetHeld (u : Utterance) : (s.setUtt u).resetHeld = s.resetHeld := rfl
@[simp] theorem State.setUtt_partState (u : Utterance) : (s.setUtt u).partState = s.partState := rfl
@[simp] theorem State.setUtt_focus (u : Utterance) : (s.setUtt u).focus = s.focus := rfl
@[simp] theorem State.setUtt_ctx (u : Utterance) : (s.setUtt u).ctx = s.ctx := rfl
@[simp] theorem State.setUtt_links (u : Utterance) : (s.setUtt u).links = s.links := rfl
@[simp] theorem State.setUtt_sched (u : Utterance) : (s.setUtt u).sched = s.sched := rfl
@[simp] theorem State.setUtt_utt (u : Utterance) : (s.setUtt u).utt = u := rfl
@[simp] theorem State.setUtt_store (u : Utterance) : (s.setUtt u).store = s.store := rfl
@[simp] theorem State.setUtt_stream (u : Utterance) : (s.setUtt u).stream = s.stream := rfl
@[simp] theorem State.setUtt_tone (u : Utterance) : (s.setUtt u).tone = s.tone := rfl
@[simp] theorem State.setUtt_mixer (u : Utterance) : (s.setUtt u).mixer = s.mixer := rfl
@[simp] theorem State.setUtt_display (u : Utterance) : (s.setUtt u).display = s.display := rfl
@[simp] theorem State.setUtt_panel (u : Utterance) : (s.setUtt u).panel = s.panel := rfl
@[simp] theorem State.setUtt_pending (u : Utterance) : (s.setUtt u).pending = s.pending := rfl

/-! ### onLink -/

@[simp] theorem State.onLink_now (m : Side) (f : Link → Link) : (s.onLink m f).now = s.now := rfl
@[simp] theorem State.onLink_resetHeld (m : Side) (f : Link → Link) : (s.onLink m f).resetHeld = s.resetHeld := rfl
@[simp] theorem State.onLink_partState (m : Side) (f : Link → Link) : (s.onLink m f).partState = s.partState := rfl
@[simp] theorem State.onLink_focus (m : Side) (f : Link → Link) : (s.onLink m f).focus = s.focus := rfl
@[simp] theorem State.onLink_ctx (m : Side) (f : Link → Link) : (s.onLink m f).ctx = s.ctx := rfl
@[simp] theorem State.onLink_links (m : Side) (f : Link → Link) : (s.onLink m f).links = s.links.modify m f := rfl
@[simp] theorem State.onLink_sched (m : Side) (f : Link → Link) : (s.onLink m f).sched = s.sched := rfl
@[simp] theorem State.onLink_utt (m : Side) (f : Link → Link) : (s.onLink m f).utt = s.utt := rfl
@[simp] theorem State.onLink_store (m : Side) (f : Link → Link) : (s.onLink m f).store = s.store := rfl
@[simp] theorem State.onLink_stream (m : Side) (f : Link → Link) : (s.onLink m f).stream = s.stream := rfl
@[simp] theorem State.onLink_tone (m : Side) (f : Link → Link) : (s.onLink m f).tone = s.tone := rfl
@[simp] theorem State.onLink_mixer (m : Side) (f : Link → Link) : (s.onLink m f).mixer = s.mixer := rfl
@[simp] theorem State.onLink_display (m : Side) (f : Link → Link) : (s.onLink m f).display = s.display := rfl
@[simp] theorem State.onLink_panel (m : Side) (f : Link → Link) : (s.onLink m f).panel = s.panel := rfl
@[simp] theorem State.onLink_pending (m : Side) (f : Link → Link) : (s.onLink m f).pending = s.pending := rfl

/-! ### onCtx -/

@[simp] theorem State.onCtx_now (m : Side) (f : Context → Context) : (s.onCtx m f).now = s.now := rfl
@[simp] theorem State.onCtx_resetHeld (m : Side) (f : Context → Context) : (s.onCtx m f).resetHeld = s.resetHeld := rfl
@[simp] theorem State.onCtx_partState (m : Side) (f : Context → Context) : (s.onCtx m f).partState = s.partState := rfl
@[simp] theorem State.onCtx_focus (m : Side) (f : Context → Context) : (s.onCtx m f).focus = s.focus := rfl
@[simp] theorem State.onCtx_ctx (m : Side) (f : Context → Context) : (s.onCtx m f).ctx = s.ctx.modify m f := rfl
@[simp] theorem State.onCtx_links (m : Side) (f : Context → Context) : (s.onCtx m f).links = s.links := rfl
@[simp] theorem State.onCtx_sched (m : Side) (f : Context → Context) : (s.onCtx m f).sched = s.sched := rfl
@[simp] theorem State.onCtx_utt (m : Side) (f : Context → Context) : (s.onCtx m f).utt = s.utt := rfl
@[simp] theorem State.onCtx_store (m : Side) (f : Context → Context) : (s.onCtx m f).store = s.store := rfl
@[simp] theorem State.onCtx_stream (m : Side) (f : Context → Context) : (s.onCtx m f).stream = s.stream := rfl
@[simp] theorem State.onCtx_tone (m : Side) (f : Context → Context) : (s.onCtx m f).tone = s.tone := rfl
@[simp] theorem State.onCtx_mixer (m : Side) (f : Context → Context) : (s.onCtx m f).mixer = s.mixer := rfl
@[simp] theorem State.onCtx_display (m : Side) (f : Context → Context) : (s.onCtx m f).display = s.display := rfl
@[simp] theorem State.onCtx_panel (m : Side) (f : Context → Context) : (s.onCtx m f).panel = s.panel := rfl
@[simp] theorem State.onCtx_pending (m : Side) (f : Context → Context) : (s.onCtx m f).pending = s.pending := rfl

/-! ### Links and contexts after an update -/

@[simp] theorem State.link_onLink_same (m : Side) (f : Link → Link) : (s.onLink m f).link m = f (s.link m) := by
  simp [State.link]
theorem State.onLink_onLink (m : Side) (f g : Link → Link) : (s.onLink m f).onLink m g = s.onLink m (g ∘ f) := by
  simp [State.onLink]
theorem State.onLink_self (m : Side) : (s.onLink m fun _ => s.link m) = s := by cases m <;> rfl
/-- An update of a link counts only by what it makes of that link. -/
theorem State.onLink_congr (m : Side) {f g : Link → Link} (h : f (s.link m) = g (s.link m)) :
    s.onLink m f = s.onLink m g := by
  simp only [State.onLink, PerSide.modify, State.link] at *
  rw [h]
theorem State.link_onLink (m n : Side) (f : Link → Link) :
    (s.onLink m f).link n = if n = m then f (s.link n) else s.link n := by
  simp [State.link, PerSide.get_modify]
theorem State.link_onLink_of_ne {m n : Side} (f : Link → Link) (h : n ≠ m) : (s.onLink m f).link n = s.link n := by
  simp [State.link_onLink, h]
@[simp] theorem State.context_onCtx_same (m : Side) (f : Context → Context) :
    (s.onCtx m f).context m = f (s.context m) := by simp [State.context]
theorem State.context_onCtx (m n : Side) (f : Context → Context) :
    (s.onCtx m f).context n = if n = m then f (s.context n) else s.context n := by
  simp [State.context, PerSide.get_modify]

@[simp] theorem State.link_onSched (f : Sched → Sched) (n : Side) : (s.onSched f).link n = s.link n := rfl
@[simp] theorem State.context_onSched (f : Sched → Sched) (n : Side) :
    (s.onSched f).context n = s.context n := rfl
@[simp] theorem State.attached_onSched (f : Sched → Sched) (n : Side) :
    (s.onSched f).attached n = s.attached n := rfl
@[simp] theorem State.link_onStore (f : Store → Store) (n : Side) : (s.onStore f).link n = s.link n := rfl
@[simp] theorem State.context_onStore (f : Store → Store) (n : Side) :
    (s.onStore f).context n = s.context n := rfl
@[simp] theorem State.attached_onStore (f : Store → Store) (n : Side) :
    (s.onStore f).attached n = s.attached n := rfl
@[simp] theorem State.link_onStream (f : Stream → Stream) (n : Side) : (s.onStream f).link n = s.link n := rfl
@[simp] theorem State.context_onStream (f : Stream → Stream) (n : Side) :
    (s.onStream f).context n = s.context n := rfl
@[simp] theorem State.attached_onStream (f : Stream → Stream) (n : Side) :
    (s.onStream f).attached n = s.attached n := rfl
@[simp] theorem State.link_onTone (f : Tone → Tone) (n : Side) : (s.onTone f).link n = s.link n := rfl
@[simp] theorem State.context_onTone (f : Tone → Tone) (n : Side) :
    (s.onTone f).context n = s.context n := rfl
@[simp] theorem State.attached_onTone (f : Tone → Tone) (n : Side) :
    (s.onTone f).attached n = s.attached n := rfl
@[simp] theorem State.link_onMixer (f : Mixer → Mixer) (n : Side) : (s.onMixer f).link n = s.link n := rfl
@[simp] theorem State.context_onMixer (f : Mixer → Mixer) (n : Side) :
    (s.onMixer f).context n = s.context n := rfl
@[simp] theorem State.attached_onMixer (f : Mixer → Mixer) (n : Side) :
    (s.onMixer f).attached n = s.attached n := rfl
@[simp] theorem State.link_onDisplay (f : Display → Display) (n : Side) : (s.onDisplay f).link n = s.link n := rfl
@[simp] theorem State.context_onDisplay (f : Display → Display) (n : Side) :
    (s.onDisplay f).context n = s.context n := rfl
@[simp] theorem State.attached_onDisplay (f : Display → Display) (n : Side) :
    (s.onDisplay f).attached n = s.attached n := rfl
@[simp] theorem State.link_onPanel (f : Panel → Panel) (n : Side) : (s.onPanel f).link n = s.link n := rfl
@[simp] theorem State.context_onPanel (f : Panel → Panel) (n : Side) :
    (s.onPanel f).context n = s.context n := rfl
@[simp] theorem State.attached_onPanel (f : Panel → Panel) (n : Side) :
    (s.onPanel f).attached n = s.attached n := rfl
@[simp] theorem State.link_setUtt (u : Utterance) (n : Side) : (s.setUtt u).link n = s.link n := rfl
@[simp] theorem State.context_setUtt (u : Utterance) (n : Side) :
    (s.setUtt u).context n = s.context n := rfl
@[simp] theorem State.attached_setUtt (u : Utterance) (n : Side) :
    (s.setUtt u).attached n = s.attached n := rfl
@[simp] theorem State.context_onLink (m : Side) (f : Link → Link) (n : Side) :
    (s.onLink m f).context n = s.context n := rfl
@[simp] theorem State.attached_onLink (m : Side) (f : Link → Link) (n : Side) :
    (s.onLink m f).attached n = s.attached n := rfl
@[simp] theorem State.link_onCtx (m : Side) (f : Context → Context) (n : Side) : (s.onCtx m f).link n = s.link n := rfl

end Machine

end Sys2Proof
end

