-- ==== Sys2Proof/Laws/Frame.lean ====
section
/-! SUPPORT. Everything an operation of the Cue Scheduler can touch outside its own records, said once: `State.SameOutside`. -/

namespace Sys2Proof.Machine

/-- What the Cue Scheduler's operations leave alone: time, contexts, focus, the Input Unit, the Mixer and stage, the pattern table,
the Store Interface but for channel S and an S burst cut off, the Display Unit but for ring effect and backlight, and the links but
for CUE_DONE reports joining, each with an order number not yet used. -/
structure State.SameOutside (s t : State) : Prop where
  now : t.now = s.now
  resetHeld : t.resetHeld = s.resetHeld
  partState : t.partState = s.partState
  focus : t.focus = s.focus
  ctx : t.ctx = s.ctx
  mixer : t.mixer = s.mixer
  panel : t.panel = s.panel
  pending : t.pending = s.pending
  store : t.store = { s.store with chanS := t.store.chanS, port := t.store.port }
  port : t.store.port = s.store.port ∨ (s.store.port = .s ∧ t.store.port = .idle)
  ring : t.stream.ring = s.stream.ring ∨ t.stream.ring = []
  patterns : t.tone.patterns = s.tone.patterns
  display : t.display = { s.display with
    ringEffect := t.display.ringEffect, backlight := t.display.backlight, idleTimer := t.display.idleTimer }
  links : ∀ m, ∃ d n, t.link m = { s.link m with done := (s.link m).done ++ d, nextOrder := n } ∧
    (s.link m).nextOrder ≤ n ∧ ∀ r ∈ d, (s.link m).nextOrder ≤ r.order

namespace State.SameOutside

variable {s t u : State}

theorem refl (s : State) : s.SameOutside s where
  now := rfl
  resetHeld := rfl
  partState := rfl
  focus := rfl
  ctx := rfl
  mixer := rfl
  panel := rfl
  pending := rfl
  store := rfl
  port := .inl rfl
  ring := .inl rfl
  patterns := rfl
  display := rfl
  links m := ⟨[], (s.link m).nextOrder, by simp⟩

theorem trans (h : s.SameOutside t) (k : t.SameOutside u) : s.SameOutside u where
  now := k.now.trans h.now
  resetHeld := k.resetHeld.trans h.resetHeld
  partState := k.partState.trans h.partState
  focus := k.focus.trans h.focus
  ctx := k.ctx.trans h.ctx
  mixer := k.mixer.trans h.mixer
  panel := k.panel.trans h.panel
  pending := k.pending.trans h.pending
  store := by rw [k.store, h.store]
  port := by
    rcases h.port with h1 | ⟨h1, h2⟩ <;> rcases k.port with k1 | ⟨k1, k2⟩
    · exact .inl (k1.trans h1)
    · exact .inr ⟨h1 ▸ k1, k2⟩
    · exact .inr ⟨h1, k1.trans h2⟩
    · simp [h2] at k1
  ring := by
    rcases k.ring with k1 | k1
    · rcases h.ring with h1 | h1
      · exact .inl (k1.trans h1)
      · exact .inr (k1.trans h1)
    · exact .inr k1
  patterns := k.patterns.trans h.patterns
  display := by rw [k.display, h.display]
  links m := by
    obtain ⟨d, n, hd, hn, hr⟩ := h.links m
    obtain ⟨e, p, he, hp, hq⟩ := k.links m
    rw [hd] at hp hq
    refine ⟨d ++ e, p, by rw [he, hd]; simp, hn.trans hp, fun r hm => ?_⟩
    exact (List.mem_append.1 hm).elim (hr r) fun hm => hn.trans (hq r hm)

theorem context (h : s.SameOutside t) (m : Side) : t.context m = s.context m := by simp [State.context, h.ctx]
theorem attached (h : s.SameOutside t) (m : Side) : t.attached m = s.attached m := by simp [State.attached, h.context]
theorem check (h : s.SameOutside t) : t.store.check = s.store.check := by rw [h.store]
theorem chanG (h : s.SameOutside t) : t.store.chanG = s.store.chanG := by rw [h.store]
theorem storeState (h : s.SameOutside t) : t.store.state = s.store.state := by rw [h.store]
theorem catalog (h : s.SameOutside t) : t.store.catalog = s.store.catalog := by rw [h.store]
theorem currentWaiters (h : s.SameOutside t) : t.store.currentWaiters = s.store.currentWaiters := by rw [h.store]
theorem nextWaiters (h : s.SameOutside t) : t.store.nextWaiters = s.store.nextWaiters := by rw [h.store]
theorem languageCount (h : s.SameOutside t) : t.languageCount = s.languageCount := by
  simp [State.languageCount, h.storeState, h.catalog]
theorem slots (h : s.SameOutside t) : t.display.slots = s.display.slots := by rw [h.display]
theorem frozen (h : s.SameOutside t) : t.display.frozen = s.display.frozen := by rw [h.display]
theorem transfer (h : s.SameOutside t) : t.display.transfer = s.display.transfer := by rw [h.display]
theorem frame (h : s.SameOutside t) : t.display.frame = s.display.frame := by rw [h.display]
theorem ringLevels (h : s.SameOutside t) : t.display.ringLevels = s.display.ringLevels := by rw [h.display]
theorem backlightLevel (h : s.SameOutside t) : t.display.backlightLevel = s.display.backlightLevel := by rw [h.display]
theorem generalLevel (h : s.SameOutside t) : t.display.generalLevel = s.display.generalLevel := by rw [h.display]
theorem lamps (h : s.SameOutside t) : t.display.lamps = s.display.lamps := by rw [h.display]

theorem asm (h : s.SameOutside t) (m : Side) : (t.link m).asm = (s.link m).asm := by
  obtain ⟨d, n, e, -⟩ := h.links m; rw [e]
theorem queue (h : s.SameOutside t) (m : Side) : (t.link m).queue = (s.link m).queue := by
  obtain ⟨d, n, e, -⟩ := h.links m; rw [e]
theorem inService (h : s.SameOutside t) (m : Side) : (t.link m).inService = (s.link m).inService := by
  obtain ⟨d, n, e, -⟩ := h.links m; rw [e]
theorem reply (h : s.SameOutside t) (m : Side) : (t.link m).reply = (s.link m).reply := by
  obtain ⟨d, n, e, -⟩ := h.links m; rw [e]
theorem inputs (h : s.SameOutside t) (m : Side) : (t.link m).inputs = (s.link m).inputs := by
  obtain ⟨d, n, e, -⟩ := h.links m; rw [e]
theorem tx (h : s.SameOutside t) (m : Side) : (t.link m).tx = (s.link m).tx := by
  obtain ⟨d, n, e, -⟩ := h.links m; rw [e]
theorem fault (h : s.SameOutside t) (m : Side) : (t.link m).fault = (s.link m).fault := by
  obtain ⟨d, n, e, -⟩ := h.links m; rw [e]
theorem causes (h : s.SameOutside t) (m : Side) : (t.link m).causes = (s.link m).causes := by
  obtain ⟨d, n, e, -⟩ := h.links m; rw [e]

/-! ### Primitive updates -/

/-- The one way to show `SameOutside` for a state that shares every field but the scheduler's own. -/
theorem of_parts (hnow : t.now = s.now) (hreset : t.resetHeld = s.resetHeld) (hpart : t.partState = s.partState)
    (hfocus : t.focus = s.focus) (hctx : t.ctx = s.ctx) (hlinks : t.links = s.links) (hmixer : t.mixer = s.mixer)
    (hpanel : t.panel = s.panel) (hpend : t.pending = s.pending)
    (hstore : t.store = { s.store with chanS := t.store.chanS, port := t.store.port })
    (hport : t.store.port = s.store.port ∨ (s.store.port = .s ∧ t.store.port = .idle))
    (hring : t.stream.ring = s.stream.ring ∨ t.stream.ring = []) (hpat : t.tone.patterns = s.tone.patterns)
    (hdisp : t.display = { s.display with
      ringEffect := t.display.ringEffect, backlight := t.display.backlight, idleTimer := t.display.idleTimer }) :
    s.SameOutside t :=
  ⟨hnow, hreset, hpart, hfocus, hctx, hmixer, hpanel, hpend, hstore, hport, hring, hpat, hdisp,
    fun m => ⟨[], (s.link m).nextOrder, by simp [State.link, hlinks], le_refl _, by simp⟩⟩

end State.SameOutside

open State.SameOutside

variable (s : State)

theorem State.onSched_frame (f : Sched → Sched) : s.SameOutside (s.onSched f) := by apply of_parts <;> simp
theorem State.setUtt_frame (u : Utterance) : s.SameOutside (s.setUtt u) := by apply of_parts <;> simp
theorem State.onStream_frame (f : Stream → Stream)
    (h : (f s.stream).ring = s.stream.ring ∨ (f s.stream).ring = []) : s.SameOutside (s.onStream f) := by
  apply of_parts <;> simp [h]
theorem State.onVoice_frame (v : Fin 4) (f : Voice → Voice) : s.SameOutside (s.onVoice v f) := by
  apply of_parts <;> simp [State.onVoice]

theorem State.setCue_frame (r : CueRef) (c : Option Cue) : s.SameOutside (s.setCue r c) := s.onSched_frame _
theorem State.modCue_frame (r : CueRef) (f : Cue → Cue) : s.SameOutside (s.modCue r f) := s.setCue_frame _ _
theorem State.setArb_frame : s.SameOutside s.setArb := s.onSched_frame _
theorem State.onPath_frame (f : Resource → Resource) : s.SameOutside (s.onPath f) := s.onSched_frame _
theorem State.onVoiceRes_frame (v : Fin 4) (f : Resource → Resource) : s.SameOutside (s.onVoiceRes v f) :=
  s.onSched_frame _
theorem State.dropReservations_frame (r : CueRef) : s.SameOutside (s.dropReservations r) := s.onSched_frame _
theorem State.endReservations_frame (r : CueRef) : s.SameOutside (s.endReservations r) := by
  unfold State.endReservations
  split
  · exact (s.dropReservations_frame r).trans (State.setArb_frame _)
  · exact s.dropReservations_frame r

theorem State.restartIdle_frame : s.SameOutside s.restartIdle := by apply of_parts <;> simp [State.restartIdle]
theorem State.stopIdle_frame : s.SameOutside s.stopIdle := by apply of_parts <;> simp [State.stopIdle]
theorem State.wakeBacklight_frame : s.SameOutside s.wakeBacklight := by apply of_parts <;> simp [State.wakeBacklight]
theorem State.chooseRing_frame : s.SameOutside s.chooseRing := by
  apply of_parts <;> simp [State.chooseRing]
  repeat' split
  all_goals rfl
theorem State.leftPlaying_frame : s.SameOutside s.leftPlaying := by
  unfold State.leftPlaying
  split
  · exact refl s
  · exact s.restartIdle_frame

theorem State.stopSpeech_frame : s.SameOutside s.stopSpeech := by
  apply of_parts <;> simp [State.stopSpeech, idleStream]
  by_cases h : s.store.port = .s <;> simp [h]
theorem Stream.takeUp_ring (st : Stream) (e : UttEntry) : (st.takeUp e).ring = st.ring := by cases e <;> rfl
theorem Stream.prime_ring (st : Stream) (es : List UttEntry) : (st.prime es).ring = st.ring := by
  unfold Stream.prime
  repeat' split
  all_goals simp [Stream.takeUp_ring]
theorem Stream.start_ring (st : Stream) (es : List UttEntry) : (st.start es).ring = st.ring := by
  simp [Stream.start, Stream.prime_ring]
theorem State.startSpeech_frame : s.SameOutside s.startSpeech := by
  apply of_parts <;> simp [State.startSpeech, Stream.start_ring]

theorem State.stopVoice_frame (v : Fin 4) : s.SameOutside (s.stopVoice v) := s.onVoice_frame _ _
theorem State.beginPattern_frame (v : Fin 4) (n : Fin 32) : s.SameOutside (s.beginPattern v n) := by
  unfold State.beginPattern
  split
  · exact s.onVoice_frame _ _
  · exact refl s

theorem State.joinDone_frame (m : Side) (uid id : Nat) (o : CueOutcome) (fl : CueFlags) (p : Nat) :
    s.SameOutside (s.onLink m fun l => l.joinDone uid id o fl p) where
  now := rfl
  resetHeld := rfl
  partState := rfl
  focus := rfl
  ctx := rfl
  mixer := rfl
  panel := rfl
  pending := rfl
  store := rfl
  port := .inl rfl
  ring := .inl rfl
  patterns := rfl
  display := rfl
  links n := by
    by_cases h : n = m
    · subst h
      exact ⟨_, _, by rw [State.link_onLink_same]; rfl, Nat.le_succ _, by simp⟩
    · exact ⟨[], (s.link n).nextOrder, by simp [State.link_onLink_of_ne _ _ h], le_refl _, by simp⟩

/-! ### The moves of a cue -/

theorem State.releaseHeld_frame (m : Side) : s.SameOutside (s.releaseHeld m) := by
  unfold State.releaseHeld
  dsimp only
  split
  · exact (State.onSched_frame _ _).trans (State.setArb_frame _)
  · exact State.onSched_frame _ _
theorem State.checkFences_frame (m : Side) : s.SameOutside (s.checkFences m) :=
  (s.onSched_frame _).trans (State.releaseHeld_frame _ m)
theorem State.enterReporting_frame (i : Fin 24) (o : CueOutcome) : s.SameOutside (s.enterReporting i o) := by
  unfold State.enterReporting
  split
  · exact refl s
  · have h := (s.setCue_frame (.slot i) (some (Cue.toReporting ‹Cue› o))).trans (State.endReservations_frame _ (.slot i))
    dsimp only
    split
    · exact (h.trans (State.joinDone_frame _ _ _ _ _ _ _)).trans (State.checkFences_frame _ _)
    · exact h
theorem State.enterEnding_frame (r : CueRef) (c : EndCause) : s.SameOutside (s.enterEnding r c) :=
  ((s.modCue_frame r _).trans (State.leftPlaying_frame _)).trans (State.chooseRing_frame _)
theorem State.freePath_frame (r : CueRef) : s.SameOutside (s.freePath r) := by
  unfold State.freePath
  split
  · exact (((s.onPath_frame _).trans (State.stopSpeech_frame _)).trans (State.setUtt_frame _ _)).trans
      (State.setArb_frame _)
  · exact refl s
theorem State.freeVoice_frame (r : CueRef) : s.SameOutside (s.freeVoice r) := by
  unfold State.freeVoice
  split
  · exact refl s
  · exact ((s.onVoiceRes_frame _ _).trans (State.stopVoice_frame _ _)).trans (State.setArb_frame _)
theorem State.freeResources_frame (r : CueRef) : s.SameOutside (s.freeResources r) :=
  (s.freePath_frame r).trans (State.freeVoice_frame _ r)
theorem State.endGap_frame (i : Fin 24) : s.SameOutside (s.endGap i) := by
  unfold State.endGap
  split
  · exact refl s
  · split
    · exact s.enterReporting_frame _ _
    · exact (s.setCue_frame _ _).trans (State.setArb_frame _)
theorem State.enterGap_frame (i : Fin 24) (c : Cue) : s.SameOutside (s.enterGap i c) := by
  unfold State.enterGap
  dsimp only
  split
  · exact (s.setCue_frame _ _).trans (State.endGap_frame _ _)
  · exact s.setCue_frame _ _
theorem State.endOfPlay_frame (r : CueRef) : s.SameOutside (s.endOfPlay r) := by
  unfold State.endOfPlay
  split
  · exact refl s
  · refine State.SameOutside.trans ?_ ((State.leftPlaying_frame _).trans (State.chooseRing_frame _))
    refine (s.freeResources_frame r).trans ?_
    split
    · split
      · exact State.enterGap_frame _ _ _
      · exact State.enterReporting_frame _ _ _
    · exact State.setCue_frame _ _ _
    · exact State.setCue_frame _ _ _
theorem State.fadeResult_frame (r : CueRef) (c : Cue) : s.SameOutside (s.fadeResult r c) := by
  unfold State.fadeResult
  repeat' split
  all_goals first
    | exact s.setCue_frame _ _
    | exact s.enterReporting_frame _ _
    | exact (s.setCue_frame _ _).trans (State.setArb_frame _)
theorem State.endFade_frame (r : CueRef) : s.SameOutside (s.endFade r) := by
  unfold State.endFade
  split
  · exact refl s
  · exact ((s.freeResources_frame r).trans (State.fadeResult_frame _ r _)).trans (State.chooseRing_frame _)

theorem State.beginTone_frame (r : CueRef) : s.SameOutside (s.beginTone r) := by
  unfold State.beginTone
  repeat' split
  all_goals first
    | exact refl s
    | exact s.beginPattern_frame _ _
theorem State.utteranceEnded_frame (r : CueRef) : s.SameOutside (s.utteranceEnded r) := by
  unfold State.utteranceEnded
  repeat' split
  all_goals first
    | exact refl s
    | exact s.endOfPlay_frame _
    | exact s.modCue_frame _ _
    | exact ((s.modCue_frame _ _).trans (State.stopSpeech_frame _)).trans (State.beginTone_frame _ _)
theorem State.beginUtterance_frame (r : CueRef) : s.SameOutside (s.beginUtterance r) := by
  unfold State.beginUtterance
  split
  · exact s.utteranceEnded_frame r
  · exact s.startSpeech_frame
theorem State.patternEnded_frame (r : CueRef) : s.SameOutside (s.patternEnded r) := by
  unfold State.patternEnded
  repeat' split
  all_goals first
    | exact refl s
    | exact s.endOfPlay_frame _
    | exact (s.modCue_frame _ _).trans (State.beginUtterance_frame _ _)
    | exact s.modCue_frame _ _
theorem State.holdEnded_frame (r : CueRef) : s.SameOutside (s.holdEnded r) := by
  unfold State.holdEnded
  repeat' split
  all_goals first
    | exact refl s
    | exact s.endOfPlay_frame _

/-! ### Starts and arbitrations -/

theorem State.markTableCue_frame (r : CueRef) (f : Cue → Cue) : s.SameOutside (s.markTableCue r f) := by
  unfold State.markTableCue
  split
  · exact s.modCue_frame _ _
  · exact refl s
theorem State.assembleFor_frame (r : CueRef) (c : Cue) : s.SameOutside (s.assembleFor r c) := by
  unfold State.assembleFor
  dsimp only
  split
  · exact (s.setUtt_frame _).trans (State.markTableCue_frame _ _ _)
  · exact s.setUtt_frame _
theorem State.beginFirstPhase_frame (r : CueRef) (c : Cue) : s.SameOutside (s.beginFirstPhase r c) := by
  have h : s.SameOutside (match c.timing? with
      | some .after => s
      | _ => if c.tone.isSome then s.beginTone r else s) := by
    repeat' split
    all_goals first
      | exact refl s
      | exact s.beginTone_frame r
  unfold State.beginFirstPhase
  dsimp only
  split
  · exact h.trans (State.beginUtterance_frame _ _)
  · exact h
theorem State.startCue_frame (r : CueRef) (v : Option (Fin 4)) : s.SameOutside (s.startCue r v) := by
  unfold State.startCue
  split
  · exact refl s
  · dsimp only
    refine State.SameOutside.trans ?_ (State.beginFirstPhase_frame _ _ _)
    refine State.SameOutside.trans ?_ (State.chooseRing_frame _)
    refine State.SameOutside.trans ?_ (State.stopIdle_frame _)
    refine State.SameOutside.trans ?_ (State.wakeBacklight_frame _)
    have hp : ∀ (t : State) (p : Prop) [Decidable p] (f : Resource → Resource),
        t.SameOutside (if p then t.onPath f else t) := by
      intro t p _ f
      split
      · exact t.onPath_frame f
      · exact refl t
    have hv : ∀ (t : State), t.SameOutside (match v with
        | some v => t.onVoiceRes v fun x => { x with holder := some r }
        | none => t) := by
      intro t
      split
      · exact t.onVoiceRes_frame _ _
      · exact refl t
    have ha : ∀ (t : State) (p : Prop) [Decidable p] (c : Cue), t.SameOutside (if p then t.assembleFor r c else t) := by
      intro t p _ c
      split
      · exact t.assembleFor_frame r c
      · exact refl t
    refine State.SameOutside.trans ?_ (ha _ _ _)
    refine State.SameOutside.trans ?_ (State.onSched_frame _ _)
    refine State.SameOutside.trans ?_ (State.dropReservations_frame _ _)
    exact (hp s _ _).trans (hv _)

theorem State.supersede_frame (r : CueRef) : s.SameOutside (s.supersede r) := by
  unfold State.supersede
  repeat' split
  all_goals first
    | exact refl s
    | exact s.enterEnding_frame _ _
theorem State.setNarration_frame (items : List PhraseItem) : s.SameOutside (s.setNarration items) :=
  (((s.endReservations_frame _).trans (State.onSched_frame _ _)).trans (State.supersede_frame _ _)).trans
    (State.setArb_frame _)
theorem State.setFeedback_frame (p : Fin 32) : s.SameOutside (s.setFeedback p) :=
  ((s.onSched_frame _).trans (State.supersede_frame _ _)).trans (State.setArb_frame _)

theorem State.preemptVictim_frame (h : CueRef) : s.SameOutside (s.preemptVictim h) := by
  unfold State.preemptVictim
  split
  · exact refl s
  · exact (s.setCue_frame _ _).trans (State.enterEnding_frame _ _ _)

/-- A fold of operations that each keep the frame keeps it. -/
theorem State.foldl_frame {α : Type} (f : State → α → State) (hf : ∀ (t : State) a, t.SameOutside (f t a)) (l : List α) (s : State) :
    s.SameOutside (l.foldl f s) := by
  induction l generalizing s with
  | nil => exact refl s
  | cons a l ih => exact (hf s a).trans (ih _)

theorem State.preempt_frame (r : CueRef) (p v : Judgement) : s.SameOutside (s.preempt r p v) := by
  have h2 : ∀ t : State, t.SameOutside (match p with
      | .notNeeded => t
      | _ => t.onPath fun x => { x with reservation := some r }) := by
    intro t
    split
    · exact refl t
    · exact t.onPath_frame _
  have h := (State.foldl_frame State.preemptVictim State.preemptVictim_frame
    (p.victim?.toList ++ v.victim?.toList).dedup s).trans (h2 _)
  unfold State.preempt
  dsimp only
  split
  · exact h.trans (State.onVoiceRes_frame _ _ _)
  · exact h
theorem State.serve_frame (r : CueRef) : s.SameOutside (s.serve r) := by
  unfold State.serve
  split
  · exact refl s
  · split
    · dsimp only
      split
      · exact refl s
      · split
        · exact s.preempt_frame _ _ _
        · exact s.startCue_frame _ _
    · exact refl s
theorem State.serveFeedback_frame : s.SameOutside s.serveFeedback := by
  unfold State.serveFeedback
  split
  · exact s.startCue_frame _ _
  · exact refl s
theorem State.arbitrate_frame : s.SameOutside s.arbitrate :=
  (State.foldl_frame State.serve State.serve_frame _ s).trans (State.serveFeedback_frame _)
theorem State.arbitrateFor_frame (n : Nat) : s.SameOutside (State.arbitrateFor n s) := by
  induction n generalizing s with
  | zero => exact s.onSched_frame _
  | succ n ih =>
    unfold State.arbitrateFor
    split
    · exact ((s.onSched_frame _).trans (State.arbitrate_frame _)).trans (ih _)
    · exact refl s
theorem State.settleArb_frame : s.SameOutside s.settleArb := s.arbitrateFor_frame _

/-! ### Lifetimes, cancels, fades -/

theorem State.deadlinePasses_frame (i : Fin 24) : s.SameOutside (s.deadlinePasses i) := by
  unfold State.deadlinePasses
  repeat' split
  all_goals first
    | exact refl s
    | exact s.enterReporting_frame _ _
    | exact s.setCue_frame _ _
theorem State.cancelCue_frame (i : Fin 24) : s.SameOutside (s.cancelCue i) := by
  unfold State.cancelCue
  repeat' split
  all_goals first
    | exact refl s
    | exact s.enterReporting_frame _ _
    | exact s.enterEnding_frame _ _
    | exact s.setCue_frame _ _
theorem State.purgeCue_frame (m : Side) (i : Fin 24) : s.SameOutside (s.purgeCue m i) := by
  unfold State.purgeCue
  repeat' split
  all_goals first
    | exact refl s
    | exact (s.setCue_frame _ _).trans (State.endReservations_frame _ _)
    | exact s.enterEnding_frame _ _
    | exact s.setCue_frame _ _
theorem State.purge_frame (m : Side) : s.SameOutside (s.purge m) :=
  (State.foldl_frame _ (fun (t : State) i => t.purgeCue_frame m i) _ s).trans (State.onSched_frame _ _)
theorem State.fadeExpiry_frame (r : CueRef) : s.SameOutside (s.fadeExpiry r) := by
  unfold State.fadeExpiry
  repeat' split
  all_goals first
    | exact refl s
    | exact s.endFade_frame _
    | exact s.setCue_frame _ _

end Sys2Proof.Machine
end

