-- ==== Sys2Proof/Laws/Cues.lean ====
section
/-! SUPPORT. What an arbitration leaves of the cue table, said once: `State.SameCues`. It fills and empties no slot, changes no posted
field, and does not touch a cue in GAP, ENDING or REPORTING. -/

namespace Sys2Proof.Machine

/-- The fields an operation of playback never changes (R37): the posted ones, the deadline's and the serial. No cue is purged or HELD
that was not. -/
def Cue.SamePost (c d : Cue) : Prop :=
  d = { c with state := d.state, phase := d.phase, preempts := d.preempts, repeatsLeft := d.repeatsLeft, flags := d.flags,
               endCause := d.endCause, outcome := d.outcome, latestStart := d.latestStart, speechPlays := d.speechPlays,
               utteranceEnded := d.utteranceEnded, patternEnded := d.patternEnded, holdTimer := d.holdTimer,
               gapTimer := d.gapTimer, fade := d.fade } ∧ (d.purged = true → c.purged = true) ∧ (d.state = .held → c.state = .held)

/-- In GAP, ENDING or REPORTING: no candidate and no victim. -/
def Cue.asleep (c : Cue) : Prop := c.state = .gap ∨ c.state = .ending ∨ c.state = .reporting

/-- The same cue for an arbitration. -/
def Cue.Kept (c d : Cue) : Prop := c.SamePost d ∧ (c.asleep → d = c)

theorem Cue.SamePost.refl (c : Cue) : c.SamePost c := ⟨rfl, fun h => h, fun h => h⟩
theorem Cue.SamePost.trans {c d e : Cue} (h : c.SamePost d) (k : d.SamePost e) : c.SamePost e :=
  ⟨by rw [k.1, h.1], fun x => h.2.1 (k.2.1 x), fun x => h.2.2 (k.2.2 x)⟩
theorem Cue.Kept.refl (c : Cue) : c.Kept c := ⟨.refl c, fun _ => rfl⟩
theorem Cue.Kept.trans {c d e : Cue} (h : c.Kept d) (k : d.Kept e) : c.Kept e :=
  ⟨h.1.trans k.1, fun x => by
    have hd := h.2 x
    rw [k.2 (hd ▸ x), hd]⟩

/-- Two slots related by `R`: both free, or both occupied by related cues. -/
def SlotRel (R : Cue → Cue → Prop) : Option Cue → Option Cue → Prop
  | none, none => True
  | some c, some d => R c d
  | _, _ => False

/-- Every slot but the one `r` names keeps its cue; that one keeps its posted fields. -/
def State.SameCuesBut (r : CueRef) (s t : State) : Prop :=
  ∀ i : Fin 24, SlotRel (if r = .slot i then Cue.SamePost else Cue.Kept) s.sched.table[i] t.sched.table[i]

/-- Every slot keeps its cue. -/
def State.SameCues (s t : State) : Prop := ∀ i : Fin 24, SlotRel Cue.Kept s.sched.table[i] t.sched.table[i]

theorem SlotRel.of_eq {R : Cue → Cue → Prop} (hR : ∀ c, R c c) {a b : Option Cue} (h : b = a) : SlotRel R a b := by
  subst h; cases b <;> simp [SlotRel, hR]
theorem SlotRel.trans {R : Cue → Cue → Prop} (hR : ∀ c d e, R c d → R d e → R c e) {a b c : Option Cue}
    (h : SlotRel R a b) (k : SlotRel R b c) : SlotRel R a c := by
  cases a <;> cases b <;> cases c <;> simp only [SlotRel] at *
  exact hR _ _ _ h k

namespace State.SameCues

variable {s t u : State}

theorem of_table (h : t.sched.table = s.sched.table) : s.SameCues t := fun i => .of_eq Cue.Kept.refl (by rw [h])
theorem refl (s : State) : s.SameCues s := of_table rfl
theorem trans (h : s.SameCues t) (k : t.SameCues u) : s.SameCues u := fun i => SlotRel.trans (R := Cue.Kept) (fun _ _ _ => Cue.Kept.trans) (h i) (k i)

theorem but (h : s.SameCues t) (r : CueRef) : s.SameCuesBut r t := by
  intro i
  have := h i
  split
  · revert this
    cases s.sched.table[i] <;> cases t.sched.table[i] <;> simp [SlotRel]
    exact fun x => x.1
  · exact this

end State.SameCues

namespace State.SameCuesBut

variable {s t u : State} {r : CueRef}

theorem refl (r : CueRef) (s : State) : s.SameCuesBut r s := (State.SameCues.refl s).but r
theorem trans (h : s.SameCuesBut r t) (k : t.SameCuesBut r u) : s.SameCuesBut r u := by
  intro i
  have h1 := h i
  have k1 := k i
  split
  · rename_i e
    rw [if_pos e] at h1 k1
    exact SlotRel.trans (R := Cue.SamePost) (fun _ _ _ => Cue.SamePost.trans) h1 k1
  · rename_i e
    rw [if_neg e] at h1 k1
    exact SlotRel.trans (R := Cue.Kept) (fun _ _ _ => Cue.Kept.trans) h1 k1

/-- When the cue `r` names was awake, nothing more than `SameCues` is lost. -/
theorem all (h : s.SameCuesBut r t) (hr : ∀ i c, r = .slot i → s.sched.table[i] = some c → ¬ c.asleep) :
    s.SameCues t := by
  intro i
  have h1 := h i
  by_cases e : r = .slot i
  · rw [if_pos e] at h1
    revert h1
    cases hc : s.sched.table[i] with
    | none => cases t.sched.table[i] <;> simp [SlotRel]
    | some c =>
      cases t.sched.table[i] <;> simp [SlotRel]
      exact fun x => ⟨x, fun y => absurd y (hr i c e hc)⟩
  · rwa [if_neg e] at h1

end State.SameCuesBut

variable (s : State)

/-! ### Updates of the table -/

theorem Sched.setCue_table (sc : Sched) (r : CueRef) (c : Option Cue) (i : Fin 24) :
    (sc.setCue r c).table[i] = if r = .slot i then c else sc.table[i] := by
  cases r with
  | slot j =>
    by_cases h : j = i
    · subst h
      simp [Sched.setCue]
    · have : j.val ≠ i.val := fun e => h (Fin.ext e)
      simp [Sched.setCue, h, Vector.getElem_set_ne, this]
  | narration => simp [Sched.setCue]
  | feedback => simp [Sched.setCue]

theorem State.setCue_table (r : CueRef) (c : Option Cue) (i : Fin 24) :
    (s.setCue r c).sched.table[i] = if r = .slot i then c else s.sched.table[i] := Sched.setCue_table _ _ _ _

/-- Replacing the cue `r` names by one with the same posted fields. -/
theorem State.setCue_but (r : CueRef) (d : Cue) (h : ∀ i, r = .slot i → ∃ c, s.sched.table[i] = some c ∧ c.SamePost d) :
    s.SameCuesBut r (s.setCue r (some d)) := by
  intro i
  rw [State.setCue_table]
  split
  · rename_i e
    obtain ⟨c, hc, hp⟩ := h i e
    rw [hc]
    exact hp
  · exact .of_eq Cue.Kept.refl rfl

theorem State.cue?_slot (i : Fin 24) : s.cue? (.slot i) = s.sched.table[i] := rfl

theorem State.modCue_but (r : CueRef) (f : Cue → Cue) (h : ∀ c : Cue, c.SamePost (f c)) : s.SameCuesBut r (s.modCue r f) := by
  unfold State.modCue
  cases hc : s.cue? r with
  | none =>
    intro i
    rw [Option.map_none, State.setCue_table]
    split
    · rename_i e
      subst e
      have hc' : s.sched.table[i] = none := hc
      simp [hc', SlotRel]
    · exact .of_eq Cue.Kept.refl rfl
  | some c =>
    refine s.setCue_but r _ fun i e => ⟨c, ?_, h c⟩
    subst e
    exact hc

theorem State.setArb_cues : s.SameCues s.setArb := .of_table rfl
theorem State.dropReservations_cues (r : CueRef) : s.SameCues (s.dropReservations r) := .of_table rfl
theorem State.endReservations_cues (r : CueRef) : s.SameCues (s.endReservations r) := by
  unfold State.endReservations
  split <;> exact .of_table rfl
theorem State.leftPlaying_cues : s.SameCues s.leftPlaying := by
  unfold State.leftPlaying
  split <;> exact .of_table rfl
theorem State.chooseRing_cues : s.SameCues s.chooseRing := .of_table rfl
theorem State.freePath_cues (r : CueRef) : s.SameCues (s.freePath r) := by
  unfold State.freePath
  split <;> exact .of_table rfl
theorem State.freeVoice_cues (r : CueRef) : s.SameCues (s.freeVoice r) := by
  unfold State.freeVoice
  split <;> exact .of_table rfl
theorem State.freeResources_cues (r : CueRef) : s.SameCues (s.freeResources r) :=
  (s.freePath_cues r).trans (State.freeVoice_cues _ r)
theorem State.beginTone_cues (r : CueRef) : s.SameCues (s.beginTone r) := by
  unfold State.beginTone State.beginPattern
  repeat' split
  all_goals exact .of_table rfl
theorem State.startSpeech_cues : s.SameCues s.startSpeech := .of_table rfl
theorem State.stopSpeech_cues : s.SameCues s.stopSpeech := .of_table rfl

/-! ### Fences and REPORTING -/

theorem State.releaseHeld_cues (m : Side) : s.SameCues (s.releaseHeld m) := by
  have h : s.SameCues (s.onSched fun sc =>
      { sc with table := Vector.ofFn fun i =>
          (sc.table[i]).map fun c => if s.released m c then { c with state := .waiting } else c }) := by
    intro i
    simp only [State.onSched_sched, Fin.getElem_fin, Vector.getElem_ofFn]
    cases hc : s.sched.table[i.val] with
    | none => simp [SlotRel]
    | some c =>
      simp only [Option.map_some, SlotRel]
      split
      · rename_i hr
        have : c.state = .held := by
          simp [State.released] at hr
          exact hr.1.1
        refine ⟨⟨rfl, ?_⟩, ?_⟩
        · simp [Cue.purged]
        · simp [Cue.asleep, this]
      · exact Cue.Kept.refl c
  unfold State.releaseHeld
  dsimp only
  split
  · exact h.trans (State.setArb_cues _)
  · exact h
theorem State.checkFences_cues (m : Side) : s.SameCues (s.checkFences m) := by
  unfold State.checkFences
  refine State.SameCues.trans ?_ (State.releaseHeld_cues _ m)
  exact .of_table rfl
theorem State.onLink_cues (m : Side) (f : Link → Link) : s.SameCues (s.onLink m f) := .of_table rfl

theorem Cue.toReporting_post (c : Cue) (o : CueOutcome) : c.SamePost (c.toReporting o) := ⟨rfl, by
  simp [Cue.toReporting, Cue.purged]⟩
theorem Cue.toEnding_post (c : Cue) (e : EndCause) (now : Nat) (h : e ≠ .purged) : c.SamePost (c.toEnding e now) := ⟨rfl, by
  simp [Cue.toEnding, Cue.purged, h]⟩

theorem State.enterReporting_but (i : Fin 24) (o : CueOutcome) : s.SameCuesBut (.slot i) (s.enterReporting i o) := by
  unfold State.enterReporting
  split
  · exact .refl _ s
  · rename_i c hc
    have h := (s.setCue_but (.slot i) (c.toReporting o) (fun j e => by
      cases e
      exact ⟨c, hc, c.toReporting_post o⟩)).trans ((State.endReservations_cues _ (.slot i)).but _)
    dsimp only
    split
    · exact h.trans (State.SameCues.but ((State.onLink_cues _ _ _).trans (State.checkFences_cues _ _)) _)
    · exact h

theorem State.enterEnding_but (r : CueRef) (e : EndCause) (h : e ≠ .purged) : s.SameCuesBut r (s.enterEnding r e) :=
  (s.modCue_but r _ fun c => c.toEnding_post e s.now h).trans
    (((State.leftPlaying_cues _).trans (State.chooseRing_cues _)).but r)

theorem State.endGap_but (i : Fin 24) : s.SameCuesBut (.slot i) (s.endGap i) := by
  unfold State.endGap
  split
  · exact .refl _ s
  · rename_i c hc
    split
    · exact s.enterReporting_but i _
    · refine (s.setCue_but _ _ fun j e => ?_).trans ((State.setArb_cues _).but _)
      cases e
      exact ⟨c, hc, rfl, by simp [Cue.purged]⟩

theorem State.enterGap_but (i : Fin 24) (c : Cue) (h : ∀ d, s.sched.table[i] = some d → d.SamePost c)
    (hs : s.sched.table[i] ≠ none) : s.SameCuesBut (.slot i) (s.enterGap i c) := by
  unfold State.enterGap
  obtain ⟨d, hd⟩ := Option.ne_none_iff_exists'.mp hs
  dsimp only
  split
  · refine (s.setCue_but _ _ fun j e => ?_).trans (State.endGap_but _ i)
    cases e
    exact ⟨d, hd, (h d hd).trans ⟨rfl, by simp [Cue.purged]⟩⟩
  · refine s.setCue_but _ _ fun j e => ?_
    cases e
    exact ⟨d, hd, (h d hd).trans ⟨rfl, by simp [Cue.purged]⟩⟩

theorem State.freeResources_table (r : CueRef) : (s.freeResources r).sched.table = s.sched.table := by
  have hp : ∀ t : State, (t.freePath r).sched.table = t.sched.table := by
    intro t
    unfold State.freePath
    split <;> rfl
  have hv : ∀ t : State, (t.freeVoice r).sched.table = t.sched.table := by
    intro t
    unfold State.freeVoice
    split <;> rfl
  exact (hv _).trans (hp s)

theorem State.endOfPlay_but (r : CueRef) : s.SameCuesBut r (s.endOfPlay r) := by
  unfold State.endOfPlay
  split
  · exact .refl _ s
  · rename_i c hc
    refine State.SameCuesBut.trans ?_ (State.SameCues.but ((State.leftPlaying_cues _).trans (State.chooseRing_cues _)) r)
    refine ((s.freeResources_cues r).but r).trans ?_
    split
    · rename_i i
      have ht : (s.freeResources (.slot i)).sched.table[i] = some c := by
        rw [State.freeResources_table]
        exact hc
      split
      · exact State.enterGap_but _ i c (fun d hd => by rw [ht] at hd; cases hd; exact .refl c) (by simp [ht])
      · exact State.enterReporting_but _ i _
    · exact State.SameCues.but (.of_table rfl) _
    · exact State.SameCues.but (.of_table rfl) _

/-! ### Playback and starts -/

theorem State.utteranceEnded_but (r : CueRef) : s.SameCuesBut r (s.utteranceEnded r) := by
  unfold State.utteranceEnded
  repeat' split
  all_goals first
    | exact .refl r s
    | exact s.endOfPlay_but r
    | exact s.modCue_but r _ (fun _ => by exact ⟨rfl, fun h => h, fun h => h⟩)
    | exact (s.modCue_but r _ (fun _ => by exact ⟨rfl, fun h => h, fun h => h⟩)).trans
        (((State.stopSpeech_cues _).trans (State.beginTone_cues _ r)).but r)
theorem State.beginUtterance_but (r : CueRef) : s.SameCuesBut r (s.beginUtterance r) := by
  unfold State.beginUtterance
  split
  · exact s.utteranceEnded_but r
  · exact (s.startSpeech_cues).but r
theorem State.patternEnded_but (r : CueRef) : s.SameCuesBut r (s.patternEnded r) := by
  unfold State.patternEnded
  repeat' split
  all_goals first
    | exact .refl r s
    | exact s.endOfPlay_but r
    | exact (s.modCue_but r _ (fun _ => by exact ⟨rfl, fun h => h, fun h => h⟩)).trans (State.beginUtterance_but _ r)
    | exact s.modCue_but r _ (fun _ => by exact ⟨rfl, fun h => h, fun h => h⟩)
theorem State.markTableCue_but (r : CueRef) (f : Cue → Cue) (h : ∀ c : Cue, c.SamePost (f c)) :
    s.SameCuesBut r (s.markTableCue r f) := by
  unfold State.markTableCue
  split
  · exact s.modCue_but _ f h
  · exact .refl _ s
theorem State.assembleFor_but (r : CueRef) (c : Cue) : s.SameCuesBut r (s.assembleFor r c) := by
  unfold State.assembleFor
  dsimp only
  split
  · refine State.SameCuesBut.trans ?_ (State.markTableCue_but _ r Cue.markPartial fun _ => ⟨rfl, fun h => h, fun h => h⟩)
    exact State.SameCues.but (.of_table rfl) r
  · exact State.SameCues.but (.of_table rfl) r
theorem State.beginFirstPhase_but (r : CueRef) (c : Cue) : s.SameCuesBut r (s.beginFirstPhase r c) := by
  have h : s.SameCues (match c.timing? with
      | some .after => s
      | _ => if c.tone.isSome then s.beginTone r else s) := by
    repeat' split
    all_goals first
      | exact .refl s
      | exact s.beginTone_cues r
  unfold State.beginFirstPhase
  dsimp only
  split
  · exact (h.but r).trans (State.beginUtterance_but _ _)
  · exact h.but r

theorem Cue.started_post (c : Cue) (b : Bool) (n now : Nat) : c.SamePost (c.started b n now) := by
  unfold Cue.started
  dsimp only
  split <;> refine ⟨rfl, ?_⟩ <;> simp [Cue.purged, Cue.markPartial]

theorem Sched.serveMarker_table (sc : Sched) (c : Cue) : (sc.serveMarker c).table = sc.table := by
  unfold Sched.serveMarker
  repeat' split
  all_goals rfl

/-- A started cue takes its place: the others keep theirs. -/
theorem State.placeStarted_but {s t : State} (ht : t.sched.table = s.sched.table) {r : CueRef} {c : Cue}
    (hc : s.candidate? r = some c) (d : Cue) (h : c.SamePost d) (n : Nat) :
    s.SameCuesBut r (t.onSched fun sc => { (sc.serveMarker c).placeStarted r d with nextStart := n }) := by
  intro i
  rw [State.onSched_sched]
  cases r with
  | slot j =>
    by_cases e : j = i
    · subst e
      have hc' : s.sched.table[j.val] = some c := hc
      simp only [Sched.placeStarted, Fin.getElem_fin, Vector.getElem_set_self, if_true, hc']
      exact h
    · have hne : j.val ≠ i.val := fun x => e (Fin.ext x)
      have hne' : (CueRef.slot j = CueRef.slot i) ↔ False := by simp [e]
      have hs : ((t.sched.serveMarker c).table.set j (some d))[i.val] = s.sched.table[i.val] := by
        rw [Vector.getElem_set_ne _ _ hne]
        simp only [Sched.serveMarker_table, ht]
      simp only [Sched.placeStarted, Fin.getElem_fin, hne', if_false]
      exact .of_eq Cue.Kept.refl hs
  | narration =>
    simp only [Sched.placeStarted, Sched.serveMarker_table, ht]
    exact .of_eq Cue.Kept.refl rfl
  | feedback =>
    simp only [Sched.placeStarted, Sched.serveMarker_table, ht]
    exact .of_eq Cue.Kept.refl rfl

/-- A start touches only the slot of the cue that starts. -/
theorem State.startCue_but (r : CueRef) (v : Option (Fin 4)) : s.SameCuesBut r (s.startCue r v) := by
  unfold State.startCue
  split
  · exact .refl r s
  · rename_i c hc
    dsimp only
    refine State.SameCuesBut.trans ?_ (State.beginFirstPhase_but _ r _)
    refine State.SameCuesBut.trans ?_ (State.SameCues.but (State.SameCues.of_table rfl) r)
    have ha : ∀ (t : State) (p : Prop) [Decidable p] (c : Cue),
        t.SameCuesBut r (if p then t.assembleFor r c else t) := by
      intro t p _ c
      split
      · exact t.assembleFor_but r c
      · exact .refl r t
    refine State.SameCuesBut.trans ?_ (ha _ _ _)
    refine State.placeStarted_but ?_ hc _ (c.started_post _ _ _) _
    repeat' split
    all_goals rfl

/-! ### Arbitrations -/

/-- The cue a served reference names is awake. -/
theorem State.startCue_cues (r : CueRef) (v : Option (Fin 4)) (h : ∀ c, s.candidate? r = some c → c.state = .waiting) :
    s.SameCues (s.startCue r v) :=
  (s.startCue_but r v).all fun i c e hc => by
    subst e
    have := h c hc
    simp [Cue.asleep, this]

theorem State.cue?_of_cues {s t : State} (h : s.SameCues t) (i : Fin 24) (c : Cue) (hc : s.cue? (.slot i) = some c) :
    ∃ d, t.cue? (.slot i) = some d ∧ c.Kept d := by
  have h1 := h i
  rw [State.cue?_slot] at hc
  rw [hc] at h1
  rw [State.cue?_slot]
  cases hd : t.sched.table[i] with
  | none => simp [hd, SlotRel] at h1
  | some d => exact ⟨d, rfl, by simpa [hd, SlotRel] using h1⟩

theorem victimCause_ne_purged (c : Cue) : victimCause c ≠ .purged := by
  unfold victimCause
  repeat' split
  all_goals simp

/-- A preempted victim is awake: it was PLAYING (R64, R65). -/
theorem State.preemptVictim_but (h : CueRef) : s.SameCuesBut h (s.preemptVictim h) := by
  unfold State.preemptVictim
  split
  · exact .refl h s
  · rename_i c hc
    refine State.SameCuesBut.trans ?_ (State.enterEnding_but _ h _ (victimCause_ne_purged _))
    refine s.setCue_but h _ fun i e => ⟨c, ?_, ?_⟩
    · subst e
      exact hc
    · split
      · exact ⟨rfl, fun x => x, fun x => x⟩
      · exact .refl c

theorem State.leftPlaying_table : s.leftPlaying.sched = s.sched := by
  unfold State.leftPlaying
  split <;> rfl
theorem State.chooseRing_sched : s.chooseRing.sched = s.sched := rfl

/-- Entering ENDING touches no other slot. -/
theorem State.enterEnding_table (r : CueRef) (e : EndCause) (i : Fin 24) (h : r ≠ .slot i) :
    (s.enterEnding r e).sched.table[i] = s.sched.table[i] := by
  unfold State.enterEnding State.modCue
  rw [State.chooseRing_sched, State.leftPlaying_table, State.setCue_table, if_neg h]

theorem State.preemptVictim_table (r : CueRef) (i : Fin 24) (h : r ≠ .slot i) :
    (s.preemptVictim r).sched.table[i] = s.sched.table[i] := by
  unfold State.preemptVictim
  split
  · rfl
  · rw [State.enterEnding_table _ _ _ _ h, State.setCue_table, if_neg h]

/-- A list of distinct victims that are all awake. -/
theorem State.preemptVictims_cues (l : List CueRef) (hn : l.Nodup) (s : State)
    (h : ∀ r ∈ l, ∀ c, s.cue? r = some c → ¬ c.asleep) : s.SameCues (l.foldl State.preemptVictim s) := by
  induction l generalizing s with
  | nil => exact .refl s
  | cons r l ih =>
    rw [List.foldl_cons]
    have h1 : s.SameCues (s.preemptVictim r) := (s.preemptVictim_but r).all fun i c e hc => by
      subst e
      exact h (.slot i) (by simp) c hc
    have hr : r ∉ l := by
      intro x
      simp [x] at hn
    refine h1.trans (ih (List.nodup_cons.mp hn).2 _ fun q hq c hc => ?_)
    have hqr : r ≠ q := fun e => hr (e ▸ hq)
    cases q with
    | slot i =>
      rw [State.cue?_slot, State.preemptVictim_table s r i hqr] at hc
      exact h (.slot i) (by simp [hq]) c hc
    | narration =>
      refine h .narration (by simp [hq]) c ?_
      rw [← hc]
      symm
      unfold State.preemptVictim State.enterEnding State.modCue
      cases r with
      | narration => exact absurd rfl hqr
      | feedback =>
        split
        · rfl
        · simp only [State.cue?, State.chooseRing_sched, State.leftPlaying_table]
          rfl
      | slot j =>
        split
        · rfl
        · simp only [State.cue?, State.chooseRing_sched, State.leftPlaying_table]
          rfl
    | feedback =>
      refine h .feedback (by simp [hq]) c ?_
      rw [← hc]
      symm
      unfold State.preemptVictim State.enterEnding State.modCue
      cases r with
      | feedback => exact absurd rfl hqr
      | narration =>
        split
        · rfl
        · simp only [State.cue?, State.chooseRing_sched, State.leftPlaying_table]
          rfl
      | slot j =>
        split
        · rfl
        · simp only [State.cue?, State.chooseRing_sched, State.leftPlaying_table]
          rfl

/-- The victim of a judged speech path is PLAYING (R64). -/
theorem State.judgePath_victim (r : CueRef) (c : Cue) (h : CueRef) (hv : (s.judgePath r c).victim? = some h) :
    ∃ x, s.cue? h = some x ∧ x.state = .playing := by
  unfold State.judgePath at hv
  split at hv
  · simp [Judgement.victim?] at hv
  · split at hv
    · split at hv <;> simp [Judgement.victim?] at hv
    · split at hv
      · simp [Judgement.victim?] at hv
      · rename_i x hx
        split at hv
        · rename_i hp
          simp [Judgement.victim?] at hv
          subst hv
          exact ⟨x, hx, hp.1⟩
        · simp [Judgement.victim?] at hv

theorem State.victimVoices_playing (x : Fin 4 × CueRef × Cue) (h : x ∈ s.victimVoices) :
    x.1 ∈ tableVoices ∧ s.cue? x.2.1 = some x.2.2 ∧ x.2.2.state = .playing ∧
      (s.sched.voices[x.1]).holder = some x.2.1 := by
  unfold State.victimVoices at h
  simp only [List.mem_filterMap] at h
  obtain ⟨v, hv, hx⟩ := h
  split at hx
  · rename_i h0 hh0
    split at hx
    · rename_i y hy
      split at hx
      · rename_i hp
        cases hx
        exact ⟨hv, hy, hp, hh0⟩
      · simp at hx
    · simp at hx
  · simp at hx

theorem foldl_pick_mem {α : Type} (f : α → α → Bool) (x : α) (l : List α) :
    l.foldl (fun best y => if f y best then y else best) x ∈ x :: l := by
  induction l generalizing x with
  | nil => simp
  | cons a l ih =>
    rw [List.foldl_cons]
    split
    · have := ih a
      simp only [List.mem_cons] at this ⊢
      tauto
    · have := ih x
      simp only [List.mem_cons] at this ⊢
      tauto

theorem State.voiceVictim_mem (x : Fin 4 × CueRef × Cue) (h : s.voiceVictim = some x) : x ∈ s.victimVoices := by
  unfold State.voiceVictim at h
  split at h
  · simp at h
  · rename_i y l e
    cases h
    rw [e]
    exact foldl_pick_mem (fun a b : Fin 4 × CueRef × Cue => victimBefore a.2.2 b.2.2) y l

/-- The victim of a judged voice is PLAYING (R65). -/
theorem State.judgeVoice_victim (r : CueRef) (c : Cue) (h : CueRef) (hv : (s.judgeVoice r c).victim? = some h) :
    ∃ x, s.cue? h = some x ∧ x.state = .playing := by
  unfold State.judgeVoice at hv
  split at hv
  · simp [Judgement.victim?] at hv
  · split at hv
    · simp [Judgement.victim?] at hv
    · split at hv
      · simp [Judgement.victim?] at hv
      · split at hv
        · rename_i v h0 x hx
          have := State.victimVoices_playing s _ (State.voiceVictim_mem s _ hx)
          split at hv
          · simp [Judgement.victim?] at hv
            subst hv
            exact ⟨x, this.2.1, this.2.2.1⟩
          · simp [Judgement.victim?] at hv
        · simp [Judgement.victim?] at hv

/-- A judged voice is one of 1 to 3 (R65). -/
theorem State.judgeVoice_voice (r : CueRef) (c : Cue) (v : Fin 4) (hv : (s.judgeVoice r c).voice? = some v) :
    v ∈ tableVoices := by
  unfold State.judgeVoice at hv
  split at hv
  · simp [Judgement.voice?] at hv
  · split at hv
    · rename_i w hw
      simp [Judgement.voice?] at hv
      subst hv
      unfold State.availableVoice at hw
      split at hw
      · rename_i u hu
        cases hw
        exact List.mem_of_find?_eq_some hu
      · exact List.mem_of_find?_eq_some hw
    · split at hv
      · simp [Judgement.voice?] at hv
      · split at hv
        · rename_i w h0 x hx
          have := State.victimVoices_playing s _ (State.voiceVictim_mem s _ hx)
          split at hv
          · simp [Judgement.voice?] at hv
            subst hv
            exact this.1
          · simp [Judgement.voice?] at hv
        · simp [Judgement.voice?] at hv

theorem State.reservePath_cues (r : CueRef) (p : Judgement) : s.SameCues (match p with
    | .notNeeded => s
    | _ => s.onPath fun x => { x with reservation := some r }) := by
  split
  · exact .refl s
  · exact .of_table rfl

theorem State.preempt_cues (r : CueRef) (p v : Judgement) (hp : ∀ h, p.victim? = some h → ∃ x, s.cue? h = some x ∧
    x.state = .playing) (hv : ∀ h, v.victim? = some h → ∃ x, s.cue? h = some x ∧ x.state = .playing) :
    s.SameCues (s.preempt r p v) := by
  have h := (State.preemptVictims_cues (p.victim?.toList ++ v.victim?.toList).dedup (List.nodup_dedup _) s (by
    intro q hq c hc
    simp only [List.mem_dedup, List.mem_append, Option.mem_toList] at hq
    have : ∃ x, s.cue? q = some x ∧ x.state = .playing := by
      rcases hq with hq | hq
      · exact hp q hq
      · exact hv q hq
    obtain ⟨x, hx, hs⟩ := this
    rw [hc] at hx
    cases hx
    simp [Cue.asleep, hs])).trans (State.reservePath_cues _ r p)
  unfold State.preempt
  dsimp only
  split
  · refine h.trans ?_
    exact .of_table rfl
  · exact h

theorem State.serve_cues (r : CueRef) : s.SameCues (s.serve r) := by
  unfold State.serve
  split
  · exact .refl s
  · rename_i c hc
    split
    · rename_i hw
      dsimp only
      split
      · exact .refl s
      · split
        · exact s.preempt_cues r _ _ (s.judgePath_victim r c) (s.judgeVoice_victim r c)
        · refine s.startCue_cues r _ fun d hd => ?_
          rw [hc] at hd
          cases hd
          exact hw
    · exact .refl s
theorem State.serveFeedback_cues : s.SameCues s.serveFeedback := by
  unfold State.serveFeedback
  split
  · exact (s.startCue_but .feedback _).all fun i c e => by cases e
  · exact .refl s
theorem State.foldl_cues {α : Type} (f : State → α → State) (hf : ∀ (t : State) a, t.SameCues (f t a)) (l : List α)
    (s : State) : s.SameCues (l.foldl f s) := by
  induction l generalizing s with
  | nil => exact .refl s
  | cons a l ih => exact (hf s a).trans (ih _)
theorem State.arbitrate_cues : s.SameCues s.arbitrate :=
  (State.foldl_cues State.serve State.serve_cues _ s).trans (State.serveFeedback_cues _)
theorem State.arbitrateFor_cues (n : Nat) : s.SameCues (State.arbitrateFor n s) := by
  induction n generalizing s with
  | zero => exact .of_table rfl
  | succ n ih =>
    unfold State.arbitrateFor
    split
    · refine State.SameCues.trans ?_ (ih _)
      exact State.SameCues.trans (t := s.onSched fun sc => { sc with arbDue := false }) (.of_table rfl)
        (State.arbitrate_cues _)
    · exact .refl s
/-- Arbitrations keep every cue of the table in its slot. -/
theorem State.settleArb_cues : s.SameCues s.settleArb := s.arbitrateFor_cues _

end Sys2Proof.Machine
end

