-- ==== Sys2Proof/Laws/Ring.lean ====
section
/-! SUPPORT. The choice among the cues on the display, said once: the table's occupied slots, the pick of the best of a list, and what the
choice of the ring cue leaves (R164, R166). -/

namespace Sys2Proof.Machine

/-- The occupied slots are the pairs of `tableCues`. -/
theorem State.mem_tableCues (s : State) (i : Fin 24) (c : Cue) : (i, c) ∈ s.tableCues ↔ s.sched.table[i] = some c := by
  simp [State.tableCues]

/-- Of a list in which one entry is strictly before every other, that entry is picked. -/
theorem pickBest_of_best {before : Cue → Cue → Bool} {l : List (Fin 24 × Cue)} {x : Fin 24 × Cue} (hx : x ∈ l)
    (h : ∀ y ∈ l, y ≠ x → before x.2 y.2 = true ∧ before y.2 x.2 = false) (hr : before x.2 x.2 = false) :
    pickBest before l = some x := by
  cases l with
  | nil => simp at hx
  | cons a l =>
    simp only [pickBest, Option.some.injEq]
    induction l generalizing a with
    | nil =>
      rw [List.mem_singleton] at hx
      rw [hx, List.foldl_nil]
    | cons b l ih =>
      rw [List.foldl_cons]
      by_cases hab : b = x
      · subst hab
        have : (if before b.2 a.2 = true then b else a) = b := by
          by_cases ha : a = b
          · subst ha; simp
          · rw [(h a (by simp) ha).1, if_pos rfl]
        rw [this]
        exact ih b (by simp) (fun y hy => h y (by simp at hy ⊢; tauto))
      · by_cases hax : a = x
        · subst hax
          rw [(h b (by simp) hab).2]
          exact ih a (by simp) (fun y hy => h y (by simp at hy ⊢; tauto))
        · have hx' : x ∈ l := by
            rcases List.mem_cons.1 hx with e | e
            · exact absurd e.symm hax
            · exact (List.mem_cons.1 e).resolve_left fun e => hab e.symm
          split
          · exact ih b (by simp [hx']) (fun y hy => h y (by simp at hy ⊢; tauto))
          · exact ih a (by simp [hx']) (fun y hy => h y (by simp at hy ⊢; tauto))

/-- Nothing is picked from a list exactly when it is empty. -/
theorem pickBest_eq_none {before : Cue → Cue → Bool} {l : List (Fin 24 × Cue)} : pickBest before l = none ↔ l = [] := by
  cases l <;> simp [pickBest]

/-- What the choice of the ring cue leaves (R166). -/
theorem State.chooseRing_chosen (s : State) : s.chooseRing.RingChosen s.display.ringEffect := by
  refine ⟨fun h => ?_, fun i c hc hs hl hb => ?_⟩
  · have : s.ringCue = none := by
      rw [State.ringCue, pickBest_eq_none, List.filter_eq_nil_iff]
      rintro ⟨i, c⟩ hm hp
      have hl := h i c ((s.mem_tableCues i c).1 hm)
      simp only [Cue.onStage, Bool.and_eq_true, Bool.or_eq_true, decide_eq_true_eq] at hp
      simp [hl hp.1] at hp
    simp [State.chooseRing, this, State.onDisplay]
  · have : s.ringCue = some (i, c) := by
      refine pickBest_of_best ?_ ?_ ?_
      · simp only [List.mem_filter, State.mem_tableCues, Cue.onStage, Bool.and_eq_true, Bool.or_eq_true, decide_eq_true_eq]
        exact ⟨hc, hs, Option.isSome_iff_ne_none.2 hl⟩
      · rintro ⟨j, d⟩ hm hne
        simp only [List.mem_filter, State.mem_tableCues, Cue.onStage, Bool.and_eq_true, Bool.or_eq_true,
          decide_eq_true_eq] at hm
        have hj : j ≠ i := by
          rintro rfl
          exact hne (by simpa using (hm.1.symm.trans hc))
        have hb := hb j d hm.1 hj hm.2.1 (Option.isSome_iff_ne_none.1 hm.2.2)
        simp only [Cue.shownBefore, Cue.outranks, Bool.or_eq_true, Bool.and_eq_true, decide_eq_true_eq, Bool.or_eq_false_iff,
          Bool.and_eq_false_iff, decide_eq_false_iff_not]
        omega
      · simp [Cue.shownBefore, Cue.outranks]
    simp only [State.chooseRing, this, State.onDisplay]
    cases he : s.display.ringEffect with
    | none => rfl
    | some e => by_cases h : e.cue = i <;> simp [h, he]

end Sys2Proof.Machine
end

