-- ==== Sys2Proof/Laws/Order.lean ====
section
/-! SUPPORT. The order of service, said once: which table cues are candidates, and that of two candidates the one served before stands
before in the list that an arbitration runs through (R62, R63). -/

namespace Sys2Proof.Machine

/-- Two entries of two lists stand in the order of the lists. -/
theorem pair_sublist_append {α : Type} {x y : α} {l k : List α} (hx : x ∈ l) (hy : y ∈ k) : List.Sublist [x, y] (l ++ k) :=
  (List.singleton_sublist.2 hx).append (List.singleton_sublist.2 hy)

/-- In a list sorted by `r`, an entry stands before another that is not below it. -/
theorem pair_sublist_of_sorted {α : Type} {r : α → α → Prop} {x y : α} {l : List α} (hl : l.Pairwise r) (hx : x ∈ l) (hy : y ∈ l)
    (h : ¬ r y x) (hne : x ≠ y) : List.Sublist [x, y] l := by
  induction hl with
  | nil => simp at hx
  | @cons a l ha _ ih =>
    rcases List.mem_cons.1 hx with e | hxl
    · subst e
      exact (List.singleton_sublist.2 ((List.mem_cons.1 hy).resolve_left fun e => hne e.symm)).cons_cons x
    · rcases List.mem_cons.1 hy with e | hyl
      · subst e
        exact absurd (ha x hxl) h
      · exact (ih hxl hyl).cons a

/-- There are two machines. -/
theorem Side.eq_or_other (f m : Side) : m = f ∨ m = f.other := by cases f <;> cases m <;> simp [Side.other]

/-- The candidates of one class and machine (R62). -/
theorem State.mem_classCandidates (s : State) (cls : CueClass) (m : Side) (i : Fin 24) :
    CueRef.slot i ∈ s.classCandidates cls m ↔
      ∃ c, s.sched.table[i] = some c ∧ s.isCandidate c = true ∧ c.cls = cls ∧ c.origin = .machine m := by
  simp only [State.classCandidates, List.mem_map, List.mem_insertionSort, List.mem_filter, Bool.and_eq_true, decide_eq_true_eq]
  constructor
  · rintro ⟨⟨j, c⟩, ⟨hm, ⟨h1, h2⟩, h3⟩, e⟩
    cases e
    exact ⟨c, (s.mem_tableCues j c).1 hm, h1, h2, h3⟩
  · rintro ⟨c, hc, h1, h2, h3⟩
    exact ⟨(i, c), ⟨(s.mem_tableCues i c).2 hc, ⟨h1, h2⟩, h3⟩, rfl⟩

/-- The first machine of a class is the one the statements write out. -/
theorem Sched.firstServed_eq (sc : Sched) :
    firstSide sc.lastAlarm = sc.firstServed .alarm ∧ firstSide sc.lastPrompt = sc.firstServed .prompt ∧
      firstSide sc.lastChime = sc.firstServed .chime := by
  refine ⟨?_, ?_, ?_⟩ <;> simp only [firstSide, Sched.firstServed] <;> split <;> simp_all [Side.other] <;> split <;> simp_all

/-- Of two candidates of one class, the one served before stands before in the class's order (R63). -/
theorem State.classOrder_before (s : State) {cls : CueClass} {last : Option Side} (hf : firstSide last = s.sched.firstServed cls)
    {i j : Fin 24} {a b : Cue} {m n : Side} (hi : s.sched.table[i] = some a) (hj : s.sched.table[j] = some b)
    (ha : s.isCandidate a = true) (hb : s.isCandidate b = true) (ca : a.cls = cls) (cb : b.cls = cls)
    (oa : a.origin = .machine m) (ob : b.origin = .machine n) (h : s.ServedBefore a b) :
    List.Sublist [CueRef.slot i, CueRef.slot j] (s.classOrder cls last) := by
  have h := h.resolve_left (by rw [ca, cb]; omega) |>.2
  rw [ca, oa, ob] at h
  have hx := (s.mem_classCandidates cls m i).2 ⟨a, hi, ha, ca, oa⟩
  have hy := (s.mem_classCandidates cls n j).2 ⟨b, hj, hb, cb, ob⟩
  rw [State.classOrder, hf]
  rcases h with ⟨hne, e⟩ | ⟨e, hp⟩
  · cases e
    have hn : n = (s.sched.firstServed cls).other :=
      (Side.eq_or_other _ n).resolve_left fun e => hne (by rw [e])
    exact pair_sublist_append hx (hn ▸ hy)
  · cases e
    have key : List.Sublist [CueRef.slot i, CueRef.slot j] (s.classCandidates cls m) := by
      refine List.Sublist.map (l₁ := [(i, a), (j, b)]) (fun p => CueRef.slot p.1) (pair_sublist_of_sorted
        (List.pairwise_insertionSort (fun a b : Fin 24 × Cue => a.2.posting ≤ b.2.posting) _) ?_ ?_ ?_ ?_)
      · simp [State.mem_tableCues, hi, ha, ca, oa]
      · simp [State.mem_tableCues, hj, hb, cb, ob]
      · simpa using hp
      · rintro e
        cases e
        omega
    rcases Side.eq_or_other (s.sched.firstServed cls) m with e | e
    · rw [e] at key
      exact key.trans (List.sublist_append_left _ _)
    · rw [e] at key
      exact key.trans (List.sublist_append_right _ _)

/-- The candidates of one class (R62). -/
theorem State.mem_classOrder (s : State) (cls : CueClass) (last : Option Side) (i : Fin 24) :
    CueRef.slot i ∈ s.classOrder cls last ↔
      ∃ c m, s.sched.table[i] = some c ∧ s.isCandidate c = true ∧ c.cls = cls ∧ c.origin = .machine m := by
  simp only [State.classOrder, List.mem_append, s.mem_classCandidates]
  constructor
  · rintro (⟨c, h⟩ | ⟨c, h⟩) <;> exact ⟨c, _, h⟩
  · rintro ⟨c, m, h⟩
    rcases Side.eq_or_other (firstSide last) m with e | e
    · exact .inl ⟨c, e ▸ h⟩
    · exact .inr ⟨c, e ▸ h⟩

/-- The table cues among the candidates (R62). -/
theorem State.mem_candidates (s : State) (i : Fin 24) :
    CueRef.slot i ∈ s.candidates ↔ ∃ c m, s.sched.table[i] = some c ∧ s.isCandidate c = true ∧ c.cls ≠ .echo ∧
      c.origin = .machine m := by
  have hn : CueRef.slot i ∉ s.narrationCandidates := by
    unfold State.narrationCandidates
    split <;> (try split) <;> simp
  simp only [State.candidates, List.mem_append, hn, s.mem_classOrder, or_false]
  constructor
  · rintro ((⟨c, m, h1, h2, h3, h4⟩ | ⟨c, m, h1, h2, h3, h4⟩) | ⟨c, m, h1, h2, h3, h4⟩) <;>
      exact ⟨c, m, h1, h2, by simp [h3], h4⟩
  · rintro ⟨c, m, h1, h2, h3, h4⟩
    cases hc : c.cls with
    | alarm => exact .inl (.inl ⟨c, m, h1, h2, hc, h4⟩)
    | prompt => exact .inl (.inr ⟨c, m, h1, h2, hc, h4⟩)
    | chime => exact .inr ⟨c, m, h1, h2, hc, h4⟩
    | echo => exact absurd hc h3

/-- Of two table cues that are candidates, the one served before stands before (R63). -/
theorem State.candidates_before (s : State) {i j : Fin 24} {a b : Cue} {m n : Side} (hi : s.sched.table[i] = some a)
    (hj : s.sched.table[j] = some b) (ha : s.isCandidate a = true) (hb : s.isCandidate b = true) (ca : a.cls ≠ .echo)
    (cb : b.cls ≠ .echo) (oa : a.origin = .machine m) (ob : b.origin = .machine n) (h : s.ServedBefore a b) :
    List.Sublist [CueRef.slot i, CueRef.slot j] s.candidates := by
  have mem {cls : CueClass} {last : Option Side} {k : Fin 24} {c : Cue} {o : Side} (hk : s.sched.table[k] = some c)
      (hc : s.isCandidate c = true) (cc : c.cls = cls) (oc : c.origin = .machine o) : CueRef.slot k ∈ s.classOrder cls last :=
    (s.mem_classOrder cls last k).2 ⟨c, o, hk, hc, cc, oc⟩
  have same {cls : CueClass} {last : Option Side} (hf : firstSide last = s.sched.firstServed cls) (ka : a.cls = cls)
      (kb : b.cls = cls) := s.classOrder_before hf hi hj ha hb ka kb oa ob h
  have low : ¬ b.cls.rank < a.cls.rank := by
    rcases h with h | h
    · omega
    · rw [h.1]
      omega
  obtain ⟨e1, e2, e3⟩ := s.sched.firstServed_eq
  unfold State.candidates
  cases ka : a.cls <;> cases kb : b.cls <;> simp only [ka, kb, CueClass.rank] at low
  case alarm.alarm =>
    exact (same e1 ka kb).trans (((List.sublist_append_left _ _).trans (List.sublist_append_left _ _)).trans
      (List.sublist_append_left _ _))
  case alarm.prompt =>
    exact (pair_sublist_append (List.mem_append_left _ (mem hi ha ka oa)) (mem hj hb kb ob)).trans (List.sublist_append_left _ _)
  case alarm.chime =>
    exact pair_sublist_append (List.mem_append_left _ (List.mem_append_left _ (mem hi ha ka oa))) (mem hj hb kb ob)
  case prompt.prompt => exact (same e2 ka kb).trans ((List.sublist_append_right _ _).trans (List.sublist_append_left _ _))
  case prompt.chime => exact pair_sublist_append (List.mem_append_right _ (mem hi ha ka oa)) (mem hj hb kb ob)
  case chime.chime => exact (same e3 ka kb).trans (List.sublist_append_right _ _)
  all_goals first | exact absurd ka ca | exact absurd kb cb | omega

end Sys2Proof.Machine
end

