-- ==== Sys2Proof/Laws/Outputs.lean ====
section
/-! SUPPORT. Which voice's step is over, what the sense pin's level changes, and the bytes a frame transfer sends, each said once. -/

namespace Sys2Proof.Machine

variable (s : State)

/-! ### Steps that are over (R137) -/

theorem Voice.stepOver_iff (v : Voice) : v.stepOver = true ↔ v.playing = true ∧ v.countsLeft = 0 := by
  simp [Voice.stepOver]

theorem State.stepDue?_eq_none : s.stepDue? = none ↔ ∀ v : Fin 4, (s.tone.voices[v]).stepOver = false := by
  simp only [State.stepDue?, List.find?_eq_none, Bool.not_eq_true]
  exact ⟨fun h v => h v (by fin_cases v <;> decide), fun h v _ => h v⟩

/-- A search of the voices finds the lowest that passes. -/
theorem find_allVoices (p : Fin 4 → Bool) (v : Fin 4) :
    allVoices.find? p = some v ↔ p v = true ∧ ∀ w : Fin 4, w < v → p w = false := by
  simp only [allVoices, List.find?_cons, List.find?_nil]
  cases h0 : p 0 <;> cases h1 : p 1 <;> cases h2 : p 2 <;> cases h3 : p 3 <;> fin_cases v <;>
    simp [Fin.forall_fin_succ, h0, h1, h2, h3, Fin.lt_def]

/-- The voice whose step ends next is the lowest whose step is over (R137). -/
theorem State.stepDue?_eq_some (v : Fin 4) :
    s.stepDue? = some v ↔ (s.tone.voices[v]).stepOver = true ∧ ∀ w : Fin 4, w < v → (s.tone.voices[w]).stepOver = false :=
  find_allVoices _ v

/-! ### The sense pin (R153) -/

@[simp] theorem State.takeSense_sense (a : Bool) : (s.takeSense a).mixer.sense = a := rfl
@[simp] theorem State.takeSense_stage (a : Bool) : (s.takeSense a).mixer.stage = s.mixer.stage := rfl
@[simp] theorem State.takeSense_self : s.takeSense s.mixer.sense = s := rfl

/-! ### The bytes of a frame transfer (R158) -/

@[simp] theorem bytesOfRow_length (row : BitVec 128) : (bytesOfRow row).length = 16 := by simp [bytesOfRow]

/-- Dot `8k + j` of a row is bit `7 - j` of its byte `k`. -/
theorem bytesOfRow_dot (row : BitVec 128) {k j : Nat} (hk : k < 16) (hj : j < 8) :
    ((bytesOfRow row).getD k 0).getLsbD (7 - j) = row.getLsbD (127 - (8 * k + j)) := by
  have : 120 - 8 * k + (7 - j) = 127 - (8 * k + j) := by omega
  simp [bytesOfRow, List.getD_eq_getElem?_getD, hk, BitVec.getLsbD_extractLsb', this]
  omega

@[simp] theorem Display.transferBytes_length (d : Display) : d.transferBytes.length = 512 := by
  simp [Display.transferBytes, List.length_flatMap]

end Sys2Proof.Machine
end

