-- ==== Sys2Proof/Laws/Places.lean ====
section
/-! SUPPORT. What playback leaves of the posting orders (R38, R43), said once: `State.SamePlaces`. -/

namespace Sys2Proof.Machine

/-- No posting number and no serial is given, and markers are only removed. -/
def State.SamePlaces (s t : State) : Prop :=
  t.sched.nextPosting = s.sched.nextPosting ∧ t.sched.nextUid = s.sched.nextUid ∧
    ∀ m, (t.sched.markers.get m).Sublist (s.sched.markers.get m)

namespace State.SamePlaces

variable {s t u : State}

theorem of_sched (h1 : t.sched.nextPosting = s.sched.nextPosting) (h2 : t.sched.nextUid = s.sched.nextUid)
    (h3 : t.sched.markers = s.sched.markers) : s.SamePlaces t := ⟨h1, h2, fun m => by rw [h3]⟩
theorem refl (s : State) : s.SamePlaces s := of_sched rfl rfl rfl
theorem trans (h : s.SamePlaces t) (k : t.SamePlaces u) : s.SamePlaces u :=
  ⟨k.1.trans h.1, k.2.1.trans h.2.1, fun m => (k.2.2 m).trans (h.2.2 m)⟩

/-- Without a marker before, there is none after. -/
theorem no_markers (h : s.SamePlaces t) (m : Side) (hm : s.sched.markers.get m = []) : t.sched.markers.get m = [] := by
  have := h.2.2 m
  rw [hm] at this
  exact List.sublist_nil.mp this

end State.SamePlaces

variable (s : State)

theorem State.setCue_places (r : CueRef) (c : Option Cue) : s.SamePlaces (s.setCue r c) := by
  cases r <;> exact .of_sched rfl rfl rfl
theorem State.modCue_places (r : CueRef) (f : Cue → Cue) : s.SamePlaces (s.modCue r f) := s.setCue_places _ _
theorem State.setArb_places : s.SamePlaces s.setArb := .of_sched rfl rfl rfl
theorem State.endReservations_places (r : CueRef) : s.SamePlaces (s.endReservations r) := by
  unfold State.endReservations
  split <;> exact .of_sched rfl rfl rfl
theorem State.leftPlaying_places : s.SamePlaces s.leftPlaying := by
  unfold State.leftPlaying
  split <;> exact .of_sched rfl rfl rfl
theorem State.freePath_places (r : CueRef) : s.SamePlaces (s.freePath r) := by
  unfold State.freePath
  split <;> exact .of_sched rfl rfl rfl
theorem State.freeVoice_places (r : CueRef) : s.SamePlaces (s.freeVoice r) := by
  unfold State.freeVoice
  split <;> exact .of_sched rfl rfl rfl
theorem State.freeResources_places (r : CueRef) : s.SamePlaces (s.freeResources r) :=
  (s.freePath_places r).trans (State.freeVoice_places _ r)
theorem State.beginTone_places (r : CueRef) : s.SamePlaces (s.beginTone r) := by
  unfold State.beginTone State.beginPattern
  repeat' split
  all_goals exact .of_sched rfl rfl rfl

theorem State.releaseHeld_places (m : Side) : s.SamePlaces (s.releaseHeld m) := by
  have h : ∀ f : Sched → Vector (Option Cue) 24, s.SamePlaces (s.onSched fun sc => { sc with table := f sc }) :=
    fun _ => .of_sched rfl rfl rfl
  unfold State.releaseHeld
  dsimp only
  split
  · exact (h _).trans (State.setArb_places _)
  · exact h _
theorem State.checkFences_places (m : Side) : s.SamePlaces (s.checkFences m) := by
  have h : ∀ f : Nat → Bool, s.SamePlaces
      (s.onSched fun sc => { sc with markers := sc.markers.modify m fun ms => ms.filter f }) := by
    intro f
    refine ⟨rfl, rfl, fun n => ?_⟩
    cases m <;> cases n <;> simp [PerSide.modify, PerSide.set, PerSide.get]
  unfold State.checkFences
  exact (h _).trans (State.releaseHeld_places _ m)
theorem State.enterReporting_places (i : Fin 24) (o : CueOutcome) : s.SamePlaces (s.enterReporting i o) := by
  unfold State.enterReporting
  split
  · exact .refl s
  · dsimp only
    split
    · refine State.SamePlaces.trans ?_ (State.checkFences_places _ _)
      exact ((s.setCue_places _ _).trans (State.endReservations_places _ _)).trans (.of_sched rfl rfl rfl)
    · exact (s.setCue_places _ _).trans (State.endReservations_places _ _)
theorem State.enterEnding_places (r : CueRef) (e : EndCause) : s.SamePlaces (s.enterEnding r e) :=
  ((s.modCue_places r _).trans (State.leftPlaying_places _)).trans (.of_sched rfl rfl rfl)
theorem State.endGap_places (i : Fin 24) : s.SamePlaces (s.endGap i) := by
  unfold State.endGap
  split
  · exact .refl s
  · split
    · exact s.enterReporting_places i _
    · exact .of_sched rfl rfl rfl
theorem State.enterGap_places (i : Fin 24) (c : Cue) : s.SamePlaces (s.enterGap i c) := by
  unfold State.enterGap
  dsimp only
  split
  · exact (s.setCue_places _ _).trans (State.endGap_places _ i)
  · exact s.setCue_places _ _
theorem State.endOfPlay_places (r : CueRef) : s.SamePlaces (s.endOfPlay r) := by
  unfold State.endOfPlay
  split
  · exact .refl s
  · refine State.SamePlaces.trans ?_ ((State.leftPlaying_places _).trans (.of_sched rfl rfl rfl))
    refine (s.freeResources_places r).trans ?_
    split
    · split
      · exact State.enterGap_places _ _ _
      · exact State.enterReporting_places _ _ _
    · exact State.setCue_places _ _ _
    · exact State.setCue_places _ _ _
theorem State.utteranceEnded_places (r : CueRef) : s.SamePlaces (s.utteranceEnded r) := by
  unfold State.utteranceEnded
  repeat' split
  all_goals first
    | exact .refl s
    | exact s.endOfPlay_places r
    | exact s.modCue_places r _
    | exact (s.modCue_places r _).trans (State.SamePlaces.trans (.of_sched rfl rfl rfl) (State.beginTone_places _ r))
theorem State.beginUtterance_places (r : CueRef) : s.SamePlaces (s.beginUtterance r) := by
  unfold State.beginUtterance
  split
  · exact s.utteranceEnded_places r
  · exact .of_sched rfl rfl rfl
theorem State.patternEnded_places (r : CueRef) : s.SamePlaces (s.patternEnded r) := by
  unfold State.patternEnded
  repeat' split
  all_goals first
    | exact .refl s
    | exact s.endOfPlay_places r
    | exact (s.modCue_places r _).trans (State.beginUtterance_places _ r)
    | exact s.modCue_places r _
theorem State.assembleFor_places (r : CueRef) (c : Cue) : s.SamePlaces (s.assembleFor r c) := by
  unfold State.assembleFor State.markTableCue
  dsimp only
  repeat' split
  all_goals exact .of_sched rfl rfl rfl
theorem State.beginFirstPhase_places (r : CueRef) (c : Cue) : s.SamePlaces (s.beginFirstPhase r c) := by
  have h : s.SamePlaces (match c.timing? with
      | some .after => s
      | _ => if c.tone.isSome then s.beginTone r else s) := by
    repeat' split
    all_goals first
      | exact .refl s
      | exact s.beginTone_places r
  unfold State.beginFirstPhase
  dsimp only
  split
  · exact h.trans (State.beginUtterance_places _ _)
  · exact h
theorem Sched.placeStarted_places (sc : Sched) (c d : Cue) (r : CueRef) :
    ((sc.serveMarker c).placeStarted r d).nextPosting = sc.nextPosting ∧
      ((sc.serveMarker c).placeStarted r d).nextUid = sc.nextUid ∧
      ((sc.serveMarker c).placeStarted r d).markers = sc.markers := by
  unfold Sched.serveMarker
  cases r <;> repeat' split
  all_goals exact ⟨rfl, rfl, rfl⟩
theorem State.startCue_places (r : CueRef) (v : Option (Fin 4)) : s.SamePlaces (s.startCue r v) := by
  unfold State.startCue
  split
  · exact .refl s
  · rename_i c hc
    dsimp only
    refine State.SamePlaces.trans ?_ (State.beginFirstPhase_places _ r _)
    have ha : ∀ (t : State) (p : Prop) [Decidable p] (c : Cue), t.SamePlaces (if p then t.assembleFor r c else t) := by
      intro t p _ c
      split
      · exact t.assembleFor_places r c
      · exact .refl t
    refine State.SamePlaces.trans ?_ (State.SamePlaces.of_sched rfl rfl rfl)
    refine State.SamePlaces.trans ?_ (ha _ _ _)
    have hp : ∀ (t : State) (d : Cue) (n : Nat),
        t.SamePlaces (t.onSched fun sc => { (sc.serveMarker c).placeStarted r d with nextStart := n }) := by
      intro t d n
      obtain ⟨h1, h2, h3⟩ := t.sched.placeStarted_places c d r
      exact .of_sched h1 h2 h3
    refine State.SamePlaces.trans ?_ (hp _ _ _)
    repeat' split
    all_goals exact .of_sched rfl rfl rfl
theorem State.preemptVictim_places (h : CueRef) : s.SamePlaces (s.preemptVictim h) := by
  unfold State.preemptVictim
  split
  · exact .refl s
  · exact (s.setCue_places _ _).trans (State.enterEnding_places _ _ _)
theorem State.foldl_places {α : Type} (f : State → α → State) (hf : ∀ (t : State) a, t.SamePlaces (f t a)) (l : List α)
    (s : State) : s.SamePlaces (l.foldl f s) := by
  induction l generalizing s with
  | nil => exact .refl s
  | cons a l ih => exact (hf s a).trans (ih _)
theorem State.preempt_places (r : CueRef) (p v : Judgement) : s.SamePlaces (s.preempt r p v) := by
  have h1 := State.foldl_places State.preemptVictim State.preemptVictim_places
    (p.victim?.toList ++ v.victim?.toList).dedup s
  unfold State.preempt
  dsimp only
  repeat' split
  all_goals exact h1
theorem State.serve_places (r : CueRef) : s.SamePlaces (s.serve r) := by
  unfold State.serve
  dsimp only
  repeat' split
  all_goals first
    | exact .refl s
    | exact s.preempt_places r _ _
    | exact s.startCue_places r _
theorem State.serveFeedback_places : s.SamePlaces s.serveFeedback := by
  unfold State.serveFeedback
  split
  · exact s.startCue_places _ _
  · exact .refl s
theorem State.arbitrate_places : s.SamePlaces s.arbitrate :=
  (State.foldl_places State.serve State.serve_places _ s).trans (State.serveFeedback_places _)
theorem State.arbitrateFor_places (n : Nat) : s.SamePlaces (State.arbitrateFor n s) := by
  induction n generalizing s with
  | zero => exact .of_sched rfl rfl rfl
  | succ n ih =>
    unfold State.arbitrateFor
    split
    · refine State.SamePlaces.trans ?_ (ih _)
      exact State.SamePlaces.trans (t := s.onSched fun sc => { sc with arbDue := false }) (.of_sched rfl rfl rfl)
        (State.arbitrate_places _)
    · exact .refl s
/-- Arbitrations give no posting number and only remove markers. -/
theorem State.settleArb_places : s.SamePlaces s.settleArb := s.arbitrateFor_places _

end Sys2Proof.Machine
end

