-- ==== Sys2Proof/Laws/Settle.lean ====
section
/-! SUPPORT. What `State.settle` does: nothing to a settled state, it always leaves a settled state, and after a reply it only begins
to send it. -/

namespace Sys2Proof.Machine

variable (s : State)

/-- A command on a part whose reset input is high has its effect (log 16). -/
theorem running_of_up {s : State} (h : s.resetHeld = false) (f : State → State) : running s f = .next (f s) := by
  simp [running, h]

/-! ### Arbitrations -/

theorem State.arbitrateFor_of_not_due (n : Nat) (h : s.sched.arbDue = false) : State.arbitrateFor n s = s := by
  cases n with
  | zero =>
    simp only [State.arbitrateFor, State.onSched]
    rw [← h]
  | succ n => simp [State.arbitrateFor, h]

theorem State.settleArb_of_not_due (h : s.sched.arbDue = false) : s.settleArb = s :=
  s.arbitrateFor_of_not_due _ h

theorem State.arbitrateFor_arbDue (n : Nat) : (State.arbitrateFor n s).sched.arbDue = false := by
  induction n generalizing s with
  | zero => rfl
  | succ n ih =>
    unfold State.arbitrateFor
    split
    · exact ih _
    · simp_all

theorem State.settleArb_arbDue : s.settleArb.sched.arbDue = false := s.arbitrateFor_arbDue _

/-! ### The check, the port and the transmitters -/

theorem State.grantRace_of_not (h : s.checkCanBegin = false) : s.grantRace = s := by simp [State.grantRace, h]

theorem State.grantRace_sched : s.grantRace.sched = s.sched := by
  unfold State.grantRace
  split <;> rfl

theorem State.tryBeginCheck_of_not (h : s.checkCanBegin = false) : s.tryBeginCheck = s := by simp [State.tryBeginCheck, h]

theorem State.portDecide_of_rest (h : s.store.port = .idle → s.eligibleS = false ∧ s.eligibleG = false) :
    s.portDecide = s := by
  unfold State.portDecide
  split
  · rename_i hp
    simp [h hp]
  · rfl

theorem State.txChoose_of_rest (m : Side) (h : (s.link m).atRest) : s.txChoose m = s := by
  unfold State.txChoose
  split
  · rfl
  · rename_i hi
    obtain ⟨h1, h2⟩ := h hi
    simp [h1, h2, earliest]

theorem State.settle_of_settled (h : s.Settled) : s.settle = s := by
  obtain ⟨h1, h2, h3, h4, h5⟩ := h
  unfold State.settle
  rw [s.settleArb_of_not_due h1, s.grantRace_of_not h2, s.tryBeginCheck_of_not h2, s.portDecide_of_rest h3, s.txChoose_of_rest .w h4,
    s.txChoose_of_rest .d h5]

theorem State.checkCanBegin_eq_false : s.checkCanBegin = false ↔
    (s.store.check = .pending → s.sched.path.holder = none → s.sched.path.reservation = none → s.store.port = .g) := by
  simp [State.checkCanBegin]

theorem State.tryBeginCheck_cant : s.tryBeginCheck.checkCanBegin = false := by
  unfold State.tryBeginCheck
  split
  · simp [State.checkCanBegin]
  · simp_all

theorem State.portDecide_rest (h : s.checkCanBegin = false) :
    s.portDecide.checkCanBegin = false ∧
      (s.portDecide.store.port = .idle → s.portDecide.eligibleS = false ∧ s.portDecide.eligibleG = false) := by
  unfold State.portDecide
  split
  · rename_i hp
    split
    · rw [State.checkCanBegin_eq_false] at h ⊢
      simpa [hp] using h
    · split
      · simp_all [State.checkCanBegin]
      · simp_all
  · rename_i hp
    exact ⟨h, fun k => absurd k hp⟩

theorem Link.available_eq_nil_iff (l : Link) :
    l.available = [] ↔ l.done = [] ∧ l.inputs = [] ∧ l.focusMark = none ∧ l.profileMark = none ∧ l.faultMark = none := by
  cases hd : l.done <;> cases hi : l.inputs <;> cases hf : l.focusMark <;> cases hp : l.profileMark <;>
    cases ht : l.faultMark <;> simp [Link.available, hd, hi, hf, hp, ht]

/-- What a choice of frame touches: only the transmitter, marks and pending causes of that link. -/
theorem State.txChoose_eq (m : Side) : ∃ l : Link, s.txChoose m = s.onLink m (fun _ => l) ∧
    l = { s.link m with tx := l.tx, focusMark := l.focusMark, profileMark := l.profileMark, profileShown := l.profileShown,
                        faultMark := l.faultMark, pendingStore := l.pendingStore, pendingSpeaker := l.pendingSpeaker } := by
  have hid : s = s.onLink m fun _ => s.link m := by cases m <;> rfl
  unfold State.txChoose
  split
  · exact ⟨_, hid, rfl⟩
  · split
    · exact ⟨{ s.link m with tx := _ }, rfl, rfl⟩
    · split
      · exact ⟨_, hid, rfl⟩
      · rename_i c _
        cases c with
        | done r => exact ⟨{ s.link m with tx := _ }, rfl, rfl⟩
        | input r => exact ⟨{ s.link m with tx := _ }, rfl, rfl⟩
        | focus => exact ⟨{ s.link m with tx := _, focusMark := none }, rfl, rfl⟩
        | profile => exact ⟨{ s.link m with tx := _, profileMark := none, profileShown := (s.link m).profileEvent }, rfl, rfl⟩
        | fault =>
          exact ⟨{ s.link m with tx := _, faultMark := none, pendingStore := false, pendingSpeaker := false }, rfl, rfl⟩

theorem earliest_isSome {l : List (Nat × ReportChoice)} (h : l ≠ []) : ∃ c, earliest l = some c := by
  cases l with
  | nil => exact absurd rfl h
  | cons x l => exact ⟨_, rfl⟩

theorem State.txChoose_atRest (m : Side) : ((s.txChoose m).link m).atRest := by
  unfold State.txChoose
  split
  · rename_i f hf
    intro h
    simp [hf] at h
  · rename_i hi
    split
    · intro h
      simp at h
    · rename_i hr
      split
      · rename_i he
        intro _
        refine ⟨hr, ?_⟩
        by_contra hne
        obtain ⟨c, hc⟩ := earliest_isSome hne
        simp [hc] at he
      · rename_i c _
        intro h
        cases c <;> simp [State.beginReport] at h

theorem State.txChoose_link_of_ne {m n : Side} (h : n ≠ m) : (s.txChoose m).link n = s.link n := by
  obtain ⟨l, h1, -⟩ := s.txChoose_eq m
  rw [h1, State.link_onLink_of_ne _ _ h]

theorem State.checkCanBegin_onLink (m : Side) (f : Link → Link) : (s.onLink m f).checkCanBegin = s.checkCanBegin := rfl
theorem State.eligibleS_onLink (m : Side) (f : Link → Link) : (s.onLink m f).eligibleS = s.eligibleS := rfl
theorem State.eligibleG_onLink (m : Side) (f : Link → Link) : (s.onLink m f).eligibleG = s.eligibleG := rfl

/-- Changing a link keeps a state settled when that link stays at rest. -/
theorem State.Settled.onLink {s : State} (h : s.Settled) (m : Side) (f : Link → Link) (hr : (f (s.link m)).atRest) :
    (s.onLink m f).Settled := by
  obtain ⟨h1, h2, h3, h4, h5⟩ := h
  refine ⟨h1, h2, h3, ?_, ?_⟩
  · by_cases hm : Side.w = m
    · subst hm
      rw [State.link_onLink_same]
      exact hr
    · rw [State.link_onLink_of_ne _ _ hm]
      exact h4
  · by_cases hm : Side.d = m
    · subst hm
      rw [State.link_onLink_same]
      exact hr
    · rw [State.link_onLink_of_ne _ _ hm]
      exact h5

theorem State.txChoose_frame (m : Side) :
    (s.txChoose m).sched.arbDue = s.sched.arbDue ∧ (s.txChoose m).checkCanBegin = s.checkCanBegin ∧
      (s.txChoose m).store = s.store ∧ (s.txChoose m).eligibleS = s.eligibleS ∧ (s.txChoose m).eligibleG = s.eligibleG := by
  obtain ⟨l, h1, -⟩ := s.txChoose_eq m
  rw [h1]
  exact ⟨rfl, rfl, rfl, rfl, rfl⟩

theorem State.settle_settled : s.settle.Settled := by
  have e1 : s.settleArb.grantRace.sched.arbDue = false := by
    rw [State.grantRace_sched]
    exact State.settleArb_arbDue s
  have e2 : s.settleArb.grantRace.tryBeginCheck.sched.arbDue = false := by
    unfold State.tryBeginCheck
    split <;> simpa using e1
  have e3 := State.portDecide_rest _ (State.tryBeginCheck_cant s.settleArb.grantRace)
  have e4 : s.settleArb.grantRace.tryBeginCheck.portDecide.sched.arbDue = false := by
    unfold State.portDecide
    repeat' split
    all_goals simpa using e2
  unfold State.settle
  generalize s.settleArb.grantRace.tryBeginCheck.portDecide = t at *
  obtain ⟨f1, f2, f3, f4, f5⟩ := t.txChoose_frame .w
  obtain ⟨g1, g2, g3, g4, g5⟩ := (t.txChoose .w).txChoose_frame .d
  refine ⟨by rw [g1, f1, e4], by rw [g2, f2, e3.1], ?_, ?_, State.txChoose_atRest _ _⟩
  · rw [g3, f3, g4, f4, g5, f5]
    exact e3.2
  · rw [State.txChoose_link_of_ne _ (by decide)]
    exact State.txChoose_atRest _ _

/-! ### A PROFILE request at the moment of a panel event -/

/-- A PROFILE request touches its link only where that sends the PROFILE report of a panel event of the same moment. -/
theorem Link.retakeProfile_of_not {l : Link} {now : Nat} (c : Context)
    (h : ∀ g v u a, l.tx = .sending (.profile g v u a) → l.profileShown ≠ some now) : l.retakeProfile c now = l := by
  unfold Link.retakeProfile
  split
  · rename_i e
    exact if_neg (h _ _ _ _ e)
  · rfl

/-- There the report carries the values after the request. -/
theorem Link.retakeProfile_of_shown {l : Link} {now g v u : Nat} {a : Bool} (c : Context)
    (h : l.tx = .sending (.profile g v u a)) (hs : l.profileShown = some now) :
    l.retakeProfile c now = { l with tx := .sending (.profile c.language c.volume c.mutedFrom c.assist) } := by
  simp [Link.retakeProfile, h, hs, Context.profileFrame]

/-! ### Replies -/

/-- Settled but for what link `m` has to send. -/
def State.SettledBut (s : State) (m : Side) : Prop :=
  s.sched.arbDue = false ∧ s.checkCanBegin = false ∧
    (s.store.port = .idle → s.eligibleS = false ∧ s.eligibleG = false) ∧ (s.link m.other).atRest

theorem State.Settled.but {s : State} (h : s.Settled) (m : Side) : s.SettledBut m := by
  obtain ⟨h1, h2, h3, h4, h5⟩ := h
  refine ⟨h1, h2, h3, ?_⟩
  cases m <;> assumption

theorem State.SettledBut.settle {s : State} {m : Side} (h : s.SettledBut m) : s.settle = s.txChoose m := by
  obtain ⟨k1, k2, k3, k4⟩ := h
  unfold State.settle
  rw [State.settleArb_of_not_due _ k1, State.grantRace_of_not _ k2, State.tryBeginCheck_of_not _ k2, State.portDecide_of_rest _ k3]
  cases m with
  | w =>
    refine State.txChoose_of_rest _ _ ?_
    rw [State.txChoose_link_of_ne _ (by decide)]
    exact k4
  | d =>
    rw [show s.txChoose .w = s from State.txChoose_of_rest _ _ k4]

/-- With a reply formed, the transmitter's choice is that reply. -/
theorem State.txChoose_reply {s : State} {m : Side} {r : Reply} (hr : (s.link m).reply = some r) :
    s.txChoose m = s.onLink m fun l => l.sends (.reply r) := by
  unfold State.txChoose
  cases ht : (s.link m).tx with
  | sending f =>
    refine (s.onLink_self m).symm.trans (State.onLink_congr s m ?_)
    generalize s.link m = l at *
    cases l
    simp_all [Link.sends]
  | idle =>
    simp only [hr]
    apply State.onLink_congr
    simp [Link.sends, ht]

/-- With nothing to settle but a formed reply, its transmission begins. -/
theorem State.settle_reply {s : State} {m : Side} {r : Reply} (h : s.SettledBut m) (hr : (s.link m).reply = some r) :
    s.settle = s.onLink m fun l => l.sends (.reply r) := by
  rw [h.settle, State.txChoose_reply hr]

/-- The choice of frame that follows a formed reply. -/
theorem State.txChoose_formReply (m : Side) (k : RequestKind) (b : ReplyBody) (note : Bool) :
    (s.formReply m k.code b note).txChoose m = s.answered m k b note := by
  cases m <;>
    simp only [State.txChoose, State.formReply, State.answered, State.onLink, State.link, PerSide.modify, PerSide.set,
      PerSide.get] <;>
    split <;> simp_all

/-- After a reply is formed in a settled state, only its transmission begins. -/
theorem State.settle_formReply {s : State} (h : s.Settled) (m : Side) (k : RequestKind) (b : ReplyBody) (note : Bool) :
    (s.formReply m k.code b note).settle = s.answered m k b note := by
  obtain ⟨h1, h2, h3, h4, h5⟩ := h
  have k1 : (s.formReply m k.code b note).sched.arbDue = false := h1
  have k2 : (s.formReply m k.code b note).checkCanBegin = false := h2
  have k3 : (s.formReply m k.code b note).store.port = .idle → (s.formReply m k.code b note).eligibleS = false ∧
      (s.formReply m k.code b note).eligibleG = false := h3
  unfold State.settle
  rw [State.settleArb_of_not_due _ k1, State.grantRace_of_not _ k2, State.tryBeginCheck_of_not _ k2, State.portDecide_of_rest _ k3]
  cases m with
  | w =>
    rw [State.txChoose_formReply, State.txChoose_of_rest]
    exact h5
  | d =>
    have hw : ((s.formReply .d k.code b note).link .w).atRest := h4
    rw [State.txChoose_of_rest _ .w hw, State.txChoose_formReply]

/-- A request that arrives at a link ready to take it is dispatched at once (R4, R6). -/
theorem State.submit_of_takes {s : State} {m : Side} (h : s.TakesRequest m) (k : RequestKind) (note : Bool)
    (p : List Byte) : s.submit m k note p = s.dispatchRequest m k note p := by
  obtain ⟨-, hq, hs, hr⟩ := h
  have hk : kindOfCode k.code = some k := by cases k <;> decide
  have e : (s.onLink m fun l => l.offer (.request k.code note p)).onLink m (fun l => { l with queue := [] }) = s := by
    have el : { (s.link m).offer (.request k.code note p) with queue := [] } = s.link m := by
      generalize s.link m = l at hq
      cases l
      simp_all [Link.offer]
    rw [State.onLink_onLink]
    exact (State.onLink_congr s m el).trans (s.onLink_self m)
  have hl : (s.onLink m fun l => l.offer (.request k.code note p)).link m =
      { s.link m with queue := [.request k.code note p] } := by
    rw [State.link_onLink_same]
    simp [Link.offer, hq]
  unfold State.submit
  simp only [hq, List.isEmpty_nil, if_true]
  unfold State.dispatchHead
  simp only [hl, Link.free, hs, hr, Option.isNone_none, Bool.and_self, if_true]
  rw [e]
  simp [State.dispatchEntry, hk]

/-- A served request whose owner answers DONE and leaves a settled state. -/
theorem State.submit_done {s t : State} {m : Side} (h : s.TakesRequest m) (k : RequestKind) (note : Bool)
    (p : List Byte) (r : List Byte) (hr : s.linkRefusal m k p = none) (hk : k ≠ .status)
    (hh : s.handle m k p = (.done r, t)) (ht : t.Settled) :
    (s.submit m k note p).settle = t.answered m k (.done r) note := by
  rw [State.submit_of_takes h, State.dispatchRequest, hr]
  simp only [State.serveRequest, hh]
  rw [State.settleArb_of_not_due _ ht.1]
  cases k <;> first
    | exact absurd rfl hk
    | exact State.settle_formReply ht _ _ _ _

/-- A request refused by its owner. -/
theorem State.submit_refused {s t : State} {m : Side} (h : s.TakesRequest m) (k : RequestKind) (note : Bool)
    (p : List Byte) (r : Reason) (hr : s.linkRefusal m k p = none) (hh : s.handle m k p = (.refused r, t))
    (ht : t.Settled) : (s.submit m k note p).settle = t.refuses m k r note := by
  rw [State.submit_of_takes h, State.dispatchRequest, hr]
  simp only [State.serveRequest, hh]
  rw [State.settleArb_of_not_due _ ht.1]
  exact State.settle_formReply ht _ _ _ _

/-- A request refused by the link's own checks. -/
theorem State.submit_link_refused {s : State} {m : Side} (h : s.TakesRequest m) (k : RequestKind) (note : Bool)
    (p : List Byte) (r : Reason) (hr : s.linkRefusal m k p = some r) :
    (s.submit m k note p).settle = s.refuses m k r note := by
  rw [State.submit_of_takes h, State.dispatchRequest, hr]
  exact State.settle_formReply h.1.2 _ _ _ _

end Sys2Proof.Machine
end

