-- ==== Sys2Proof/Tests/Slice0.lean ====
section
/-! SUPPORT. Tests on the worked examples of the spec, the refusals of WellFormed, and a witness for the hypotheses of every
statement that has some. Expected values are the spec's, or worked by hand from its tables. -/

open Sys2Proof Sys2Proof.Machine

namespace Sys2Proof.Tests

/-! ### Helpers -/

/-- The state a command leads to. -/
def after (c : Instr) (s : State) : State :=
  match exec c s with
  | .next t => t
  | _ => s

/-- A part that is READY with a failed store, both machines attached, the washer holding focus. -/
def base : State :=
  { State.reset with
    partState := .ready, focus := some .w, ctx := .both attachedContext,
    store := { State.reset.store with check := .idle, port := .idle } }

/-- A CHIME of the washer with id 1 and the scene of slot 0, WAITING. -/
def cue : Cue :=
  { uid := 0, id := 1, origin := .machine .w, cls := .chime, group := 0, deadline := none, repeats := 0, gapLength := 0,
    speech := none, tone := none, scene := some 0, lamp := none, hold := 1, state := .waiting, phase := none,
    preempts := 0, repeatsLeft := 0, flags := noFlags, endCause := none, deadlinePassed := false, posting := 0,
    outcome := none, latestStart := 0, speechPlays := false, utteranceEnded := false, patternEnded := false,
    holdTimer := none, gapTimer := none, fade := none }

/-- The part with one cue, in slot 0. -/
def withCue (c : Cue) : State := base.setCue (.slot 0) (some c)

/-- What `State.AtRest` asks, as a test. -/
def restful (s : State) : Bool :=
  !s.resetHeld && !s.sched.arbDue && !s.checkCanBegin && (s.store.port ≠ .idle || (!s.eligibleS && !s.eligibleG)) &&
    ((s.link .w).tx ≠ .idle || ((s.link .w).reply = none && (s.link .w).available = [])) &&
    ((s.link .d).tx ≠ .idle || ((s.link .d).reply = none && (s.link .d).available = []))

theorem atRest_of_restful {s : State} (h : restful s = true) : s.AtRest := by
  simp only [restful, Bool.and_eq_true, Bool.or_eq_true, Bool.not_eq_true', decide_eq_true_eq] at h
  obtain ⟨⟨⟨⟨⟨h1, h2⟩, h3⟩, h4⟩, h5⟩, h6⟩ := h
  exact ⟨h1, h2, h3, fun e => (h4.resolve_left fun n => n e), fun e => h5.resolve_left fun n => n e,
    fun e => h6.resolve_left fun n => n e⟩

/-- What `State.ServesRequest` asks, as a test. -/
def serving (s : State) (m : Side) : Bool :=
  restful s && (s.link m).queue = [] && (s.link m).inService = none && (s.link m).reply = none && s.partState = .ready &&
    s.attached m

theorem serves_of_serving {s : State} {m : Side} (h : serving s m = true) : s.ServesRequest m := by
  simp only [serving, Bool.and_eq_true, decide_eq_true_eq] at h
  obtain ⟨⟨⟨⟨⟨h1, h2⟩, h3⟩, h4⟩, h5⟩, h6⟩ := h
  exact ⟨⟨atRest_of_restful h1, h2, h3, h4⟩, h5, h6⟩

/-- A property of every occupied slot is a test of the table. -/
theorem forall_cues {s : State} {P : Fin 24 → Cue → Prop} [∀ i c, Decidable (P i c)]
    (h : (List.finRange 24).all (fun i => (s.sched.table[i]).all fun c => decide (P i c)) = true) :
    ∀ (i : Fin 24) c, s.sched.table[i] = some c → P i c := by
  intro i c hc
  have := List.all_eq_true.1 h i (List.mem_finRange i)
  rw [hc] at this
  exact of_decide_eq_true this

/-- A property of every playing holder of an unreserved voice is a test of the voices. -/
theorem forall_holders {s : State} {P : Fin 4 → Cue → Prop} [∀ w c, Decidable (P w c)]
    (h : (List.finRange 4).all (fun w => match (s.sched.voices[w]).holder with
      | some r => (s.cue? r).all fun y => decide (P w y)
      | none => true) = true) :
    ∀ (w : Fin 4) r y, s.sched.voices[w] = ⟨some r, none⟩ → s.cue? r = some y → P w y := by
  intro w r y hr hy
  have := List.all_eq_true.1 h w (List.mem_finRange w)
  rw [hr] at this
  simp only [hy] at this
  exact of_decide_eq_true this

/-- A cue that may hold resources, as a test. -/
def held (s : State) (r : CueRef) : Bool := (s.cue? r).any fun c => c.state = .playing || c.state = .ending

/-- What `State.ResourceLaws` asks, as a test. -/
def lawful (s : State) : Bool :=
  (s.sched.path.holder).all (fun r => held s r && r ≠ .feedback) &&
    (List.finRange 4).all (fun v => (s.sched.voices[v]).holder.all fun r => held s r && decide (v = 0 ↔ r = .feedback) &&
      r ≠ .narration && (List.finRange 4).all fun w => v = w || (s.sched.voices[w]).holder ≠ some r) &&
    (s.sched.voices[(0 : Fin 4)]).reservation = none && (s.sched.narration.pending).all (fun c => c.tone = none) &&
    (s.sched.feedback.pending).all fun c => c.speech = none

theorem laws_of_lawful {s : State} (h : lawful s = true) : s.ResourceLaws := by
  have may {r : CueRef} (hr : held s r = true) : s.mayHold r := by
    obtain ⟨c, hc, hp⟩ := (Option.any_eq_true _ _).1 hr
    exact ⟨c, hc, by simpa using hp⟩
  simp only [lawful, Bool.and_eq_true, Option.all_eq_true, List.all_eq_true, List.mem_finRange, true_imp_iff,
    Bool.or_eq_true, decide_eq_true_eq] at h
  obtain ⟨⟨⟨⟨h1, h2⟩, h3⟩, h4⟩, h5⟩ := h
  refine ⟨fun r hr => ⟨may (h1 r hr).1, (h1 r hr).2⟩, fun v r hr => ?_, fun v w r hv hw => ?_, h3, h4, h5⟩
  · exact ⟨may (h2 v r hr).1.1.1, (h2 v r hr).1.1.2, (h2 v r hr).1.2⟩
  · exact ((h2 v r hv).2 w).resolve_right fun n => n hw

/-! ### WellFormed -/

theorem test_wf_payload_of_97_refused : (Instr.sceneWrite .w false (List.replicate 97 0)).wf = false := by decide
theorem test_wf_flash_out_of_order_refused : (Instr.checkEnd ⟨0, [(1, 1), (0, 1)]⟩).wf = false := by decide
theorem test_wf_flash_above_24_bits_refused : (Instr.storeBurstEnd ⟨0, [(16777216, 1)]⟩).wf = false := by decide
theorem test_wf_flash_cell_equal_to_fill_refused : (Instr.checkEnd ⟨7, [(3, 7)]⟩).wf = false := by decide
theorem test_wf_order_named_twice_refused : (Instr.inputSample 0 [.start, .start]).wf = false := by decide
theorem test_no_word_spells_a_command : decodeTableWord 8 0xC5 = none := rfl

/-! ### Worked examples of the spec -/

/-- The table under R104: columns ORDER 0 JOIN 0, ORDER 0 JOIN 1, ORDER 1 JOIN 0, ORDER 1 JOIN 1. -/
theorem test_number_expansions :
    numberCodes false false 0 = [0] ∧ numberCodes true true 19 = [19] ∧ numberCodes true true 40 = [22] ∧
      numberCodes false false 47 = [22, 7] ∧ numberCodes true false 47 = [7, 30, 22] ∧
      numberCodes false true 300 = [3, 28] ∧ numberCodes false true 305 = [3, 28, 30, 5] ∧
      numberCodes true false 305 = [3, 28, 5] ∧ numberCodes false true 1005 = [1, 29, 30, 5] ∧
      numberCodes false false 1234 = [1, 29, 2, 28, 21, 4] ∧ numberCodes true false 1234 = [1, 29, 2, 28, 4, 30, 21] ∧
      numberCodes true true 9999 = [9, 29, 9, 28, 30, 9, 30, 27] := by decide

/-- Section 6.9: 125 minutes with ORDER 0 and JOIN 1. -/
theorem test_remaining_125 : remainingCodes false true 125 = [2, 35, 30, 5, 33] := by decide

/-- The gains of section 9.6, its fade and its example of truncation in R147. -/
theorem test_gains :
    effectiveGain 192 128 448 256 256 = 168 ∧ effectiveGain 160 256 448 64 256 = 70 ∧
      effectiveGain 192 128 448 256 240 = 157 ∧ effectiveGain 256 45 512 256 256 = 90 ∧
      effectiveGain 160 45 300 256 256 = 32 ∧ boostFactor 1000 = 448 ∧ boostFactor 1199 = 511 ∧
      contribution (-3) 168 = -2 ∧ contribution (-6080) 168 = -3990 := by decide

/-- The duties of section 9.6. -/
theorem test_duties : dutyOf 1400 8 = 533 ∧ dutyOf 1610 8 = 537 ∧ dutyOf 32767 8 = 1016 ∧ dutyOf (-32768) 8 = 8 := by decide

/-- Section 7.6, events 1, 6, 24 and 26. -/
theorem test_stream_values :
    let e : UttEntry := .fragment ⟨0, 3, 6, 1⟩
    let st : Stream := { idleStream with state := .playing, ring := [0x9C, 0xA6], bytesLeft := 3, scale := 6 }
    (st.event [e]).out = -6400 ∧
      ({ st with half := .blend, bytesLeft := 0, lastOutput := 2560 }.event [e]).out = 1280 ∧
      ({ st with half := .blend, bytesLeft := 1, scale := 0, lastOutput := 4, ring := [0xFD] }.event [e]).out = 0 ∧
      ({ st with half := .blend, bytesLeft := 0, scale := 0, lastOutput := -3, ring := [] }.event [e]).out = -2 := by decide

/-- "2:05" and "16:39" of R159. -/
theorem test_time_glyphs :
    timeGlyphs 125 = [.code 0x32, .code 0x3A, .code 0x30, .code 0x35] ∧
      timeGlyphs 999 = [.code 0x31, .code 0x36, .code 0x3A, .code 0x33, .code 0x39] := by decide

/-- The TONE_DEFINE of section 8.8. -/
theorem test_tone_define_example :
    (after (.toneDefine .w false
      [9, 20, 0x80, 0x64, 0x00, 0xC8, 0, 0x00, 0x00, 0x00, 0x32, 30, 0x61, 0xA8, 0x93, 0x88, 12, 0x7C, 0xF3])
      base).tone.patterns[(9 : Fin 32)] =
      some { loops := 15, steps := [⟨125, 125, 1, 12, true, false⟩, ⟨0, 0, 30, 7, false, false⟩,
        ⟨20000, 5000, 12, 3, false, true⟩] } := by decide +kernel

/-- What section 8.8 hears of step 0 and step 2 of that pattern. -/
theorem test_wave_example :
    (ToneStep.mk 125 125 1 12 true false).wave 249 = .high ∧ (ToneStep.mk 20000 5000 12 3 false true).wave 4999 = .low ∧
      (ToneStep.mk 20000 5000 12 3 false true).wave 5000 = .high ∧ (ToneStep.mk 0 0 30 7 false false).wave 0 = .silent := by
  decide

/-- Section 2.9, first row: 10 programs with index 7 become 5, a code of 1500 becoming 1023. -/
theorem test_programs_example :
    let c := ((after (.programs .w false [5, 1, 0xFF, 0, 1, 0, 2, 0, 3, 0, 4, 0x05, 0xDC])
      (base.onCtx .w fun c => { c with programs := List.replicate 10 5, index := 7 })).context .w)
    c.programs = [1, 2, 3, 4, 1023] ∧ c.index = 4 ∧ c.wrap = true ∧ c.idleScene = none := by decide

/-- Section 2.9, second row: an index of 9 against 5 programs becomes 4. -/
theorem test_context_index_clamped :
    ((after (.context .w false [2, 0, 30, 0, 0, 40, 9])
      (base.onCtx .w fun c => { c with programs := [1, 2, 3, 4, 5] })).context .w).index = 4 := by decide

/-- Section 2.9, fourth row: LEN 13 with a count byte of 6 is FORMAT. -/
theorem test_programs_len_refused :
    (((after (.programs .w false [6, 0, 0xFF, 0, 1, 0, 2, 0, 3, 0, 4, 0, 5]) base).link .w).reply).map (·.body) =
      some (.refused .format) := by decide

/-- The frame of a STATUS request with LEN 0 (section 1.9): 0xC5, 0, 0x02 and the CHECK 0xFE that makes the sum 0. -/
theorem test_status_frame_received :
    (receiveAll .w [0xC5, 0x00, 0x02, 0xFE] State.reset).map (fun s => (s.link .w).queue) =
      some [.request 0x02 false []] := by decide

/-- The same frame with a wrong CHECK is a bad-check entry (R4). -/
theorem test_bad_check_received :
    (receiveAll .w [0xC5, 0x00, 0x02, 0xFF] State.reset).map (fun s => (s.link .w).queue) = some [.badCheck] := by decide

/-- R1 and R3: LEN 96 begins a body, LEN 97 is oversize with FRAMING. -/
theorem test_len_boundary :
    let l (c : Byte) := ((after (.characterReceived .w c)
      (State.reset.onLink .w fun l => { l with asm := .length })).link .w)
    (l 96).asm = .body 96 [] ∧ (l 96).fault = false ∧ (l 97).asm = .discard ∧ (l 97).causes.framing = true := by decide

/-- The bytes of the DONE frame that answers CUE_POST with the note flag set and FOCUS alone true (section 1.9, R11). -/
theorem test_reply_bytes :
    (TxFrame.reply { echo := 0x10, body := .done [], condition := some 4 }).bytes = [0xC5, 2, 0xE0, 0x10, 4, 0x0A] := by
  decide

/-- Section 1.7, frame 6: the fifth waiting frame is lost with OVERRUN. -/
theorem test_overrun :
    let s := base.onLink .w fun l =>
      { l with inService := some ⟨.sceneFromStore, false⟩, queue := List.replicate 4 .badCheck }
    ((after (.cueCancel .w false [0, 7]) s).link .w).causes.overrun = true ∧ s.readyLine .w = false := by decide

/-- R35: a focus change to a holder in assist mode sets the narration entry. -/
theorem test_claim_narrates :
    let t := after (.focusClaim .d false []) (base.onCtx .d fun c => { c with assist := true })
    t.focus = some .d ∧ t.sched.narration.current.map (·.state) = some .playing := by decide

/-- R112: the list is cut at 48 entries and the result is partial. -/
theorem test_list_cut :
    let a := base.assembleItems attachedContext (List.replicate 49 (.pause 3))
    a.entries.length = 48 ∧ a.isPartial = true := by decide +kernel

/-- Section 4.10: ALARM 6 with speech and tone preempts PROMPT 20 and the CHIME that started later. -/
theorem test_alarm_over_full_voices :
    let prompt : Cue := { cue with uid := 20, id := 20, origin := .machine .d, cls := .prompt, scene := none,
                                   speech := some [.fragment 90], tone := some ⟨0, .after⟩, speechPlays := true,
                                   state := .playing, phase := some .main }
    let chime5 : Cue := { cue with uid := 5, id := 5, tone := some ⟨1, .together⟩, scene := none, state := .playing,
                                   phase := some .main, latestStart := 1 }
    let chime21 : Cue := { chime5 with uid := 21, id := 21, origin := .machine .d, latestStart := 2 }
    let alarm : Cue := { prompt with uid := 6, id := 6, origin := .machine .w, cls := .alarm, tone := some ⟨3, .together⟩,
                                     state := .waiting, phase := none }
    let s : State := { base with
      store := { base.store with state := .ok, catalog := some ⟨4096, [⟨false, false, []⟩], []⟩ },
      sched := { base.sched with
        table := (((base.sched.table.set 0 (some prompt)).set 1 (some chime5)).set 2 (some chime21)).set 3 (some alarm),
        path := ⟨some (.slot 0), none⟩,
        voices := ((base.sched.voices.set 1 ⟨some (.slot 0), none⟩).set 2 ⟨some (.slot 1), none⟩).set 3
          ⟨some (.slot 2), none⟩ } }
    let t := s.arbitrate
    (t.cue? (.slot 0)).map (fun c => (c.state, c.endCause, c.preempts)) = some (.ending, some .preempted, 1) ∧
      (t.cue? (.slot 1)).map (·.state) = some .playing ∧
      (t.cue? (.slot 2)).map (fun c => (c.state, c.endCause, c.preempts)) = some (.ending, some .displaced, 1) ∧
      t.sched.path.reservation = some (.slot 3) ∧ (t.sched.voices[(3 : Fin 4)]).reservation = some (.slot 3) := by decide

/-- R171: an edge −1 on a count of +3 leaves −1; the fourth edge forward is a detent. -/
theorem test_edges :
    countEdge 3 (-1) = -1 ∧
      ({ State.reset.panel with edgeCount := 3 }.encoderStep true false).2 = some true := by decide

/-- R169: a proximity edge on a dimmed backlight wakes it. -/
theorem test_proximity_wakes :
    (base.onDisplay fun d => { d with backlight := .dimmed }).proximityInput.display.backlight = .full := by decide

/-- R92: a blank flash fails the check at its mark. -/
theorem test_blank_store_fails : runCheck ⟨0xFF, []⟩ = none := by decide

/-- R17 right after a power reset, from an unattached machine: part STARTING 0, store FAILED 1, stage DISABLED, nobody's focus. -/
theorem test_status_after_reset :
    ((after (.status .w false []) State.reset).link .w).reply.map (·.body) =
      some (.done [0, 1, 0, 0, 0, 0, 0, 0, 0, 0, 0, 0]) := by decide +kernel

/-- R18: an ATTACH while STARTING is answered with part version 1 and language count 0, and gets focus. -/
theorem test_attach_after_reset :
    let t := after (.attach .d false []) State.reset
    (t.link .d).reply.map (·.body) = some (.done [1, 0]) ∧ t.focus = some .d ∧ t.attached .d = true := by decide +kernel

/-- R131: the ALARM and TICK patterns. -/
theorem test_built_in_patterns :
    State.reset.tone.patterns[(3 : Fin 32)] =
        some { loops := 3, steps := [⟨400, 200, 25, 15, false, false⟩, ⟨600, 300, 25, 15, false, false⟩] } ∧
      State.reset.tone.patterns[(7 : Fin 32)] = some { loops := 0, steps := [⟨250, 20, 1, 4, false, false⟩] } ∧
      State.reset.tone.patterns[(8 : Fin 32)] = none := by decide

/-- R166 with the figures of section 2.9: index 7 of 10 lights lamp 8. -/
theorem test_position_lamp :
    let s := base.onCtx .w fun c => { c with programs := List.replicate 10 5, index := 7 }
    s.positionLamp 8 = 48 ∧ s.positionLamp 7 = 4 := by decide

/-- R167: CHASE is back at lamp 0 after 960 ms, PULSE is at its height after 640 ms, FLASH is dark from 250 ms. -/
theorem test_effects :
    effectLamp .chase 48 960 0 = 48 ∧ effectLamp .chase 48 79 0 = 48 ∧ effectLamp .chase 48 80 0 = 0 ∧
      effectLamp .pulse 48 640 5 = 48 ∧ effectLamp .pulse 48 320 5 = 24 ∧ effectLamp .flash 48 250 5 = 0 := by decide

/-- R174 and section 2.9: a detent forward at index 4 of 5 wraps to 0. -/
theorem test_detent_wraps :
    ((after (.inputForce .w false [0, 1, 0])
      (base.onCtx .w fun c => { c with programs := [1, 2, 3, 4, 5], index := 4, wrap := true })).context .w).index = 0 := by
  decide +kernel

/-- R137: a step ends when its counts have run out, before any time passes, and not before. -/
theorem test_step_ends_at_its_count :
    let s (n : Nat) : State := base.onVoice 1 fun _ => { beginVoice 1 patternAccept with countsLeft := n }
    let next (s : State) : State := match step s with
      | .next t => t
      | _ => s
    ((after (.stepEnd 1) (s 1)).tone.voices[(1 : Fin 4)]).stepIndex = 0 ∧
      ((next (s 0)).tone.voices[(1 : Fin 4)]).stepIndex = 1 ∧ (next (s 0)).now = 0 ∧
      ((next (s 1)).tone.voices[(1 : Fin 4)]).countsLeft = 0 := by decide

/-- R125: the last blend of an utterance whose trailing silence is 0 leaves section TRAILING behind. -/
theorem test_last_blend_leaves_trailing :
    let e := ({ idleStream with state := .playing, half := .blend, lastOutput := 60 }.event [.fragment ⟨0, 3, 6, 0⟩])
    e.ended = true ∧ e.out = 30 ∧ e.stream.part = .trailing ∧ e.stream.state = .idle := by decide

/-- R153: a level the sense pin takes while the reset input is low trips the stage when it is driven after the reset. -/
theorem test_sense_taken_under_reset :
    let s := after (.powerReset false) (after (.overCurrentTrip true) (after (.powerReset true) base))
    s.mixer.sense = true ∧ s.enterDriving.mixer.stage = .tripped := by decide

/-- R158: row 0 goes first, its leftmost dot in bit 7 of the first byte. -/
theorem test_transfer_bytes :
    let d := { resetDisplay with frame := resetDisplay.frame.set 0 (1#128 <<< 127 ||| 1), transfer := .sending }
    d.sending?.map (fun b => (b.length, b.getD 0 0, b.getD 1 0, b.getD 15 0, b.getD 16 0)) =
      some (512, 0x80, 0, 1, 0) := by decide +kernel

/-- R169: the feedback cue of an input of the proximity edge's sample replaces WAKE before it starts, in whichever order, also when an input
without one comes between. -/
theorem test_proximity_with_volume :
    let s := (base.onDisplay fun d => { d with backlight := .dimmed }).onPanel fun p =>
      { p with sampled := true, lines := ((p.lines.set 3 ⟨false, 15⟩).set 7 ⟨false, 15⟩).set 9 ⟨false, 15⟩ }
    ∀ order ∈ [[InputClass.proximity, .start, .volume], [.volume, .proximity]],
      let t := after (.inputSample 0x288 order) s
      t.sched.feedback.current.map (fun c => (c.tone, c.state)) = some (some ⟨acceptPattern, .together⟩, .playing) ∧
        t.sched.feedback.pending = none := by
  intro s order ho
  fin_cases ho <;> decide +kernel

/-! ### Witnesses: states and operands that meet the hypotheses of each statement, one for each of its clauses -/

theorem base_serves_w : base.ServesRequest .w := serves_of_serving (by decide)
theorem base_serves_d : base.ServesRequest .d := serves_of_serving (by decide)
theorem base_rests : base.AtRest := base_serves_w.1.1
theorem reset_takes : State.reset.TakesRequest .w := ⟨atRest_of_restful (by decide), rfl, rfl, rfl⟩

/-- The part with its W link changed. -/
def onW (f : Link → Link) : State := base.onLink .w f

theorem witness_StepTakesFront :
    ∃ (c : Instr) (rest : List Instr) (s : State), s.pending = c :: rest :=
  ⟨.checkBegin, [.duckTick], { base with pending := [.checkBegin, .duckTick] }, rfl⟩

/-- An empty queue with a voice at its last count; a voice whose step is over beside one that plays on; and a command and an empty queue
under a held reset. -/
theorem witness_TimeAndHeldReset :
    (∃ s : State, s.pending = [] ∧ s.resetHeld = false ∧
      (∀ v : Fin 4, (s.tone.voices[v]).playing = true → (s.tone.voices[v]).countsLeft ≠ 0) ∧
      (s.tone.voices[(1 : Fin 4)]).step? ≠ none ∧ (s.tone.voices[(1 : Fin 4)]).countsLeft = 1) ∧
    (∃ s : State, s.pending = [] ∧ (s.tone.voices[(2 : Fin 4)]).playing = true ∧
      (s.tone.voices[(2 : Fin 4)]).countsLeft = 0 ∧ (s.tone.voices[(1 : Fin 4)]).playing = true ∧
      ∀ w : Fin 4, w < 2 → (s.tone.voices[w]).playing = true → (s.tone.voices[w]).countsLeft ≠ 0) ∧
    ∃ (c : Instr) (s : State), s.resetHeld = true ∧ s.pending = [] ∧ (∀ b, c ≠ .powerReset b) ∧
      ∀ a, c ≠ .overCurrentTrip a :=
  ⟨⟨base.onVoice 1 fun _ => { beginVoice 1 patternAccept with countsLeft := 1 }, rfl, rfl, by decide, by decide, by decide⟩,
   ⟨(base.onVoice 1 fun _ => beginVoice 1 patternAccept).onVoice 2 fun _ =>
      { beginVoice 1 patternAccept with countsLeft := 0 }, rfl, by decide, by decide, by decide, by decide⟩,
   .duckTick, { base with resetHeld := true }, rfl, rfl, by simp, by simp⟩

theorem witness_ReceptionTable : ∃ s : State, s.resetHeld = false := ⟨base, rfl⟩

theorem witness_WholeFrameJoinsQueue :
    ∃ (s : State) (m : Side) (payload : List Byte), s.resetHeld = false ∧ payload.length ≤ 96 ∧ payload.length = 96 ∧
      (s.link m).asm = .search ∧ (s.link m).queue.length < 4 ∧ (s.link m).queue.length = 3 :=
  ⟨onW fun l => { l with queue := List.replicate 3 .badCheck }, .w, List.replicate 96 0, rfl, by simp, by simp, rfl,
    by decide, rfl⟩

/-- The five checks of R7, each met: a bad-check entry, code 0, STARTING, not attached, a LEN of 1 for FENCE. -/
theorem witness_DispatchChecksAndTurns :
    (∃ s : State, s.AtRest ∧ (s.link .w).inService = none ∧ (s.link .w).reply = none ∧ (s.link .w).queue = [.badCheck]) ∧
    (∃ s : State, s.AtRest ∧ (s.link .w).inService = none ∧ (s.link .w).reply = none ∧
      (s.link .w).queue = [.request 0 false []] ∧ kindOfCode 0 = none) ∧
    (∃ s : State, s.AtRest ∧ (s.link .w).inService = none ∧ (s.link .w).reply = none ∧
      (s.link .w).queue = [.request 0x13 false []] ∧ kindOfCode 0x13 = some .fence ∧ s.partState = .starting) ∧
    (∃ s : State, s.AtRest ∧ (s.link .w).inService = none ∧ (s.link .w).reply = none ∧
      (s.link .w).queue = [.request 0x13 false []] ∧ s.partState = .ready ∧ s.attached .w = false) ∧
    ∃ s : State, s.AtRest ∧ (s.link .w).inService = none ∧ (s.link .w).reply = none ∧
      (s.link .w).queue = [.request 0x13 false [0]] ∧ s.partState = .ready ∧ s.attached .w = true ∧
      lenAllowed .fence [0] = false :=
  ⟨⟨onW fun l => { l with queue := [.badCheck] }, atRest_of_restful (by decide), rfl, rfl, rfl⟩,
   ⟨onW fun l => { l with queue := [.request 0 false []] }, atRest_of_restful (by decide), rfl, rfl, rfl, by decide⟩,
   ⟨State.reset.onLink .w fun l => { l with queue := [.request 0x13 false []] }, atRest_of_restful (by decide), rfl, rfl,
     rfl, by decide, rfl⟩,
   ⟨{ onW fun l => { l with queue := [.request 0x13 false []] } with ctx := State.reset.ctx, focus := none },
     atRest_of_restful (by decide), rfl, rfl, rfl, rfl, rfl⟩,
   ⟨onW fun l => { l with queue := [.request 0x13 false [0]] }, atRest_of_restful (by decide), rfl, rfl, rfl, rfl, rfl,
     rfl⟩⟩

/-- A request in service, a reply in its slot, an empty queue; a queue of 3 and of 4 entries behind a request in service; and one
request queued at a free link. -/
theorem witness_DispatchChecksAndTurns_turns :
    (∃ s : State, s.AtRest ∧ (s.link .w).inService ≠ none) ∧ (∃ s : State, s.AtRest ∧ (s.link .w).reply ≠ none) ∧
    (∃ s : State, s.AtRest ∧ (s.link .w).queue = []) ∧ (∃ s : State, s.AtRest ∧ (s.link .w).queue.length = 3) ∧
    (∃ s : State, s.AtRest ∧ (s.link .w).queue.length = 4) ∧
    ∃ (s : State) (m : Side) (k : RequestKind), s.resetHeld = false ∧ (s.link m).inService = none ∧
      (s.link m).reply = none ∧ (s.link m).queue = [.request k.code true []] :=
  ⟨⟨onW fun l => { l with inService := some ⟨.storeCheck, false⟩ }, atRest_of_restful (by decide), by decide⟩,
   ⟨onW fun l => { l with reply := some ⟨0x13, .done [], none⟩, tx := .sending (.reply ⟨0x13, .done [], none⟩) },
     atRest_of_restful (by decide), by decide⟩,
   ⟨base, base_rests, rfl⟩,
   ⟨onW fun l => { l with inService := some ⟨.storeCheck, false⟩, queue := List.replicate 3 .badCheck },
     atRest_of_restful (by decide), rfl⟩,
   ⟨onW fun l => { l with inService := some ⟨.storeCheck, false⟩, queue := List.replicate 4 .badCheck },
     atRest_of_restful (by decide), rfl⟩,
   ⟨onW fun l => { l with queue := [.request 0x13 true []] }, .w, .fence, rfl, rfl, rfl, rfl⟩⟩

/-- A CUE_DONE report of `cue`. -/
def report : DoneReport := { order := 0, uid := 0, id := 1, outcome := .completed, flags := noFlags, preempts := 0 }

/-- The last character of a reply is about to be sent, a FENCE waits in the queue, and the FOCUS mark is set (01 §1.7). -/
def replySent : State := onW fun l =>
  { l with reply := some ⟨0x13, .done [], none⟩, tx := .sending (.reply ⟨0x13, .done [], none⟩),
           queue := [.request 0x13 true []], focusMark := some 0 }

/-- Which frame goes out next depends on which is taken first, the dispatch or the choice (01 §1.7). -/
theorem test_dispatch_or_choice_first :
    ((after (.frameSent .w true) replySent).link .w).tx = .sending (.reply ⟨0x13, .done [], some 4⟩) ∧
    ((after (.frameSent .w false) replySent).link .w).tx = .sending (.focus (some .w)) ∧
    ((after (.frameSent .w false) replySent).link .w).queue.length = 1 := by
  decide

theorem witness_FrameSentReleasesAndChooses :
    (∃ (s : State) (r : Reply), s.resetHeld = false ∧ (s.link .w).tx = .sending (.reply r) ∧
      ({ s.link .w with reply := none }).available = []) ∧
    (∃ (s : State) (r : Reply), s.resetHeld = false ∧ (s.link .w).tx = .sending (.reply r) ∧ (s.link .w).queue.length = 1) ∧
    ∃ (s : State) (r : DoneReport) (rest : List DoneReport) (i : Fin 24) (c : Cue) (reply : Reply),
      s.resetHeld = false ∧ (s.link .w).tx = .sending (.done r) ∧ (s.link .w).done = r :: rest ∧
      (∀ x ∈ rest, x.order ≠ r.order) ∧ (s.link .w).reply = some reply ∧ s.sched.table[i] = some c ∧
      c.state = .reporting ∧ c.uid = r.uid ∧
      ∀ (j : Fin 24) (d : Cue), s.sched.table[j] = some d → d.uid = r.uid → j = i :=
  ⟨⟨onW fun l => { l with reply := some ⟨0x13, .done [], none⟩, tx := .sending (.reply ⟨0x13, .done [], none⟩) },
     ⟨0x13, .done [], none⟩, rfl, rfl, rfl⟩,
   ⟨replySent, ⟨0x13, .done [], none⟩, rfl, rfl, rfl⟩,
   ⟨(withCue { cue with state := .reporting, outcome := some .completed }).onLink .w fun l =>
      { l with done := [report, { report with order := 1, uid := 1, id := 2 }], tx := .sending (.done report),
               reply := some ⟨0x13, .done [], none⟩ },
     report, [{ report with order := 1, uid := 1, id := 2 }], 0, { cue with state := .reporting, outcome := some .completed },
     ⟨0x13, .done [], none⟩, rfl, rfl, rfl, by decide, rfl, by decide, rfl, rfl, forall_cues (by decide)⟩⟩

/-- A reply that waits; nothing left; and two reports with the lower number on the mark. -/
theorem witness_FrameSentReleasesAndChooses_choice :
    (∃ (s : State) (f : TxFrame) (r : Reply), s.resetHeld = false ∧ (s.link .w).tx = .sending f ∧
      ((s.link .w).sent f).reply = some r) ∧
    (∃ (s : State) (f : TxFrame), s.resetHeld = false ∧ (s.link .w).tx = .sending f ∧
      ((s.link .w).sent f).reply = none ∧ ((s.link .w).sent f).available = []) ∧
    ∃ (s : State) (f : TxFrame), s.resetHeld = false ∧ (s.link .w).tx = .sending f ∧
      ((s.link .w).sent f).reply = none ∧ (3, .focus) ∈ ((s.link .w).sent f).available ∧
      (∀ p ∈ ((s.link .w).sent f).available, p ≠ (3, ReportChoice.focus) → 3 < p.1) ∧ (s.link .w).queue = [] :=
  ⟨⟨onW fun l => { l with tx := .sending (.focus none), reply := some ⟨0x13, .done [], none⟩ }, .focus none,
     ⟨0x13, .done [], none⟩, rfl, rfl, rfl⟩,
   ⟨onW fun l => { l with tx := .sending (.focus none) }, .focus none, rfl, rfl, rfl, rfl⟩,
   ⟨onW fun l => { l with tx := .sending (.profile 0 4 4 false), focusMark := some 3, done := [{ report with order := 4 }] },
     .profile 0 4 4 false, rfl, rfl, rfl, by decide, by decide, rfl⟩⟩

/-- The head of two INPUT reports is sent while a reply waits. -/
theorem witness_FrameSentReleasesAndChooses_input :
    ∃ (s : State) (r : InputReport) (rest : List InputReport) (reply : Reply), s.resetHeld = false ∧
      (s.link .w).tx = .sending (.input r) ∧ (s.link .w).inputs = r :: rest ∧ (∀ x ∈ rest, x.order ≠ r.order) ∧
      rest ≠ [] ∧ (s.link .w).reply = some reply :=
  ⟨onW fun l => { l with inputs := [⟨1, .proximity⟩, ⟨2, .key .back .long⟩], tx := .sending (.input ⟨1, .proximity⟩),
                         reply := some ⟨0x13, .done [], none⟩ },
    ⟨1, .proximity⟩, [⟨2, .key .back .long⟩], ⟨0x13, .done [], none⟩, rfl, rfl, rfl, by decide, by decide, rfl⟩

/-- From an unattached machine and while STARTING, and from an attached one. -/
theorem witness_StatusReplyClearsFlags :
    (∃ s : State, s.TakesRequest .w ∧ s.attached .w = false ∧ s.partState = .starting) ∧ ∃ s : State, s.TakesRequest .d :=
  ⟨⟨State.reset, reset_takes, rfl, rfl⟩, base, base_serves_d.1⟩

theorem witness_ContextRequestsWrite : ∃ (s : State) (m : Side), s.ServesRequest m := ⟨base, .w, base_serves_w⟩

/-- The largest list, 24 codes. -/
theorem witness_ContextRequestsWrite_programs :
    ∃ (s : State) (count : Byte) (codes : List Byte), s.ServesRequest .w ∧ codes.length = 2 * count.toNat ∧
      count = 24 := ⟨base, 24, List.replicate 48 0, base_serves_w, by simp, rfl⟩

/-- A catalog of two languages and one usable image. -/
def catalog : Catalog :=
  { sizeBytes := 16384,
    languages := [⟨false, false, List.replicate 1024 ⟨0, 0, 0, 0⟩⟩, ⟨true, true, List.replicate 1024 ⟨0, 0, 0, 0⟩⟩],
    images := [16128, 16129] }

/-- The part with a store that passed its check. -/
def stocked : State := { base with store := { base.store with state := .ok, catalog := some catalog } }

theorem stocked_catalogOk : stocked.store.CatalogOk := by
  refine ⟨by decide, by decide, by decide, by decide, fun l h => ?_⟩
  simp only [catalog, List.mem_cons, List.not_mem_nil, or_false] at h
  rcases h with rfl | rfl <;> exact List.length_replicate

theorem stocked_serves : stocked.ServesRequest .w := serves_of_serving (by decide)

theorem witness_ContextRequestsWrite_band_profile :
    (∃ (s : State) (text : List Byte), s.ServesRequest .w ∧ text.length ≤ 95 ∧ text.length = 95) ∧
    (∃ s : State, s.ServesRequest .w ∧ s.store.CatalogOk ∧ s.store.state = .ok) ∧
    ∃ s : State, s.ServesRequest .w ∧ s.store.CatalogOk ∧ s.store.state = .failed :=
  ⟨⟨base, List.replicate 95 0x41, base_serves_w, by simp, by simp⟩, ⟨stocked, stocked_serves, stocked_catalogOk, rfl⟩,
    base, base_serves_w, trivial, rfl⟩

/-- An IDLE transmitter, a PROFILE report of a panel event of this moment, and one of an earlier moment. -/
theorem witness_ContextRequestsWrite_profile_report :
    (∃ s : State, s.ServesRequest .w ∧ s.store.CatalogOk ∧
      ∀ g v u a, (s.link .w).tx = .sending (.profile g v u a) → (s.link .w).profileShown ≠ some s.now) ∧
    (∃ s : State, s.ServesRequest .w ∧ s.store.CatalogOk ∧ (s.link .w).tx = .sending (.profile 0 5 4 false) ∧
      (s.link .w).profileShown = some s.now) ∧
    ∃ s : State, s.ServesRequest .w ∧ s.store.CatalogOk ∧ (s.link .w).tx = .sending (.profile 0 5 4 false) ∧
      (s.link .w).profileShown ≠ some s.now :=
  ⟨⟨base, base_serves_w, trivial, fun _ _ _ _ h => nomatch h⟩,
   ⟨onW fun l => { l with tx := .sending (.profile 0 5 4 false), profileShown := some 0 }, serves_of_serving (by decide),
     trivial, rfl, rfl⟩,
   { onW (fun l => { l with tx := .sending (.profile 0 5 4 false), profileShown := some 0 }) with now := 1 },
     serves_of_serving (by decide), trivial, rfl, by decide⟩

/-- The washer's VOLUME key held for nearly two seconds. -/
def volumeHeld : State := { base with panel := { base.panel with longTimers := base.panel.longTimers.set 5 (some 0) } }

/-- At level 0 and above it. -/
theorem witness_ContextRequestsWrite_profile_after_event :
    ∀ x ∈ [0, 4], ∃ s : State, s.ServesRequest .w ∧ s.store.CatalogOk ∧ s.focus = some .w ∧ (s.link .w).tx = .idle ∧
      s.panel.longTimers[keyTimer .volume] ≠ none ∧ (s.context .w).volume = x := fun x hx =>
  ⟨volumeHeld.onCtx .w fun c => { c with volume := x }, serves_of_serving (by fin_cases hx <;> decide), trivial, rfl, rfl,
    by simp [volumeHeld, keyTimer, State.onCtx], rfl⟩

/-- R27: VOLUME LONG first, PROFILE second at one moment with an IDLE transmitter: the report carries the request's level 7. One
microsecond later it is too late. -/
theorem test_profile_after_event :
    ((after (.profile .w false [0, 7, 1]) (after (.longPressExpiry .volume) volumeHeld)).link .w).tx =
        .sending (.profile 0 7 4 true) ∧
    ((after (.profile .w false [0, 7, 1]) { after (.longPressExpiry .volume) volumeHeld with now := 1 }).link .w).tx =
        .sending (.profile 0 0 4 false) := by decide +kernel

/-- Nobody holding focus, and the other machine holding it. -/
theorem witness_AttachResetsAndPurges :
    (∃ s : State, s.TakesRequest .w ∧ s.FocusAttached ∧ s.focus = none ∧
      ∀ (i : Fin 24) c, s.sched.table[i] = some c → c.ofMachine .w = false) ∧
    ∃ s : State, s.TakesRequest .d ∧ s.FocusAttached ∧ s.focus = some .w ∧
      ∀ (i : Fin 24) c, s.sched.table[i] = some c → c.ofMachine .d = false :=
  ⟨⟨State.reset, reset_takes, ⟨fun m h => (nomatch h), fun _ m => by cases m <;> rfl⟩, rfl, forall_cues (by decide)⟩,
   ⟨withCue cue, (serves_of_serving (s := withCue cue) (m := .d) (by decide)).1,
     ⟨fun m h => by cases m <;> rfl, fun h => (nomatch h)⟩, rfl, forall_cues (by decide)⟩⟩

/-- A cue of the machine in each group of states, and one of the other machine. -/
theorem witness_AttachResetsAndPurges_purge :
    (∃ s c, State.TakesRequest s .w ∧ s.sched.table[(0 : Fin 24)] = some c ∧ c.ofMachine .w = true ∧ c.state = .gap) ∧
    (∃ s c, State.TakesRequest s .w ∧ s.sched.table[(0 : Fin 24)] = some c ∧ c.ofMachine .w = true ∧ c.state = .playing) ∧
    (∃ s c, State.TakesRequest s .w ∧ s.sched.table[(0 : Fin 24)] = some c ∧ c.ofMachine .w = true ∧ c.state = .ending) ∧
    ∃ s c, State.TakesRequest s .w ∧ s.sched.table[(0 : Fin 24)] = some c ∧ c.ofMachine .w = false :=
  ⟨⟨withCue { cue with state := .gap }, { cue with state := .gap },
      (serves_of_serving (by decide)).1, by decide, rfl, rfl⟩,
   ⟨withCue { cue with state := .playing }, { cue with state := .playing },
      (serves_of_serving (by decide)).1, by decide, rfl, rfl⟩,
   ⟨withCue { cue with state := .ending }, { cue with state := .ending },
      (serves_of_serving (by decide)).1, by decide, rfl, rfl⟩,
   ⟨withCue { cue with origin := .machine .d }, { cue with origin := .machine .d },
      (serves_of_serving (by decide)).1, by decide, rfl⟩⟩

/-- The holder's own claim, a claim 10 s less 1 µs after the holder's last input, one at 10 s. -/
theorem witness_FocusClaimDecides :
    (∃ s : State, s.ServesRequest .w ∧ s.focus = some .w ∧ s.attached .w = true ∧ (s.context .w).assist = false) ∧
    (∃ s : State, s.ServesRequest .d ∧ s.focus = some .w ∧ s.attached .w = true ∧ (s.context .d).assist = false ∧
      (s.context .w).lastInput.any (fun t => s.now < t + 10000000) = true) ∧
    ∃ s : State, s.ServesRequest .d ∧ s.focus = some .w ∧ s.attached .w = true ∧ (s.context .d).assist = false ∧
      (s.context .w).lastInput.any (fun t => s.now < t + 10000000) = false :=
  ⟨⟨base, base_serves_w, rfl, rfl, rfl⟩,
   ⟨{ base.onCtx .w fun c => { c with lastInput := some 1 } with now := 10000000 }, serves_of_serving (by decide), rfl, rfl,
     rfl, rfl⟩,
   ⟨{ base.onCtx .w fun c => { c with lastInput := some 0 } with now := 10000000 }, serves_of_serving (by decide), rfl, rfl,
     rfl, rfl⟩⟩

/-- No cue of the table has a property that a test of the table denies. -/
theorem no_cue {s : State} {P : Cue → Prop} [∀ c, Decidable (P c)]
    (h : (List.finRange 24).all (fun i => (s.sched.table[i]).all fun c => !decide (P c)) = true) :
    ¬∃ (i : Fin 24) (c : Cue), s.sched.table[i] = some c ∧ P c := by
  rintro ⟨i, c, hc, hp⟩
  have := List.all_eq_true.1 h i (List.mem_finRange i)
  rw [hc] at this
  simp [hp] at this

/-- The end of a cue is quiet when tests of the markers, the table and the reservations say so. -/
theorem endsQuietly {s : State} {m : Side} {i : Fin 24} (h1 : s.sched.markers.get m = [])
    (h2 : (List.finRange 24).all (fun j => (s.sched.table[j]).all fun c =>
      decide (j ≠ i → c.ofMachine m = true → c.state ≠ .held)) = true)
    (h3 : s.sched.path.reservation ≠ some (.slot i))
    (h4 : ∀ v : Fin 4, (s.sched.voices[v]).reservation ≠ some (.slot i)) : s.EndsQuietly m i :=
  ⟨h1, forall_cues h2, h3, h4⟩

/-- Two pieces of a phrase, and item types 0 and 5. -/
theorem witness_CuePostRead :
    (∃ (n : Nat) (i : PhraseItem) (is : List PhraseItem) (a b : List Byte), parseItems 1 a = some [i] ∧
      parseItems n b = some is) ∧ ∃ t u : Byte, t = 0 ∧ 4 < u.toNat ∧ u = 5 :=
  ⟨⟨1, .pause 1, [.fragment 1023], [4, 1], [1, 3, 0xFF], by decide, by decide⟩, 0, 5, rfl, by decide, rfl⟩

/-- A CUE_POST payload for id 1 with class, parts, pattern and scene. -/
def post (cls parts pattern scene : Byte) : List Byte := [1, cls, 0, 0, 0, 0, 0, 0, parts, pattern, 0, scene, 0, 0]

/-- Its fields when no part is present. -/
def fields : CuePostReq :=
  { id := 1, cls := .chime, group := 0, lifetime := 0, repeats := 0, gapLength := 0, hold := 1, speech := none,
    tone := none, scene := none, lamp := none }

/-- The part with a table filled by `n` washer cues of ids 2 on and `k` dryer cues. -/
def crowded (n k : Nat) : State :=
  let c (i : Fin 24) (m : Side) : Option Cue := some { cue with uid := i.val, id := i.val + 2, origin := .machine m }
  base.onSched fun sc =>
    { sc with table := Vector.ofFn fun i => if i.val < n then c i .w else if i.val < n + k then c i .d else none }

/-- What the six checks of R40 look at. -/
def inUse (s : State) (m : Side) (r : CuePostReq) : Prop :=
  ∃ (i : Fin 24) (c : Cue), s.sched.table[i] = some c ∧ c.ofMachine m = true ∧ c.id = r.id

/-- FORMAT by an id of 0; then one state and payload for each of the six checks: the seventeenth cue, the twenty-fifth slot, scene
slot 8, and pattern 20 for the washer. -/
theorem witness_CuePostRefusedInOrder :
    (∃ (s : State) (p : List Byte), s.ServesRequest .w ∧ lenAllowed .cuePost p = true ∧ parseCuePost p = none) ∧
    (∃ (s : State) (p : List Byte) (r : CuePostReq), s.ServesRequest .w ∧ lenAllowed .cuePost p = true ∧
      parseCuePost p = some r ∧ r.speech = none ∧ r.tone = none ∧ r.scene = none ∧ r.lamp = none) ∧
    (∃ (s : State) (p : List Byte) (r : CuePostReq), s.ServesRequest .w ∧ lenAllowed .cuePost p = true ∧
      parseCuePost p = some r ∧ r.scene ≠ none ∧ inUse s .w r) ∧
    (∃ (s : State) (p : List Byte) (r : CuePostReq), s.ServesRequest .w ∧ lenAllowed .cuePost p = true ∧
      parseCuePost p = some r ∧ r.scene ≠ none ∧ ¬inUse s .w r ∧ 16 ≤ s.machineCount .w) ∧
    (∃ (s : State) (p : List Byte) (r : CuePostReq), s.ServesRequest .w ∧ lenAllowed .cuePost p = true ∧
      parseCuePost p = some r ∧ r.scene ≠ none ∧ ¬inUse s .w r ∧ s.machineCount .w < 16 ∧
      ∀ i : Fin 24, s.sched.table[i] ≠ none) ∧
    (∃ (s : State) (p : List Byte) (r : CuePostReq), s.ServesRequest .w ∧ lenAllowed .cuePost p = true ∧
      parseCuePost p = some r ∧ ¬inUse s .w r ∧ s.machineCount .w < 16 ∧ ¬(∀ i : Fin 24, s.sched.table[i] ≠ none) ∧
      ∃ k, r.scene = some k ∧ 7 < k) ∧
    ∃ (s : State) (p : List Byte) (r : CuePostReq), s.ServesRequest .w ∧ lenAllowed .cuePost p = true ∧
      parseCuePost p = some r ∧ ¬inUse s .w r ∧ s.machineCount .w < 16 ∧ ¬(∀ i : Fin 24, s.sched.table[i] ≠ none) ∧
      r.scene = none ∧ ∃ k t, r.tone = some (k, t) ∧ 20 ≤ k ∧ k = 20 :=
  ⟨⟨base, 0 :: (post 2 4 0 7).tail, base_serves_w, by decide, by decide⟩,
   ⟨base, post 2 0 0 0, fields, base_serves_w, by decide, by decide +kernel, rfl, rfl, rfl, rfl⟩,
   ⟨withCue cue, post 2 4 0 7, { fields with scene := some 7 }, serves_of_serving (by decide), by decide, by decide +kernel,
     by decide, 0, cue, by decide, rfl, rfl⟩,
   ⟨crowded 16 0, post 2 4 0 7, { fields with scene := some 7 }, serves_of_serving (by decide), by decide, by decide +kernel,
     by decide, no_cue (by decide), by decide⟩,
   ⟨crowded 15 9, post 2 4 0 7, { fields with scene := some 7 }, serves_of_serving (by decide), by decide, by decide +kernel,
     by decide, no_cue (by decide), by decide, by decide⟩,
   ⟨crowded 15 8, post 2 4 0 8, { fields with scene := some 8 }, serves_of_serving (by decide), by decide, by decide +kernel,
     no_cue (by decide), by decide, by decide, 8, rfl, by decide⟩,
   ⟨crowded 15 8, post 2 2 20 0, { fields with tone := some (20, .before) }, serves_of_serving (by decide), by decide,
     by decide +kernel, no_cue (by decide), by decide, by decide, rfl, 20, .before, rfl, by decide, rfl⟩⟩

/-- A post behind the marker that a cue of the machine keeps in place. -/
theorem witness_CuePostTakesSlot_held :
    ∃ (s : State) (p : List Byte) (r : CuePostReq) (tone : Option TonePart) (scene : Option (Fin 8)) (i : Fin 24),
      s.ServesRequest .w ∧ lenAllowed .cuePost p = true ∧ parseCuePost p = some r ∧
      (r.speech ≠ none ∨ r.tone ≠ none ∨ r.scene ≠ none ∨ r.lamp ≠ none) ∧
      (∀ (j : Fin 24) c, s.sched.table[j] = some c → c.ofMachine .w = true → c.id ≠ r.id) ∧ s.machineCount .w < 16 ∧
      s.sched.table[i] = none ∧ (∀ j : Fin 24, j < i → s.sched.table[j] ≠ none) ∧
      r.scene = scene.map (fun k => k.val) ∧ r.tone = tone.map (fun t => (t.pattern.val, t.timing)) ∧
      (∀ t, tone = some t → (s.tone.patterns[t.pattern]).isSome = true ∧
        (t.pattern.val < 8 ∨ (Side.w = .w ∧ t.pattern.val < 20) ∨ (Side.w = .d ∧ 20 ≤ t.pattern.val))) ∧
      ∃ k ∈ s.sched.markers.get .w, k < s.sched.nextPosting.get .w :=
  ⟨(withCue { cue with id := 2 }).onSched fun sc => { sc with markers := ⟨[1], []⟩, nextPosting := ⟨2, 0⟩ },
    post 2 6 7 7, { fields with tone := some (7, .before), scene := some 7 }, some ⟨7, .before⟩, some 7, 1,
    serves_of_serving (by decide), by decide, by decide +kernel, by decide, forall_cues (by decide), by decide, by decide,
    by decide, rfl, rfl, fun t h => by cases h; decide, 1, by decide, by decide⟩

theorem witness_CuePostTakesSlot :
    ∃ (s : State) (p : List Byte) (r : CuePostReq) (tone : Option TonePart) (scene : Option (Fin 8)),
      s.ServesRequest .w ∧ lenAllowed .cuePost p = true ∧ parseCuePost p = some r ∧
      (r.speech ≠ none ∨ r.tone ≠ none ∨ r.scene ≠ none ∨ r.lamp ≠ none) ∧
      (∀ (j : Fin 24) c, s.sched.table[j] = some c → c.ofMachine .w = true → c.id ≠ r.id) ∧ s.machineCount .w < 16 ∧
      s.machineCount .w = 15 ∧ (∃ i : Fin 24, s.sched.table[i] = none) ∧ r.scene = scene.map (fun k => k.val) ∧
      r.tone = tone.map (fun t => (t.pattern.val, t.timing)) ∧
      ∀ t, tone = some t → (s.tone.patterns[t.pattern]).isSome = true ∧
        (t.pattern.val < 8 ∨ (Side.w = .w ∧ t.pattern.val < 20) ∨ (Side.w = .d ∧ 20 ≤ t.pattern.val)) :=
  ⟨crowded 15 8, post 0 6 7 7, { fields with cls := .alarm, tone := some (7, .before), scene := some 7 },
    some ⟨7, .before⟩, some 7, serves_of_serving (by decide), by decide, by decide +kernel, by decide, forall_cues (by decide),
    by decide, by decide, ⟨23, by decide⟩, rfl, rfl, fun t h => by cases h; decide⟩

theorem witness_CuePostHoldOnlyStartsAtOnce :
    ∃ (s : State) (p : List Byte) (r : CuePostReq) (scene : Option (Fin 8)) (i : Fin 24),
      s.ServesRequest .w ∧ lenAllowed .cuePost p = true ∧ parseCuePost p = some r ∧ r.speech = none ∧ r.tone = none ∧
      (r.scene ≠ none ∨ r.lamp ≠ none) ∧
      (∀ (j : Fin 24) c, s.sched.table[j] = some c → c.ofMachine .w = true → c.id ≠ r.id) ∧ s.machineCount .w < 16 ∧
      s.sched.table[i] = none ∧ (∀ j : Fin 24, j < i → s.sched.table[j] ≠ none) ∧
      r.scene = scene.map (fun k => k.val) ∧ s.sched.markers.get .w = [] ∧ s.NothingToServe ∧
      s.sched.path.reservation ≠ some (.slot i) ∧ (∀ v : Fin 4, (s.sched.voices[v]).reservation ≠ some (.slot i)) ∧
      r.lamp ≠ none ∧ s.display.ringEffect = none ∧ ∀ (j : Fin 24) c, s.sched.table[j] = some c → c.lamp = none :=
  ⟨withCue { cue with id := 2, state := .playing, phase := some .main }, post 1 12 0 0,
    { fields with cls := .prompt, scene := some 0, lamp := some .chase }, some 0, 1, serves_of_serving (by decide),
    by decide, by decide +kernel, rfl, rfl, by decide, forall_cues (by decide), by decide, by decide, by decide, rfl, rfl,
    ⟨by decide, rfl⟩, by decide, by decide, by decide, rfl, forall_cues (by decide)⟩

/-- Selections that miss: id 2 beside 1, group 15 beside 0, mode 3, group 16; and a cue selected in each group of states. -/
theorem witness_CueCancelByState :
    (∀ p ∈ [((0 : Byte), (2 : Byte)), (1, 15), (3, 0), (1, 16)], (withCue cue).ServesRequest .w ∧
      ∀ (i : Fin 24) c, (withCue cue).sched.table[i] = some c → c.ofMachine .w = true → c.state ≠ .reporting →
        (p.1 = 0 ∧ c.id ≠ p.2.toNat) ∨ (p.1 = 1 ∧ c.group ≠ p.2.toNat) ∨ 2 < p.1.toNat ∨ (p.1 = 1 ∧ 15 < p.2.toNat)) ∧
    ∀ x ∈ [CueState.waiting, .held, .gap, .playing, .ending], ∃ s c, State.ServesRequest s .w ∧
      s.sched.table[(0 : Fin 24)] = some c ∧ c.origin = .machine .w ∧ c.id = (1 : Byte).toNat ∧
      ¬(c.state = .ending ∧ c.endCause = some .purged) ∧ c.state = x ∧ s.EndsQuietly .w 0 ∧
      ∀ (j : Fin 24) d, s.sched.table[j] = some d → d.ofMachine .w = true → d.state ≠ .reporting → d.id = c.id → j = 0 := by
  constructor
  · intro p hp
    refine ⟨serves_of_serving (by decide), ?_⟩
    fin_cases hp <;> exact forall_cues (by decide)
  · intro x hx
    refine ⟨withCue { cue with state := x }, { cue with state := x }, ?_, ?_, rfl, rfl, ?_, rfl, ?_, ?_⟩ <;>
      fin_cases hx <;>
      first
        | exact serves_of_serving (by decide)
        | exact endsQuietly rfl (by decide) (by decide) (by decide)
        | exact forall_cues (by decide)
        | decide

/-- All four cues of the washer, of group 0, in their posting order, beside one in REPORTING and one of the dryer. -/
theorem witness_CancelGroupAndAll :
    ∀ mode ∈ [(1 : Byte), 2], ∃ (s : State) (sel : List (Fin 24 × Cue)), s.ServesRequest .w ∧
      ((mode = 1 ∧ (0 : Byte).toNat ≤ 15) ∨ mode = 2) ∧
      (∀ i c, (i, c) ∈ sel ↔ s.sched.table[(i : Fin 24)] = some c ∧ c.ofMachine .w = true ∧ c.state ≠ .reporting ∧
        (mode = 1 → c.group = (0 : Byte).toNat)) ∧
      sel.Pairwise (fun a b => a.2.posting < b.2.posting) ∧ sel.map (·.2.state) = [.ending, .playing, .held, .waiting] := by
  intro mode hm
  let c (n k : Nat) (st : CueState) (m : Side) : Cue :=
    { cue with uid := n, id := n + 1, origin := .machine m, posting := k, state := st }
  let table : Vector (Option Cue) 24 := (((((base.sched.table.set 0 (some (c 0 5 .waiting .w))).set 1
    (some (c 1 4 .held .w))).set 2 (some (c 2 3 .playing .w))).set 3 (some (c 3 2 .ending .w))).set 4
    (some (c 4 1 .reporting .w))).set 5 (some (c 5 0 .waiting .d))
  let sel : List (Fin 24 × Cue) := [(3, c 3 2 .ending .w), (2, c 2 3 .playing .w), (1, c 1 4 .held .w), (0, c 0 5 .waiting .w)]
  refine ⟨base.onSched fun sc => { sc with table := table }, sel, serves_of_serving (by decide), ?_, fun i x => ⟨?_, ?_⟩,
    by decide, rfl⟩
  · fin_cases hm <;> decide
  · intro h
    have : ∀ p ∈ sel, table[(p.1 : Fin 24)] = some p.2 ∧ p.2.ofMachine .w = true ∧ p.2.state ≠ .reporting ∧ p.2.group = 0 := by
      decide
    exact ⟨(this _ h).1, (this _ h).2.1, (this _ h).2.2.1, fun _ => (this _ h).2.2.2⟩
  · rintro ⟨h1, h2, h3, -⟩
    have : ∀ (j : Fin 24) d, (base.onSched fun sc => { sc with table := table }).sched.table[j] = some d →
        (d.ofMachine .w = true → d.state ≠ .reporting → (j, d) ∈ sel) := forall_cues (by decide)
    exact this i x h1 h2 h3

theorem witness_CueQueryReadsCue :
    (∃ s c, State.ServesRequest s .w ∧ s.sched.table[(0 : Fin 24)] = some c ∧ c.ofMachine .w = true ∧
      c.id = (1 : Byte).toNat ∧
      ∀ (j : Fin 24) d, s.sched.table[j] = some d → d.ofMachine .w = true → d.id = c.id → j = 0) ∧
    ∃ s, State.ServesRequest s .w ∧
      ∀ (i : Fin 24) (c : Cue), s.sched.table[i] = some c → c.ofMachine .w = true → c.id ≠ (2 : Byte).toNat :=
  ⟨⟨withCue cue, cue, serves_of_serving (by decide), by decide, rfl, rfl, forall_cues (by decide)⟩,
    withCue cue, serves_of_serving (by decide), forall_cues (by decide)⟩

/-- Four markers; three markers without and with a live cue. -/
theorem witness_FencesStoreAndRelease :
    (∃ s, State.ServesRequest s .w ∧ 4 ≤ (s.sched.markers.get .w).length) ∧
    (∃ s, State.ServesRequest s .w ∧ (s.sched.markers.get .w).length < 4 ∧
      ¬∃ (i : Fin 24) (c : Cue), s.sched.table[i] = some c ∧ c.ofMachine .w = true ∧ c.state ≠ .reporting) ∧
    ∃ s, State.ServesRequest s .w ∧ (s.sched.markers.get .w).length < 4 ∧ (s.sched.markers.get .w).length = 3 ∧
      ∃ (i : Fin 24) (c : Cue), s.sched.table[i] = some c ∧ c.ofMachine .w = true ∧ c.state ≠ .reporting :=
  ⟨⟨(withCue cue).onSched fun sc => { sc with markers := ⟨[1, 2, 3, 4], []⟩, nextPosting := ⟨5, 0⟩ },
      serves_of_serving (by decide), by decide⟩,
   ⟨withCue { cue with state := .reporting }, serves_of_serving (by decide), by decide, no_cue (by decide)⟩,
   ⟨(withCue cue).onSched fun sc => { sc with markers := ⟨[1, 2, 3], []⟩, nextPosting := ⟨4, 0⟩ },
      serves_of_serving (by decide), by decide, rfl, 0, cue, by decide, rfl, by decide⟩⟩

/-- A cue without a deadline, and one with a deadline in each state. -/
theorem witness_DeadlineExpiresOrIsNoted :
    (∃ s c, State.AtRest s ∧ s.sched.table[(0 : Fin 24)] = some c ∧ c.origin = .machine .w ∧ c.deadline = none) ∧
    ∀ x ∈ [CueState.reporting, .playing, .gap, .ending, .waiting, .held], ∃ s c, State.AtRest s ∧
      s.sched.table[(0 : Fin 24)] = some c ∧ c.origin = .machine .w ∧ c.deadline ≠ none ∧ c.state = x ∧
      s.EndsQuietly .w 0 := by
  constructor
  · exact ⟨withCue cue, cue, atRest_of_restful (by decide), by decide, rfl, rfl⟩
  · intro x hx
    refine ⟨withCue { cue with state := x, deadline := some 5 }, { cue with state := x, deadline := some 5 }, ?_, ?_, rfl,
      by simp, rfl, ?_⟩ <;>
      fin_cases hx <;>
      first
        | exact atRest_of_restful (by decide)
        | exact endsQuietly rfl (by decide) (by decide) (by decide)
        | decide

theorem witness_FencesStoreAndRelease_release :
    ∃ (s : State) (c : Cue), s.AtRest ∧ s.sched.table[(0 : Fin 24)] = some c ∧ c.origin = .machine .w ∧
      c.deadline ≠ none ∧ c.state = .waiting ∧ s.sched.markers.get .w = [1] ∧
      (∃ d : Cue, s.sched.table[(1 : Fin 24)] = some d ∧ d.origin = .machine .w) ∧
      ∀ (j : Fin 24) d, s.sched.table[j] = some d → j ≠ 0 → d.origin = .machine .w → d.state = .held ∧ 1 < d.posting :=
  ⟨(withCue { cue with deadline := some 5 }).onSched fun sc =>
      { sc with markers := ⟨[1], []⟩, nextPosting := ⟨3, 0⟩,
                table := sc.table.set 1 (some { cue with uid := 1, id := 2, state := .held, posting := 2 }) },
    { cue with deadline := some 5 }, atRest_of_restful (by decide), by decide, rfl, by decide, rfl, rfl,
    ⟨{ cue with uid := 1, id := 2, state := .held, posting := 2 }, by decide, rfl⟩, forall_cues (by decide)⟩

/-- A hold-only cue that plays, with its hold timer. -/
def playing (repeats gap : Nat) : Cue :=
  { cue with state := .playing, phase := some .main, holdTimer := some 100000, repeatsLeft := repeats, gapLength := gap }

/-- Nothing waits, and no resource is reserved. -/
theorem nothing {s : State} (h1 : s.candidates = []) (h2 : s.sched.feedback.pending = none) : s.NothingToServe := ⟨h1, h2⟩
theorem unreserved {s : State} {r : CueRef} (h1 : s.sched.path.reservation ≠ some r)
    (h2 : ∀ v : Fin 4, (s.sched.voices[v]).reservation ≠ some r) : s.Unreserved r := ⟨h1, h2⟩

/-- A play with a repeat left and a gap of 0, its deadline passed and not; and a gap after which a cue with neither speech nor tone
starts. -/
theorem witness_HoldAndGapEnd_again :
    (∀ x ∈ [true, false], ∃ s c, State.AtRest s ∧ s.sched.table[(0 : Fin 24)] = some c ∧ c.origin = .machine .w ∧
      c.state = .playing ∧ c.holdTimer ≠ none ∧ s.sched.path.holder ≠ some (.slot 0) ∧ s.voiceOf (.slot 0) = none ∧
      0 < c.repeatsLeft ∧ c.gapLength = 0 ∧ c.deadlinePassed = x ∧ s.EndsQuietly .w 0 ∧ c.cls ≠ .echo ∧ c.speech = none ∧
      c.tone = none ∧ s.NothingToServe ∧ s.Unreserved (.slot 0)) ∧
    ∃ s c, State.AtRest s ∧ s.sched.table[(0 : Fin 24)] = some c ∧ c.origin = .machine .w ∧ c.state = .gap ∧
      c.deadlinePassed = false ∧ c.cls ≠ .echo ∧ c.speech = none ∧ c.tone = none ∧ s.NothingToServe ∧
      s.Unreserved (.slot 0) := by
  constructor
  · intro x hx
    refine ⟨withCue { playing 1 0 with deadlinePassed := x }, { playing 1 0 with deadlinePassed := x }, ?_, ?_, rfl, rfl,
      by simp [playing], ?_, ?_, Nat.one_pos, rfl, rfl, ?_, CueClass.noConfusion, rfl, rfl, ?_, ?_⟩ <;>
      fin_cases hx <;>
      first
        | exact atRest_of_restful (by decide)
        | exact endsQuietly rfl (by decide) (by decide) (by decide)
        | exact nothing (by decide) rfl
        | exact unreserved (by decide) (by decide)
        | decide
  · exact ⟨withCue { cue with state := .gap }, { cue with state := .gap }, atRest_of_restful (by decide), by decide, rfl, rfl,
      rfl, by decide, rfl, rfl, nothing (by decide) rfl, unreserved (by decide) (by decide)⟩

/-- A hold timer that does not run; a last play; a play with a repeat and a gap left; the narration cue; and the cases of the gap's
end in which nothing starts. -/
theorem witness_HoldAndGapEnd :
    (∃ s r c, State.AtRest s ∧ s.cue? r = some c ∧ c.holdTimer = none) ∧
    (∀ q ∈ [(0, 0), (1, 1)], ∃ s c, State.AtRest s ∧ s.sched.table[(0 : Fin 24)] = some c ∧ c.origin = .machine .w ∧
      c.state = .playing ∧ c.holdTimer ≠ none ∧ s.sched.path.holder ≠ some (.slot 0) ∧ s.voiceOf (.slot 0) = none ∧
      c.repeatsLeft = q.1 ∧ c.gapLength = q.2 ∧ s.EndsQuietly .w 0) ∧
    (∃ s c, State.AtRest s ∧ s.sched.narration.current = some c ∧ c.state = .playing ∧ c.holdTimer ≠ none ∧
      s.sched.path.holder ≠ some .narration ∧ s.voiceOf .narration = none) ∧
    (∃ s c, State.AtRest s ∧ s.sched.table[(0 : Fin 24)] = some c ∧ c.origin = .machine .w ∧ c.state ≠ .gap) ∧
    (∃ s c, State.AtRest s ∧ s.sched.table[(0 : Fin 24)] = some c ∧ c.origin = .machine .w ∧ c.state = .gap ∧
      c.deadlinePassed = true ∧ s.EndsQuietly .w 0) ∧
    ∃ s c, State.AtRest s ∧ s.sched.table[(0 : Fin 24)] = some c ∧ c.origin = .machine .w ∧ c.state = .gap ∧
      c.deadlinePassed = false ∧ s.NothingToServe ∧ c.speech ≠ none ∧ s.store.state = .ok ∧ s.store.check ≠ .idle := by
  refine ⟨⟨withCue cue, .slot 0, cue, atRest_of_restful (by decide), by decide, rfl⟩, ?_, ?_, ?_, ?_, ?_⟩
  · intro q hq
    refine ⟨withCue (playing q.1 q.2), playing q.1 q.2, ?_, ?_, rfl, rfl, by simp [playing], ?_, ?_, rfl, rfl, ?_⟩ <;>
      fin_cases hq <;>
      first
        | exact atRest_of_restful (by decide)
        | exact endsQuietly rfl (by decide) (by decide) (by decide)
        | decide
  · exact ⟨base.setCue .narration (some { playing 0 0 with origin := .panel }), { playing 0 0 with origin := .panel },
      atRest_of_restful (by decide), rfl, rfl, by decide, by decide, by decide⟩
  · exact ⟨withCue cue, cue, atRest_of_restful (by decide), by decide, rfl, by decide⟩
  · exact ⟨withCue { cue with state := .gap, deadlinePassed := true }, { cue with state := .gap, deadlinePassed := true },
      atRest_of_restful (by decide), by decide, rfl, rfl, rfl, endsQuietly rfl (by decide) (by decide) (by decide)⟩
  · exact ⟨{ stocked.setCue (.slot 0) (some { cue with state := .gap, speech := some [.pause 1] }) with
        store := { stocked.store with check := .running, port := .check } },
      { cue with state := .gap, speech := some [.pause 1] }, atRest_of_restful (by decide), by decide, rfl, rfl, rfl,
      ⟨by decide, rfl⟩, by decide, rfl, by decide⟩

/-- A cue in its fade. -/
def fading (cause : EndCause) (factor : Nat) (passed : Bool) : Cue :=
  { cue with state := .ending, endCause := some cause, fade := some ⟨factor, 1000⟩, deadlinePassed := passed }

/-- A fade at 17; the end of a purge, a cancel, a displacement and an expiry in preemption at 16; and the end of a fade that holds the
speech path. -/
theorem witness_FadeRunsAndEnds :
    (∃ s r c f, State.AtRest s ∧ s.cue? r = some c ∧ c.state = .ending ∧ c.fade = some f ∧ 16 < f.factor ∧
      f.factor = 17) ∧
    (∀ q ∈ [(EndCause.purged, false), (.cancelled, false), (.displaced, false), (.preempted, true)], ∃ s c f,
      State.AtRest s ∧ s.sched.table[(0 : Fin 24)] = some c ∧ c.origin = .machine .w ∧ c.state = .ending ∧
      c.fade = some f ∧ f.factor ≤ 16 ∧ f.factor = 16 ∧ c.endCause = some q.1 ∧ c.deadlinePassed = q.2) ∧
    ∃ s c f, State.AtRest s ∧ s.sched.table[(0 : Fin 24)] = some c ∧ c.origin = .machine .w ∧ c.state = .ending ∧
      c.fade = some f ∧ f.factor ≤ 16 ∧ s.sched.path.holder = some (.slot 0) ∧ s.voiceOf (.slot 0) = none ∧
      c.endCause = some .cancelled ∧ s.EndsQuietly .w 0 ∧ s.NothingToServe ∧ s.sched.path.reservation = none ∧
      s.store.check = .idle ∧ s.store.chanG = [] ∧ s.store.port = .s := by
  refine ⟨⟨withCue (fading .cancelled 17 false), .slot 0, fading .cancelled 17 false, ⟨17, 1000⟩,
    atRest_of_restful (by decide), by decide, rfl, rfl, by decide, rfl⟩, ?_, ?_⟩
  · intro q hq
    refine ⟨withCue (fading q.1 16 q.2), fading q.1 16 q.2, ⟨16, 1000⟩, ?_, ?_, rfl, rfl, rfl, by decide, rfl, rfl, rfl⟩ <;>
      fin_cases hq <;> first | exact atRest_of_restful (by decide) | decide
  · exact ⟨{ (withCue (fading .cancelled 16 false)).onPath fun x => { x with holder := some (.slot 0) } with
        store := { stocked.store with port := .s } },
      fading .cancelled 16 false, ⟨16, 1000⟩, atRest_of_restful (by decide), by decide, rfl, rfl, rfl, by decide, rfl,
      by decide, rfl, endsQuietly rfl (by decide) (by decide) (by decide), ⟨by decide, rfl⟩, rfl, rfl, rfl, rfl⟩

/-- The part with a cue in slot 0 that holds a voice, whatever the voice plays. -/
def voicing (c : Cue) (v : Fin 4) (x : Voice) : State :=
  ((withCue c).onVoiceRes v fun y => { y with holder := some (.slot 0) }).onVoice v fun _ => x

/-- A preempted cue that needs speech while a check is pending; one with tone alone; a cancelled cue with a voice; and the ends of fades
of the narration and the feedback cue, with nothing and with WAKE pending. -/
theorem witness_FadeEndFreesAndReturns :
    (∃ s c f, State.AtRest s ∧ s.sched.table[(0 : Fin 24)] = some c ∧ c.origin = .machine .w ∧ c.state = .ending ∧
      c.fade = some f ∧ f.factor ≤ 16 ∧ c.endCause = some .preempted ∧ c.deadlinePassed = false ∧ c.speech ≠ none ∧
      s.store.state = .ok ∧ s.store.check ≠ .idle) ∧
    (∃ s c f tone, State.AtRest s ∧ s.sched.table[(0 : Fin 24)] = some c ∧ c.origin = .machine .w ∧ c.state = .ending ∧
      c.fade = some f ∧ f.factor ≤ 16 ∧ c.endCause = some .preempted ∧ c.deadlinePassed = false ∧ c.cls ≠ .echo ∧
      c.speech = none ∧ c.tone = some tone ∧ s.tone.patterns[tone.pattern] = some patternAlarm ∧ s.NothingToServe ∧ s.Unreserved (.slot 0) ∧
      s.sched.path.holder ≠ some (.slot 0) ∧ s.voiceOf (.slot 0) = some 1 ∧
      (s.sched.voices[(1 : Fin 4)]).reservation = none ∧
      ∀ w : Fin 4, w ≠ 0 → w < 1 → s.sched.voices[w] ≠ ⟨none, none⟩) ∧
    (∃ s c f, State.AtRest s ∧ s.sched.table[(0 : Fin 24)] = some c ∧ c.origin = .machine .w ∧ c.state = .ending ∧
      c.fade = some f ∧ f.factor ≤ 16 ∧ c.endCause = some .cancelled ∧ s.sched.path.holder ≠ some (.slot 0) ∧
      s.voiceOf (.slot 0) = some 3 ∧ s.EndsQuietly .w 0 ∧ s.NothingToServe) ∧
    (∃ s c f, State.AtRest s ∧ s.sched.narration = ⟨none, some c⟩ ∧ c.state = .ending ∧ c.fade = some f ∧ f.factor ≤ 16) ∧
    ∀ next ∈ [none, some (panelCue 7 none (some ⟨6, .together⟩))], ∃ s c f, State.AtRest s ∧
      s.sched.feedback = ⟨next, some c⟩ ∧ c.state = .ending ∧ c.fade = some f ∧ f.factor ≤ 16 ∧
      (s.sched.voices[(0 : Fin 4)]).holder = some .feedback ∧ s.sched.path.holder ≠ some .feedback ∧
      s.tone.patterns[(6 : Fin 32)] = some patternWake ∧ s.candidates = [] ∧ s.ResourceLaws := by
  refine ⟨?_, ?_, ?_, ?_, fun next h => ?_⟩
  · exact ⟨{ withCue { fading .preempted 16 false with speech := some [.pause 1] } with
        store := { stocked.store with check := .running, port := .check } },
      { fading .preempted 16 false with speech := some [.pause 1] }, ⟨16, 1000⟩, atRest_of_restful (by decide), by decide, rfl,
      rfl, rfl, by decide, rfl, rfl, by decide, rfl, by decide⟩
  · exact ⟨voicing { fading .preempted 16 false with tone := some ⟨3, .before⟩ } 1 (beginVoice 3 patternAlarm),
      { fading .preempted 16 false with tone := some ⟨3, .before⟩ }, ⟨16, 1000⟩, ⟨3, .before⟩, atRest_of_restful (by decide),
      by decide, rfl, rfl, rfl, by decide, rfl, rfl, by decide, rfl, rfl, by decide, nothing (by decide) rfl,
      unreserved (by decide) (by decide), by decide, by decide, by decide, by decide⟩
  · exact ⟨voicing { fading .cancelled 16 false with tone := some ⟨3, .before⟩ } 3 (beginVoice 3 patternAlarm),
      { fading .cancelled 16 false with tone := some ⟨3, .before⟩ }, ⟨16, 1000⟩, atRest_of_restful (by decide), by decide, rfl,
      rfl, rfl, by decide, rfl, by decide, by decide, endsQuietly rfl (by decide) (by decide) (by decide),
      nothing (by decide) rfl⟩
  · exact ⟨base.setCue .narration (some { fading .preempted 16 false with origin := .panel }),
      { fading .preempted 16 false with origin := .panel }, ⟨16, 1000⟩, atRest_of_restful (by decide), rfl, rfl, rfl,
      by decide⟩
  · refine ⟨(base.onSched fun sc => { sc with
        feedback := ⟨next, some { fading .preempted 16 false with origin := .panel }⟩ }).onVoiceRes 0 fun x =>
          { x with holder := some .feedback },
      { fading .preempted 16 false with origin := .panel }, ⟨16, 1000⟩, ?_, rfl, rfl, rfl, by decide, ?_, ?_, ?_, ?_, ?_⟩ <;>
      fin_cases h <;> first | exact atRest_of_restful (by decide) | exact laws_of_lawful (by decide) | decide

/-- A store of 16384 bytes with one language, whose header is at 25 and whose directory, of zeros, at 32. -/
def goodStore : Flash :=
  { fill := 0, cells := [(0, 0x53), (1, 0x4A), (2, 0x50), (3, 0x53), (5, 4), (6, 1), (10, 25), (23, 1), (24, 0x7E),
                         (28, 32)] }

theorem witness_CatalogCheckTests : ∃ f c, runCheck f = some c :=
  ⟨goodStore, (runCheck goodStore).get (by decide +kernel), by simp⟩

/-- The check of a part with a store that was OK, a waiter on W that gets its DONE, none on D, with and without next waiters. -/
theorem witness_CheckEndHandsOff :
    (∃ s r, State.resetHeld s = false ∧ s.store.check = .running ∧ s.store.nextWaiters = .both false ∧
      s.store.currentWaiters.get .w = true ∧ (s.link .w).inService = some r ∧ r.kind = .storeCheck ∧
      s.store.currentWaiters.get .d = false ∧ s.store.state = .ok ∧ s.attached .d = true ∧ runCheck ⟨0xFF, []⟩ = none) ∧
    ∃ s, State.resetHeld s = false ∧ s.store.check = .running ∧ s.store.nextWaiters ≠ .both false :=
  ⟨⟨{ onW fun l => { l with inService := some ⟨.storeCheck, true⟩ } with
        store := { stocked.store with check := .running, port := .check, currentWaiters := ⟨true, false⟩ } },
      ⟨.storeCheck, true⟩, rfl, rfl, rfl, rfl, rfl, rfl, rfl, rfl, rfl, by decide⟩,
   ⟨{ base with store := { base.store with check := .running, port := .check, nextWaiters := ⟨false, true⟩ } }, rfl, rfl,
      by decide⟩⟩

/-- No check with a free path, with a held path, a pending check and a running one; a pending check that can begin; and one kept waiting by
a burst of channel G, before and after a grant taken first. -/
theorem witness_StoreCheckTakesWaiter :
    (∃ s, State.ServesRequest s .w ∧ s.store.check = .idle ∧ s.sched.path.holder = none ∧
      s.sched.path.reservation = none ∧ s.store.port ≠ .g) ∧
    (∃ s, State.ServesRequest s .w ∧ s.store.check = .idle ∧ s.sched.path.holder ≠ none ∧
      s.sched.path.reservation = none) ∧
    (∃ s, State.ServesRequest s .w ∧ s.store.check = .idle ∧ s.store.port = .g ∧ s.sched.path.reservation = none) ∧
    (∃ s, State.ServesRequest s .w ∧ s.store.check = .pending) ∧
    (∀ x ∈ [none, some 0], ∃ s, State.ServesRequest s .w ∧ s.store.check = .running ∧ s.store.askedAt = x ∧
      (s.store.askedAt = some s.now ↔ x = some 0)) ∧
    (∃ s : State, s.resetHeld = false ∧ s.store.check = .pending ∧ s.sched.path.holder = none ∧
      s.sched.path.reservation = none ∧ s.store.port ≠ .g) ∧
    (∃ s : State, s.resetHeld = false ∧ s.store.check = .pending ∧ s.store.port = .g) ∧
    ∀ first ∈ [false, true], ∃ s x rest, State.AtRest s ∧ s.store.port = .g ∧ s.store.check = .pending ∧
      s.sched.path.holder = none ∧ s.sched.path.reservation = none ∧ s.store.chanG = x :: rest ∧ x.bytesDone < 224 ∧
      x.bytesDone = 192 ∧ s.store.grantedFirst = first :=
  ⟨⟨base, base_serves_w, rfl, rfl, rfl, by decide⟩,
   ⟨(withCue (playing 0 0)).onPath fun x => { x with holder := some (.slot 0) }, serves_of_serving (by decide), rfl,
     by decide, rfl⟩,
   ⟨{ stocked with store := { stocked.store with port := .g, chanG := [⟨.d, 8, 0, 0⟩] } }, serves_of_serving (by decide),
     rfl, rfl, rfl⟩,
   ⟨{ (withCue (playing 0 0)).onPath fun x => { x with holder := some (.slot 0) } with
       store := { stocked.store with check := .pending } }, serves_of_serving (by decide), rfl⟩,
   fun x h => ⟨{ stocked with store := { stocked.store with check := .running, port := .check, askedAt := x } },
     serves_of_serving (by fin_cases h <;> decide), rfl, rfl, by fin_cases h <;> decide⟩,
   ⟨{ base with store := { base.store with check := .pending } }, rfl, rfl, rfl, rfl, by decide⟩,
   ⟨{ base with store := { base.store with check := .pending, port := .g } }, rfl, rfl, rfl⟩,
   fun first h => ⟨{ stocked with
       store := { stocked.store with port := .g, check := .pending, chanG := [⟨.d, 8, 0, 192⟩], grantedFirst := first } },
     ⟨.d, 8, 0, 192⟩, [], atRest_of_restful (by fin_cases h <;> decide), rfl, rfl, rfl, rfl, rfl, by decide, rfl, rfl⟩⟩

/-- Both links at one moment, with the path free and with a cue that holds it: one check, which answers both, also where it has begun. -/
theorem witness_StoreCheckTakesWaiter_both :
    ∀ x ∈ [(none, CheckState.running), (some (CueRef.slot 0), .pending)], ∃ s : State, s.ServesRequest .w ∧ s.ServesRequest .d ∧
      s.store.check = .idle ∧ s.sched.path.reservation = none ∧ s.sched.path.holder = x.1 ∧
      (after (.storeCheck .d true []) (after (.storeCheck .w false []) s)).store.check = x.2 ∧
      (after (.storeCheck .d true []) (after (.storeCheck .w false []) s)).store.currentWaiters = .both true := by
  intro x hx
  refine ⟨(withCue (playing 0 0)).onPath fun y => { y with holder := x.1 }, ?_, ?_, rfl, rfl, rfl, ?_, ?_⟩ <;>
    fin_cases hx <;> first | exact serves_of_serving (by decide) | decide +kernel

/-- The STORE_CHECK of the other link a microsecond later gets a check of its own (R90). -/
theorem test_store_check_later : (after (.storeCheck .d false [])
    { after (.storeCheck .w false []) base with now := 1 }).store.nextWaiters = ⟨false, true⟩ := by decide +kernel

/-- The reservations of a speaking cue that waits for path and voice 1, the path held by a fading cue, and free. -/
theorem witness_StoreCheckTakesWaiter_reserved :
    ∀ free ∈ [false, true], ∃ (s : State) (r : CueRef) (c : Cue), s.ServesRequest .w ∧ s.store.check = .idle ∧
      s.sched.path.reservation = some r ∧ (s.sched.voices[(1 : Fin 4)]).reservation = some r ∧
      s.candidate? r = some c ∧ c.state = .waiting ∧ c.speech ≠ none ∧ s.store.state = .ok ∧
      (∀ x ∈ s.candidates, x = r) ∧ s.sched.feedback.pending = none ∧
      (s.sched.path.holder = none ∧ s.store.port ≠ .g ↔ free = true) := by
  intro free h
  let c : Cue := { cue with uid := 1, id := 2, scene := none, speech := some [.fragment 1], tone := some ⟨7, .before⟩ }
  refine ⟨(({ withCue (fading .cancelled 128 false) with store := stocked.store }.setCue (.slot 1) (some c)).onPath fun _ =>
      ⟨if free then none else some (.slot 0), some (.slot 1)⟩).onVoiceRes 1 fun x => { x with reservation := some (.slot 1) },
    .slot 1, c, ?_, rfl, rfl, rfl, ?_, rfl, by decide, rfl, ?_, rfl, ?_⟩ <;>
    fin_cases h <;> first | exact serves_of_serving (by decide) | decide

/-- The seventh and the eighth burst of a transfer; a burst of channel S with 33 bytes left of its fragment; and bursts that end a
fragment and take a PRIMING Stream to PLAYING, before a silence and a fragment and before a silence. -/
theorem witness_BurstsDeliverBytes :
    (∃ s x rest, State.AtRest s ∧ s.store.port = .g ∧ s.store.chanG = x :: rest ∧ s.store.check = .idle ∧
      s.eligibleS = false ∧ x.bytesDone < 224 ∧ x.bytesDone = 192) ∧
    (∃ s x rest, State.AtRest s ∧ s.store.port = .g ∧ s.store.chanG = x :: rest ∧ s.store.check = .idle ∧
      s.eligibleS = false ∧ x.bytesDone = 224 ∧ (s.link x.link).inService = some { kind := .sceneFromStore, note := true }) ∧
    (∃ s, State.AtRest s ∧ s.store.port = .s ∧ s.store.check = .idle ∧ s.store.chanS.active = true ∧
      32 < s.store.chanS.count ∧ s.store.chanS.count = 33 ∧ s.stream.state ≠ .priming) ∧
    ∀ x ∈ [([UttEntry.silence 4, .fragment ⟨70, 9, 1, 1⟩], 1, 32), ([.fragment ⟨70, 9, 1, 1⟩, .silence 4], 2, 5)],
      ∃ s, State.AtRest s ∧ s.store.port = .s ∧ s.store.check = .idle ∧ s.store.chanS.active = true ∧
      s.utt.entries = x.1 ∧ s.store.chanS.index = x.2.1 ∧ s.store.chanS.count = x.2.2 ∧ s.stream.state = .priming ∧
      s.stream.threshold ≤ s.stream.ring.length + s.store.chanS.count :=
  ⟨⟨{ stocked with store := { stocked.store with port := .g, chanG := [⟨.w, 2, 0, 192⟩] } }, ⟨.w, 2, 0, 192⟩, [],
     atRest_of_restful (by decide), rfl, rfl, rfl, rfl, by decide, rfl⟩,
   ⟨{ onW fun l => { l with inService := some ⟨.sceneFromStore, true⟩ } with
       store := { stocked.store with port := .g, chanG := [⟨.w, 2, 0, 224⟩] } }, ⟨.w, 2, 0, 224⟩, [],
     atRest_of_restful (by decide), rfl, rfl, rfl, rfl, rfl, rfl⟩,
   ⟨{ stocked with
       store := { stocked.store with port := .s, chanS := ⟨true, 2, 100, 33⟩ },
       stream := { idleStream with state := .playing } },
     atRest_of_restful (by decide), rfl, rfl, rfl, by decide, rfl, by decide⟩,
   fun x hx => ⟨{ stocked with
       store := { stocked.store with port := .s, chanS := ⟨true, x.2.1, 100, x.2.2⟩ }, utt := ⟨x.1, some (.slot 0)⟩,
       stream := { idleStream with state := .priming, threshold := x.2.2 } },
     atRest_of_restful (by fin_cases hx <;> decide), rfl, rfl, rfl, rfl, rfl, rfl, rfl, by simp [idleStream]⟩⟩

/-- Slot 8, a failed store, image 2 of 2, an image one byte too late, and one that just fits. -/
theorem witness_ScenesWrittenAndLoaded :
    (∃ s, State.ServesRequest s .w ∧ s.store.CatalogOk ∧ 7 < (8 : Byte).toNat) ∧
    (∃ s, State.ServesRequest s .w ∧ s.store.CatalogOk ∧ s.store.state = .failed) ∧
    ∃ s cat, State.ServesRequest s .w ∧ s.store.CatalogOk ∧ s.store.catalog = some cat ∧
      cat.images.length ≤ (2 : Byte).toNat ∧ (∃ a, cat.images[(1 : Byte).toNat]? = some a ∧ cat.sizeBytes < a + 256) ∧
      ∃ a, cat.images[(0 : Byte).toNat]? = some a ∧ a + 256 ≤ cat.sizeBytes ∧ a + 256 = cat.sizeBytes :=
  ⟨⟨stocked, stocked_serves, stocked_catalogOk, by decide⟩, ⟨base, base_serves_w, trivial, rfl⟩,
   ⟨stocked, catalog, stocked_serves, stocked_catalogOk, rfl, by decide, ⟨16129, rfl, by decide⟩, 16128, rfl, by decide,
     rfl⟩⟩

/-- The limit of the numbers. -/
theorem witness_UtteranceAssembled : ∃ n : Nat, n ≤ 9999 ∧ n = 9999 := ⟨9999, by decide, rfl⟩

/-- The part with a store that holds fragment 1: 100 bytes from 256, scale 5, 10 ms of trailing silence. -/
def voiced : State :=
  { base with
    store := { base.store with
      state := .ok, catalog := some ⟨4096, [⟨false, false, [⟨0, 0, 0, 0⟩, ⟨256, 100, 5, 10⟩]⟩], []⟩ } }

/-- A CUE_POST payload for id 1 that speaks fragment 1. -/
def speech (cls : Byte) : List Byte := [1, cls, 0, 0, 0, 0, 0, 0, 1, 0, 0, 0, 0, 1, 1, 0, 1]

theorem witness_SpeakingCueStarts :
    ∃ (s : State) (p : List Byte) (r : CuePostReq) (items : List PhraseItem) (i : Fin 24) (f : FragEntry)
      (rest : List UttEntry), s.ServesRequest .w ∧ lenAllowed .cuePost p = true ∧ parseCuePost p = some r ∧
      r.speech = some items ∧ r.tone = none ∧ r.scene = none ∧ r.lamp = none ∧
      (∀ (j : Fin 24) c, s.sched.table[j] = some c → c.ofMachine .w = true → c.id ≠ r.id) ∧ s.machineCount .w < 16 ∧
      s.sched.table[i] = none ∧ (∀ j : Fin 24, j < i → s.sched.table[j] ≠ none) ∧ s.sched.markers.get .w = [] ∧
      s.NothingToServe ∧ s.store.state = .ok ∧ s.store.check = .idle ∧ s.sched.path = ⟨none, none⟩ ∧
      (∀ v : Fin 4, (s.sched.voices[v]).reservation ≠ some (.slot i)) ∧ s.stream = idleStream ∧
      (s.assembleItems (s.context .w) items).entries = .fragment f :: rest :=
  ⟨voiced, speech 1, { fields with cls := .prompt, speech := some [.fragment 1] }, [.fragment 1], 0, ⟨256, 100, 5, 10⟩, [],
    serves_of_serving (by decide), by decide, by decide +kernel, rfl, rfl, rfl, rfl, forall_cues (by decide), by decide,
    by decide, by decide, rfl, ⟨by decide, rfl⟩, rfl, rfl, rfl, by decide, rfl, by decide⟩

/-- A CHIME, and a PROMPT preempted twice before, that speak as the ALARM is posted. -/
theorem witness_SpeechPreempts :
    ∀ q ∈ [(CueClass.chime, 0), (.prompt, 2)],
    ∃ (s : State) (p : List Byte) (r : CuePostReq) (items : List PhraseItem) (i j : Fin 24) (x : Cue),
      s.ServesRequest .w ∧ lenAllowed .cuePost p = true ∧ parseCuePost p = some r ∧ r.speech = some items ∧
      r.tone = none ∧ r.scene = none ∧ r.lamp = none ∧
      (∀ (k : Fin 24) c, s.sched.table[k] = some c → c.ofMachine .w = true → c.id ≠ r.id) ∧ s.machineCount .w < 16 ∧
      s.sched.table[i] = none ∧ (∀ k : Fin 24, k < i → s.sched.table[k] ≠ none) ∧ s.sched.markers.get .w = [] ∧
      s.NothingToServe ∧ s.store.state = .ok ∧ s.store.check = .idle ∧ s.sched.path = ⟨some (.slot j), none⟩ ∧
      s.sched.table[j] = some x ∧ x.state = .playing ∧ r.cls.rank < x.cls.rank ∧ x.cls = q.1 ∧ x.preempts = q.2 := by
  intro q hq
  let x : Cue := { cue with id := 2, cls := q.1, preempts := q.2, speech := some [.fragment 1], speechPlays := true,
                            state := .playing, phase := some .main }
  refine ⟨(voiced.setCue (.slot 0) (some x)).onPath fun y => { y with holder := some (.slot 0) }, speech 0,
    { fields with cls := .alarm, speech := some [.fragment 1] }, [.fragment 1], 1, 0, x, ?_, by decide, by decide +kernel,
    rfl, rfl, rfl, rfl, ?_, ?_, ?_, ?_, rfl, ⟨?_, rfl⟩, rfl, rfl, rfl, ?_, rfl, ?_, rfl, rfl⟩ <;>
    fin_cases hq <;>
    first
      | exact serves_of_serving (by decide)
      | exact forall_cues (by decide)
      | decide

/-- A speaking narration cue as the ALARM is posted. -/
theorem witness_SpeechPreempts_narration :
    ∃ (s : State) (p : List Byte) (r : CuePostReq) (x : Cue), s.ServesRequest .w ∧ lenAllowed .cuePost p = true ∧
      parseCuePost p = some r ∧ r.speech = some [.fragment 1] ∧ r.tone = none ∧ r.scene = none ∧ r.lamp = none ∧
      r.cls = .alarm ∧ s.PostsInto .w r.id 0 ∧ s.NothingToServe ∧ s.store.state = .ok ∧ s.store.check = .idle ∧
      s.sched.path = ⟨some .narration, none⟩ ∧ s.sched.narration.current = some x ∧ x.state = .playing ∧ x.cls = .echo :=
  ⟨(voiced.setCue .narration (some { panelCue 0 (some [.fragment 66]) none with state := .playing })).onPath fun x =>
      { x with holder := some .narration }, speech 0, { fields with cls := .alarm, speech := some [.fragment 1] },
    { panelCue 0 (some [.fragment 66]) none with state := .playing }, serves_of_serving (by decide), by decide,
    by decide +kernel, rfl, rfl, rfl, rfl, rfl, ⟨forall_cues (by decide), by decide, by decide, by decide, rfl⟩,
    nothing (by decide) rfl, rfl, rfl, rfl, rfl, rfl, rfl⟩

/-- The voices 1 to `n` each held by a cue of slots 0 on that plays, the later slots started later. -/
def busy (n : Nat) : State :=
  voiced.onSched fun sc => { sc with
    table := Vector.ofFn fun i => if i.val < n then
        some { cue with uid := i.val, id := i.val + 2, tone := some ⟨0, .together⟩, scene := none, state := .playing,
                        phase := some .main, latestStart := i.val }
      else none,
    voices := Vector.ofFn fun v => if 1 ≤ v.val ∧ v.val ≤ n then ⟨some (.slot (Fin.ofNat 24 (v.val - 1))), none⟩
      else ⟨none, none⟩ }

/-- What the checks and the place of a post ask, by tests. -/
theorem postsInto {s : State} {m : Side} {id : Nat} {i : Fin 24}
    (h1 : (List.finRange 24).all (fun j => (s.sched.table[j]).all fun c =>
      decide (c.ofMachine m = true → c.id ≠ id)) = true)
    (h2 : s.machineCount m < 16) (h3 : s.sched.table[i] = none) (h4 : ∀ j : Fin 24, j < i → s.sched.table[j] ≠ none)
    (h5 : s.sched.markers.get m = []) : s.PostsInto m id i := ⟨forall_cues h1, h2, h3, h4, h5⟩

/-- A cue with tone alone of a class, a machine and a posting number. -/
def ringing (uid : Nat) (cls : CueClass) (m : Side) (posting : Nat) : Cue :=
  { cue with uid, id := uid, cls, origin := .machine m, tone := some ⟨3, .together⟩, scene := none, posting }

/-- An ALARM that plays and holds what it is given. -/
def holding (uid : Nat) : Cue := { ringing uid .alarm .w 0 with state := .playing, phase := some .main, latestStart := uid }

/-- An ALARM that waits for the speech path. -/
def unspoken : Cue := { ringing 9 .alarm .d 0 with tone := none, speech := some [.fragment 1] }

/-- Voice 1 held by slot 0 in its fade, voices 2 and 3 and the path by ALARMS that play, and the cues of slots 3 to 5 waiting. -/
def contended (c x y : Cue) : State :=
  voiced.onSched fun sc => { sc with
    lastPrompt := some .w, nextStart := 5,
    table := ((((((sc.table.set 0 (some c)).set 1 (some (holding 1))).set 2 (some (holding 2))).set 3 (some x)).set 4
      (some y)).set 5 (some unspoken)),
    voices := ((sc.voices.set 1 ⟨some (.slot 0), none⟩).set 2 ⟨some (.slot 1), none⟩).set 3 ⟨some (.slot 2), none⟩,
    path := ⟨some (.slot 1), none⟩ }

/-- Voices 2 and 3 are held by cues of the highest rank. -/
theorem contended_held (c x y : Cue) : ∀ w : Fin 4, w ≠ 0 → w ≠ 1 → ∃ h, (contended c x y).sched.voices[w] = ⟨some h, none⟩ ∧
    ∀ z, (contended c x y).cue? h = some z → z.cls.rank = 1 := by
  intro w h0 h1
  fin_cases w
  · exact absurd rfl h0
  · exact absurd rfl h1
  · exact ⟨.slot 1, rfl, by rintro z ⟨⟩; rfl⟩
  · exact ⟨.slot 2, rfl, by rintro z ⟨⟩; rfl⟩

/-- Voice 1 held by slot 0 in its fade and reserved for the PROMPT of slot 3, voices 2 and 3 held by ALARMS that play. -/
def reservedVoice (c : Cue) : State :=
  voiced.onSched fun sc => { sc with
    nextStart := 5,
    table := (((sc.table.set 0 (some c)).set 1 (some (holding 1))).set 2 (some (holding 2))).set 3
      (some (ringing 3 .prompt .d 0)),
    voices := ((sc.voices.set 1 ⟨some (.slot 0), some (.slot 3)⟩).set 2 ⟨some (.slot 1), none⟩).set 3 ⟨some (.slot 2), none⟩ }

theorem reservedVoice_held (c : Cue) : ∀ w : Fin 4, w ≠ 0 → w ≠ 1 → ∃ h, (reservedVoice c).sched.voices[w] = ⟨some h, none⟩ ∧
    ∀ z, (reservedVoice c).cue? h = some z → z.cls.rank = 1 := by
  intro w h0 h1
  fin_cases w
  · exact absurd rfl h0
  · exact absurd rfl h1
  · exact ⟨.slot 1, rfl, by rintro z ⟨⟩; rfl⟩
  · exact ⟨.slot 2, rfl, by rintro z ⟨⟩; rfl⟩

theorem one_le_rank (c : CueClass) : 1 ≤ c.rank := by cases c <;> decide

/-- Two PROMPTS of which the dryer's goes first after one of the washer's, two of the washer's in their posting order, a PROMPT before a
CHIME, and two CHIMES of which the washer's goes first while no marker is set. -/
def rivals : List (Cue × Cue) :=
  [(ringing 3 .prompt .d 9, ringing 4 .prompt .w 1), (ringing 3 .prompt .w 1, ringing 4 .prompt .w 2),
   (ringing 3 .prompt .w 9, ringing 4 .chime .d 1), (ringing 3 .chime .w 9, ringing 4 .chime .d 1)]

/-- Each pair of rivals for a freed voice, with an ALARM whose speech is blocked. -/
theorem witness_FadeEndFreesAndReturns_order :
    ∀ q ∈ rivals, ∃ (s : State) (c : Cue) (f : FadeRecord) (tone : TonePart) (p : Pattern), s.AtRest ∧
      s.sched.table[(0 : Fin 24)] = some c ∧ c.origin = .machine .w ∧ c.state = .ending ∧ c.fade = some f ∧
      f.factor ≤ 16 ∧ s.sched.path.holder ≠ some (.slot 0) ∧ s.voiceOf (.slot 0) = some 1 ∧
      s.sched.table[(3 : Fin 24)] = some q.1 ∧ q.1.state = .waiting ∧ q.1.cls ≠ .echo ∧ q.1.speech = none ∧
      q.1.tone = some tone ∧ s.tone.patterns[tone.pattern] = some p ∧ s.voiceOf (.slot 3) = none ∧
      s.sched.narration.pending = none ∧ s.sched.feedback.pending = none ∧ c.endCause = some .cancelled ∧
      s.EndsQuietly .w 0 ∧ (s.sched.voices[(1 : Fin 4)]).reservation = none ∧ s.Unreserved (.slot 3) ∧
      (∀ w : Fin 4, w ≠ 0 → w ≠ 1 → ∃ h, s.sched.voices[w] = ⟨some h, none⟩ ∧
        ∀ y, s.cue? h = some y → y.state = .playing → ∀ (k : Fin 24) d, s.sched.table[k] = some d →
          d.state = .waiting → d.speech = none → y.cls.rank ≤ d.cls.rank) ∧
      (∀ (k : Fin 24) d, s.sched.table[k] = some d → k ≠ 3 → d.state = .waiting →
        s.PathBlocked d ∨ (d.speech = none ∧ d.tone ≠ none ∧ s.ServedBefore q.1 d)) ∧
      (after (.fadeTimerExpiry (.slot 0)) s).sched.voices[(1 : Fin 4)] = ⟨some (.slot 3), none⟩ := by
  intro q hq
  refine ⟨contended (fading .cancelled 16 false) q.1 q.2, fading .cancelled 16 false, ⟨16, 1000⟩, ⟨3, .together⟩, patternAlarm,
    ?_, ?_, rfl, rfl, rfl, by decide, ?_, ?_, ?_, ?_, ?_, ?_, ?_, ?_, ?_, rfl, rfl, rfl, ?_, ?_, ?_,
    fun w h0 h1 => ?_, fun k d hk hd hw => ?_, ?_⟩
  case refine_15 =>
    obtain ⟨h, hv, hr⟩ := contended_held (fading .cancelled 16 false) q.1 q.2 w h0 h1
    exact ⟨h, hv, fun y hy _ _ d _ _ _ => (hr y hy).symm ▸ one_le_rank d.cls⟩
  case refine_16 =>
    have h : d = unspoken ∨ (d.speech = none ∧ d.tone ≠ none ∧
        (contended (fading .cancelled 16 false) q.1 q.2).ServedBefore q.1 d) :=
      forall_cues (s := contended (fading .cancelled 16 false) q.1 q.2)
        (P := fun k d => k ≠ 3 → d.state = .waiting → d = unspoken ∨ (d.speech = none ∧ d.tone ≠ none ∧
          (contended (fading .cancelled 16 false) q.1 q.2).ServedBefore q.1 d))
        (by fin_cases hq <;> decide +kernel) k d hk hd hw
    refine h.imp_left fun e => ?_
    subst e
    exact ⟨by decide, rfl, .slot 1, holding 1, rfl, rfl, .inr ⟨rfl, by decide⟩⟩
  all_goals fin_cases hq
  all_goals
    first
      | exact atRest_of_restful (by decide)
      | exact endsQuietly rfl (by decide) (by decide) (by decide)
      | exact unreserved (by decide) (by decide)
      | decide

/-- A voice reserved for slot 3 as its holder's fade ends, the holder DISPLACED and PREEMPTED, the other voices held. -/
theorem witness_FadeEndFreesAndReturns_reserver :
    ∀ cause ∈ [EndCause.displaced, .preempted], ∃ (s : State) (c x : Cue) (f : FadeRecord) (tone : TonePart) (p : Pattern),
      s.AtRest ∧ s.sched.table[(0 : Fin 24)] = some c ∧ c.origin = .machine .w ∧ c.state = .ending ∧ c.fade = some f ∧
      f.factor ≤ 16 ∧ s.sched.path.holder ≠ some (.slot 0) ∧ s.voiceOf (.slot 0) = some 1 ∧
      s.sched.table[(3 : Fin 24)] = some x ∧ x.state = .waiting ∧ x.origin = .machine .d ∧ x.cls ≠ .echo ∧
      x.speech = none ∧ x.tone = some tone ∧ s.tone.patterns[tone.pattern] = some p ∧ s.voiceOf (.slot 3) = none ∧
      s.sched.narration.pending = none ∧ s.sched.feedback.pending = none ∧
      (s.sched.voices[(1 : Fin 4)]).reservation = some (.slot 3) ∧ s.sched.path.reservation ≠ some (.slot 3) ∧
      (∀ w : Fin 4, w ≠ 1 → (s.sched.voices[w]).reservation ≠ some (.slot 3)) ∧
      (∀ (k : Fin 24) d, s.sched.table[k] = some d → k ≠ 3 → d.state ≠ .waiting) ∧ c.endCause = some cause ∧
      s.EndsQuietly .w 0 ∧ c.deadlinePassed = false ∧ c.tone ≠ none ∧ x.cls.rank < c.cls.rank ∧
      (∀ w : Fin 4, w ≠ 0 → w ≠ 1 → ∃ h, s.sched.voices[w] = ⟨some h, none⟩ ∧
        ∀ y, s.cue? h = some y → y.state = .playing → y.cls.rank ≤ c.cls.rank) ∧
      (after (.fadeTimerExpiry (.slot 0)) s).sched.voices[(1 : Fin 4)] = ⟨some (.slot 3), none⟩ := by
  intro cause hc
  refine ⟨reservedVoice { fading cause 16 false with tone := some ⟨3, .before⟩ },
    { fading cause 16 false with tone := some ⟨3, .before⟩ }, ringing 3 .prompt .d 0, ⟨16, 1000⟩, ⟨3, .together⟩, patternAlarm, ?_, rfl,
    rfl, rfl, rfl, by decide, ?_, ?_, rfl, rfl, rfl, by decide, rfl, rfl, ?_, ?_, rfl, rfl, rfl, ?_, ?_, ?_, rfl, ?_, rfl, ?_, ?_, ?_, ?_⟩
  all_goals fin_cases hc
  all_goals
    first
      | exact atRest_of_restful (by decide)
      | exact endsQuietly rfl (by decide) (by decide) (by decide)
      | exact forall_cues (by decide)
      | exact fun w h0 h1 =>
          let ⟨h, hv, hr⟩ := reservedVoice_held _ w h0 h1
          ⟨h, hv, fun y hy _ => le_of_eq_of_le (hr y hy) (by decide)⟩
      | decide

/-- A cue with speech of fragment 1, and tone if `toned`, that waits. -/
def speaker (toned : Bool) : Cue :=
  { ringing 3 .alarm .d 0 with speech := some [.fragment 1], tone := if toned then some ⟨3, .before⟩ else none }

/-- The path held by slot 0 in its fade and reserved for the ALARM of slot 3, with voice 1 as `y` says and voices 2 and 3 held; slot 4 has
a cue in its fade. -/
def reservedPath (c : Cue) (toned : Bool) (y : Resource) : State :=
  voiced.onSched fun sc => { sc with
    nextStart := 5,
    table := ((((sc.table.set 0 (some c)).set 1 (some { holding 1 with uid := 1 })).set 2 (some (holding 2))).set 3
      (some (speaker toned))).set 4 (some { ringing 4 .chime .w 0 with state := .ending, fade := some ⟨64, 9⟩ }),
    voices := ((sc.voices.set 1 y).set 2 ⟨some (.slot 1), none⟩).set 3 ⟨some (.slot 2), none⟩,
    path := ⟨some (.slot 0), some (.slot 3)⟩ }

/-- A path reserved for slot 3 as its holder's fade ends, the holder DISPLACED and PREEMPTED: for speech alone, for a cue whose reserved
voice is free, and for one whose reserved voice fades. -/
theorem witness_FadeRunsAndEnds_reserver :
    ∀ cause ∈ [EndCause.displaced, .preempted],
      ∀ q ∈ [(false, (⟨none, none⟩ : Resource), Resource.mk (some (.slot 3)) none),
             (true, ⟨none, some (.slot 3)⟩, ⟨some (.slot 3), none⟩),
             (true, ⟨some (.slot 4), some (.slot 3)⟩, ⟨none, some (.slot 3)⟩)],
      ∃ (s : State) (c x : Cue) (f : FadeRecord) (g : FragEntry) (rest : List UttEntry), s.AtRest ∧
      s.sched.table[(0 : Fin 24)] = some c ∧ c.origin = .machine .w ∧ c.state = .ending ∧ c.fade = some f ∧
      f.factor ≤ 16 ∧ s.sched.path = ⟨some (.slot 0), some (.slot 3)⟩ ∧ s.voiceOf (.slot 0) = none ∧
      s.sched.table[(3 : Fin 24)] = some x ∧ x.state = .waiting ∧ x.origin = .machine .d ∧ x.cls ≠ .echo ∧
      x.speech = some [.fragment 1] ∧ x.tone = (if q.1 then some ⟨3, .before⟩ else none) ∧ s.store.state = .ok ∧
      s.store.check = .idle ∧ s.sched.narration.pending = none ∧ s.sched.feedback.pending = none ∧
      (∀ (k : Fin 24) d, s.sched.table[k] = some d → k ≠ 3 → d.state ≠ .waiting) ∧ c.endCause = some cause ∧
      s.EndsQuietly .w 0 ∧ c.deadlinePassed = false ∧ c.speech ≠ none ∧ x.cls.rank < c.cls.rank ∧
      (∀ w : Fin 4, w ≠ 1 → (s.sched.voices[w]).reservation ≠ some (.slot 3)) ∧ s.voiceOf (.slot 3) = none ∧
      s.sched.voices[(1 : Fin 4)] = q.2.1 ∧ (s.assembleItems (s.context .d) [.fragment 1]).entries = .fragment g :: rest ∧
      (∃ y, s.cue? (.slot 4) = some y ∧ y.state = .ending) ∧
      (q.1 = true → ∀ w : Fin 4, w ≠ 0 → s.sched.voices[w] ≠ ⟨none, none⟩) ∧
      (after (.fadeTimerExpiry (.slot 0)) s).sched.path = q.2.2 := by
  intro cause hc q hq
  refine ⟨reservedPath { fading cause 16 false with speech := some [.fragment 1] } q.1 q.2.1,
    { fading cause 16 false with speech := some [.fragment 1] }, speaker q.1, ⟨16, 1000⟩, ⟨256, 100, 5, 10⟩, [], ?_, rfl, rfl, rfl, rfl,
    by decide, rfl, ?_, rfl, rfl, rfl, ?_, rfl, rfl, rfl, rfl, rfl, rfl, ?_, rfl, ?_, rfl, ?_, ?_, ?_, ?_, rfl, ?_, ⟨_, rfl, rfl⟩, ?_, ?_⟩
  all_goals fin_cases hc <;> fin_cases hq
  all_goals
    first
      | exact atRest_of_restful (by decide)
      | exact endsQuietly rfl (by decide) (by decide) (by decide)
      | exact forall_cues (by decide)
      | decide

/-- Three cues that a running check holds back: two PROMPTS of the washer and one of the dryer, which goes first after one of the
washer's. -/
def heldBack : State :=
  { voiced with
    store := { voiced.store with check := .running, port := .check }
    sched := { voiced.sched with
      lastPrompt := some .w, nextStart := 5,
      table := ((voiced.sched.table.set 0 (some { speaker false with cls := .prompt, origin := .machine .w, posting := 1 })).set
        1 (some { speaker false with cls := .prompt, origin := .machine .w, posting := 2 })).set
        2 (some { speaker false with cls := .prompt, origin := .machine .d, posting := 9 }) } }

/-- The check of `heldBack` finds the store FAILED: the dryer's cue starts first, then the washer's in their posting order. -/
theorem witness_CheckEndHandsOff_failed :
    heldBack.resetHeld = false ∧ heldBack.store.check = .running ∧
      (∀ (k : Fin 24) d, heldBack.sched.table[k] = some d → d.state = .waiting →
        d.origin ≠ .panel ∧ d.cls ≠ .echo ∧ d.tone = none) ∧
      heldBack.sched.narration.pending = none ∧ heldBack.sched.feedback.pending = none ∧ runCheck ⟨0xFF, []⟩ = none ∧
      (∀ q ∈ [((2 : Fin 24), (0 : Fin 24)), (0, 1)], ∃ a b, heldBack.sched.table[q.1] = some a ∧
        heldBack.sched.table[q.2] = some b ∧ a.state = .waiting ∧ b.state = .waiting ∧ heldBack.ServedBefore a b) ∧
      [(2 : Fin 24), 0, 1].map (fun i => ((after (.checkEnd ⟨0xFF, []⟩) heldBack).sched.table[i]).map fun c => c.latestStart) =
        [some 5, some 6, some 7] := by
  refine ⟨rfl, rfl, forall_cues (by decide), rfl, rfl, by decide, fun q hq => ?_, by decide +kernel⟩
  fin_cases hq
  · exact ⟨_, _, rfl, rfl, rfl, rfl, by decide⟩
  · exact ⟨_, _, rfl, rfl, rfl, rfl, by decide⟩

/-- Slot 0 has a lamp cue of a class on stage, whose effect the ring shows since 7. -/
def lit (cls : CueClass) : State :=
  (withCue { playing 0 0 with cls, lamp := some .pulse, scene := none }).onDisplay fun d => { d with ringEffect := some ⟨0, 7⟩ }

/-- A PROMPT with a CHASE posted beside a lamp cue of higher and of lower rank: the one's effect goes on, the other gives way to an effect
that begins now; the ring is dark of effects once the last lamp cue is gone, and the other's effect begins from its start. -/
theorem test_ring_cue :
    (after (.cuePost .w false [2, 1, 0, 0, 0, 0, 0, 0, 8, 0, 0, 0, 0, 0]) (lit .alarm)).display.ringEffect = some ⟨0, 7⟩ ∧
    (after (.cuePost .w false [2, 1, 0, 0, 0, 0, 0, 0, 8, 0, 0, 0, 0, 0]) (lit .chime)).display.ringEffect = some ⟨1, 0⟩ ∧
    (after (.holdTimerExpiry (.slot 0)) (lit .prompt)).display.ringEffect = none ∧
    (after (.holdTimerExpiry (.slot 0)) ((lit .alarm).setCue (.slot 5) (some { playing 0 0 with
      lamp := some .flash, latestStart := 3 }))).display.ringEffect = some ⟨5, 0⟩ := by decide +kernel

/-- The last free voice. -/
theorem witness_ToneCueStarts :
    ∃ (s : State) (p : List Byte) (r : CuePostReq), s.ServesRequest .w ∧ lenAllowed .cuePost p = true ∧
      parseCuePost p = some r ∧ r.speech = none ∧ r.tone = some (7, .before) ∧ r.scene = none ∧ r.lamp = none ∧
      s.tone.patterns[(7 : Fin 32)] = some patternTick ∧ s.PostsInto .w r.id 2 ∧ s.NothingToServe ∧
      s.Unreserved (.slot 2) ∧ s.voiceOf (.slot 2) = none ∧ s.sched.voices[(3 : Fin 4)] = ⟨none, none⟩ ∧
      ∀ w : Fin 4, w ≠ 0 → w < 3 → s.sched.voices[w] ≠ ⟨none, none⟩ :=
  ⟨busy 2, post 1 2 7 0, { fields with cls := .prompt, tone := some (7, .before) }, serves_of_serving (by decide), by decide,
    by decide +kernel, rfl, rfl, rfl, rfl, by decide, postsInto (by decide) (by decide) (by decide) (by decide) rfl,
    nothing (by decide) rfl, unreserved (by decide) (by decide), by decide, by decide, by decide⟩

/-- A CUE_POST payload for id 1 that speaks fragment 1 and plays pattern 7. -/
def both (cls timing : Byte) : List Byte := [1, cls, 0, 0, 0, 0, 0, 0, 3, 7, timing, 0, 0, 1, 1, 0, 1]

/-- Each of the three timings. -/
theorem witness_TwoPartCueStarts :
    ∀ x ∈ [((0 : Byte), ToneTiming.before), (1, .together), (2, .after)], ∃ (s : State) (p : List Byte) (r : CuePostReq)
      (items : List PhraseItem) (f : FragEntry) (rest : List UttEntry), s.ServesRequest .w ∧
      lenAllowed .cuePost p = true ∧ parseCuePost p = some r ∧ r.speech = some items ∧ r.tone = some (7, x.2) ∧
      r.scene = none ∧ r.lamp = none ∧ s.tone.patterns[(7 : Fin 32)] = some patternTick ∧ s.PostsInto .w r.id 2 ∧
      s.NothingToServe ∧ s.Unreserved (.slot 2) ∧ s.voiceOf (.slot 2) = none ∧ s.store.state = .ok ∧
      s.store.check = .idle ∧ s.sched.path = ⟨none, none⟩ ∧ s.sched.voices[(3 : Fin 4)] = ⟨none, none⟩ ∧
      (∀ w : Fin 4, w ≠ 0 → w < 3 → s.sched.voices[w] ≠ ⟨none, none⟩) ∧ s.stream = idleStream ∧
      (s.assembleItems (s.context .w) items).entries = .fragment f :: rest := by
  intro x hx
  refine ⟨busy 2, both 1 x.1, { fields with cls := .prompt, speech := some [.fragment 1], tone := some (7, x.2) },
    [.fragment 1], ⟨256, 100, 5, 10⟩, [], serves_of_serving (by decide), ?_, ?_, rfl, rfl, rfl, rfl, by decide,
    postsInto (id := 1) (by decide) (by decide) (by decide) (by decide) rfl, nothing (by decide) rfl,
    unreserved (by decide) (by decide), by decide, rfl, rfl, rfl, by decide, by decide, rfl, by decide⟩ <;>
    fin_cases hx <;> decide +kernel

/-- The part with `busy n`, of whose cues one also speaks. -/
def speaking (n : Nat) (i : Fin 24) : State := (busy n).onPath fun y => { y with holder := some (.slot i) }

/-- A post with both parts while slot 0 speaks and voice 3 is free: an ALARM, and a CHIME that is not above the speaking cue. -/
theorem witness_SpeechPreempts_both :
    ∀ x ∈ [((0 : Byte), CueClass.alarm), (2, .chime)], ∃ (s : State) (p : List Byte) (r : CuePostReq) (y : Cue),
      s.ServesRequest .w ∧ lenAllowed .cuePost p = true ∧ parseCuePost p = some r ∧ r.speech = some [.fragment 1] ∧
      r.tone = some (7, .before) ∧ r.scene = none ∧ r.lamp = none ∧ s.tone.patterns[(7 : Fin 32)] ≠ none ∧
      s.PostsInto .w r.id 2 ∧ s.NothingToServe ∧ s.Unreserved (.slot 2) ∧ s.store.state = .ok ∧ s.store.check = .idle ∧
      s.sched.path = ⟨some (.slot 0), none⟩ ∧ s.sched.table[(0 : Fin 24)] = some y ∧ y.state = .playing ∧
      (x.2 = .alarm → r.cls.rank < y.cls.rank) ∧ (x.2 = .chime → y.cls.rank ≤ r.cls.rank) ∧
      s.sched.voices[(3 : Fin 4)] = ⟨none, none⟩ ∧ ∀ w : Fin 4, w ≠ 0 → w < 3 → s.sched.voices[w] ≠ ⟨none, none⟩ := by
  intro x hx
  refine ⟨speaking 2 0, both x.1 0, { fields with cls := x.2, speech := some [.fragment 1], tone := some (7, .before) },
    { cue with id := 2, tone := some ⟨0, .together⟩, scene := none, state := .playing, phase := some .main },
    serves_of_serving (by decide), ?_, ?_, rfl, rfl, rfl, rfl, by decide,
    postsInto (id := 1) (by decide) (by decide) (by decide) (by decide) rfl, nothing (by decide) rfl,
    unreserved (by decide) (by decide), rfl, rfl, rfl, by decide, rfl, ?_, ?_, by decide, by decide⟩ <;>
    fin_cases hx <;> decide +kernel

/-- An ALARM with both parts while every voice is held, slot 2 on voice 3 started latest: another cue speaks, or slot 2 itself does. -/
theorem witness_SpeechPreempts_victims :
    ∀ j ∈ [(0 : Fin 24), 2], ∃ (s : State) (r : CuePostReq) (y z : Cue), s.ServesRequest .w ∧
      lenAllowed .cuePost (both 0 0) = true ∧ parseCuePost (both 0 0) = some r ∧ r.speech = some [.fragment 1] ∧
      r.tone = some (7, .before) ∧ r.scene = none ∧ r.lamp = none ∧ s.tone.patterns[(7 : Fin 32)] ≠ none ∧
      s.PostsInto .w r.id 3 ∧ s.NothingToServe ∧ s.Unreserved (.slot 3) ∧ s.store.state = .ok ∧ s.store.check = .idle ∧
      s.sched.path = ⟨some (.slot j), none⟩ ∧ s.sched.table[j] = some y ∧ y.state = .playing ∧ r.cls.rank < y.cls.rank ∧
      (∀ w : Fin 4, w ≠ 0 → s.sched.voices[w] ≠ ⟨none, none⟩) ∧ s.sched.voices[(3 : Fin 4)] = ⟨some (.slot 2), none⟩ ∧
      s.sched.table[(2 : Fin 24)] = some z ∧ z.state = .playing ∧ r.cls.rank < z.cls.rank ∧
      ∀ (w : Fin 4) h q, w ≠ 0 → w ≠ 3 → s.sched.voices[w] = ⟨some h, none⟩ → s.cue? h = some q → q.state = .playing →
        q.cls.rank < z.cls.rank ∨ (q.cls.rank = z.cls.rank ∧ q.latestStart < z.latestStart) := by
  intro j hj
  refine ⟨speaking 3 j, { fields with cls := .alarm, speech := some [.fragment 1], tone := some (7, .before) },
    { cue with uid := j.val, id := j.val + 2, tone := some ⟨0, .together⟩, scene := none, state := .playing,
               phase := some .main, latestStart := j.val },
    { cue with uid := 2, id := 4, tone := some ⟨0, .together⟩, scene := none, state := .playing, phase := some .main,
               latestStart := 2 }, ?_, by decide, by decide +kernel, rfl, rfl, rfl, rfl,
    (by decide : (busy 3).tone.patterns[(7 : Fin 32)] ≠ none),
    postsInto (id := 1) (s := speaking 3 j) ?_ ?_ ?_ ?_ rfl, nothing ?_ rfl, unreserved ?_ ?_, rfl, rfl, rfl, ?_, rfl,
    (by decide : (1 : Nat) < 4), ?_, ?_, ?_, rfl, (by decide : (1 : Nat) < 4),
    fun w h q h0 h3 hw hz hp => forall_holders (s := speaking 3 j)
      (P := fun w z => w ≠ 0 → w ≠ 3 → z.state = .playing → z.cls.rank < 4 ∨ (z.cls.rank = 4 ∧ z.latestStart < 2))
      ?_ w h q hw hz h0 h3 hp⟩ <;>
    fin_cases hj <;> first | exact serves_of_serving (by decide) | decide

/-- A preempting ALARM with tone alone and with speech, and a CHIME that is not above its victim; the victim started latest. -/
theorem witness_VoicePreempts :
    ∀ x ∈ [(post 0 2 7 0, CueClass.alarm, false), (both 0 0, .alarm, true), (post 2 2 7 0, .chime, false)],
      ∃ (s : State) (r : CuePostReq) (y : Cue), s.ServesRequest .w ∧ lenAllowed .cuePost x.1 = true ∧
      parseCuePost x.1 = some r ∧ r.tone = some (7, .before) ∧ r.scene = none ∧ r.lamp = none ∧
      s.tone.patterns[(7 : Fin 32)] ≠ none ∧ s.PostsInto .w r.id 3 ∧ s.NothingToServe ∧ s.Unreserved (.slot 3) ∧
      (∀ w : Fin 4, w ≠ 0 → s.sched.voices[w] ≠ ⟨none, none⟩) ∧ s.sched.voices[(3 : Fin 4)] = ⟨some (.slot 2), none⟩ ∧
      s.sched.table[(2 : Fin 24)] = some y ∧ y.state = .playing ∧
      (∀ (w : Fin 4) h z, w ≠ 0 → w ≠ 3 → s.sched.voices[w] = ⟨some h, none⟩ → s.cue? h = some z → z.state = .playing →
        z.cls.rank < y.cls.rank ∨ (z.cls.rank = y.cls.rank ∧ z.latestStart < y.latestStart)) ∧
      (x.2.1 = .alarm → r.cls.rank < y.cls.rank ∧
        (r.speech = none ∨ (s.store.state = .ok ∧ s.store.check = .idle ∧ s.sched.path = ⟨none, none⟩))) ∧
      (x.2.1 = .chime → y.cls.rank ≤ r.cls.rank) ∧ (x.2.2 = true → r.speech ≠ none) := by
  intro x hx
  refine ⟨busy 3, { fields with cls := x.2.1, speech := if x.2.2 then some [.fragment 1] else none, tone := some (7, .before) },
    { cue with uid := 2, id := 4, tone := some ⟨0, .together⟩, scene := none, state := .playing, phase := some .main,
               latestStart := 2 }, serves_of_serving (by decide), ?_, ?_, rfl, rfl, rfl, by decide,
    postsInto (id := 1) (by decide) (by decide) (by decide) (by decide) rfl, nothing (by decide) rfl,
    unreserved (by decide) (by decide), by decide, by decide, by decide, rfl, ?_, ?_, ?_, ?_⟩
  · fin_cases hx <;> decide
  · fin_cases hx <;> decide +kernel
  · exact fun w h z h0 h3 hw hz hp => forall_holders (s := busy 3)
      (P := fun w z => w ≠ 0 → w ≠ 3 → z.state = .playing → z.cls.rank < 4 ∨ (z.cls.rank = 4 ∧ z.latestStart < 2))
      (by decide) w h z hw hz h0 h3 hp
  all_goals fin_cases hx <;> decide

/-- A washer's definition of entries 7, 32, 20 and 19, the last with a voice that plays it and without; sixteen steps. -/
theorem witness_ToneDefineWritesPattern :
    (∃ (s : State) (recs : List (Byte × Byte × Byte × Byte × Byte)) (levels : List Byte), s.ServesRequest .w ∧
      1 ≤ recs.length ∧ recs.length ≤ 16 ∧ recs.length = 16 ∧ levels.length = (recs.length + 1) / 2 ∧
      (∃ e : Byte, e.toNat < 8 ∧ e = 7) ∧ (∃ e : Byte, 31 < e.toNat ∧ e = 32) ∧ (∃ e : Byte, 20 ≤ e.toNat ∧ e = 20) ∧
      (∃ e : Byte, 8 ≤ e.toNat ∧ e.toNat < 20 ∧ e = 19) ∧
      ¬∃ v : Fin 4, (s.tone.voices[v]).playing = true ∧
        (s.tone.voices[v]).pattern.map (fun q => q.val) = some (19 : Byte).toNat) ∧
    ∃ s : State, s.ServesRequest .w ∧ ∃ v : Fin 4, (s.tone.voices[v]).playing = true ∧
      (s.tone.voices[v]).pattern.map (fun q => q.val) = some (19 : Byte).toNat :=
  ⟨⟨base, List.replicate 16 (0, 0, 0, 0, 0), List.replicate 8 0, base_serves_w, by decide, by decide, rfl, rfl,
     ⟨7, by decide, rfl⟩, ⟨32, by decide, rfl⟩, ⟨20, by decide, rfl⟩, ⟨19, by decide, by decide, rfl⟩, by decide⟩,
   ⟨base.onVoice 3 fun _ => beginVoice 19 patternClick, serves_of_serving (by decide), 3, by decide, by decide⟩⟩

/-- A voice whose step is over. -/
def spentStep (x : Voice) : Voice := { x with countsLeft := 0 }

/-- An IDLE voice; a step with one count left; a step that is not the last; a last step with a loop left; and the end of the feedback
entry's pattern. -/
theorem witness_StepEndMovesPattern :
    (∃ s, State.AtRest s ∧ (s.tone.voices[(1 : Fin 4)]).playing = false) ∧
    (∃ s, State.AtRest s ∧ (s.tone.voices[(1 : Fin 4)]).playing = true ∧ (s.tone.voices[(1 : Fin 4)]).countsLeft = 1) ∧
    (∃ s p st, State.AtRest s ∧ (s.tone.voices[(1 : Fin 4)]).playing = true ∧
      (s.tone.voices[(1 : Fin 4)]).countsLeft = 0 ∧ (s.tone.voices[(1 : Fin 4)]).copy = some p ∧
      p.steps[(s.tone.voices[(1 : Fin 4)]).stepIndex + 1]? = some st) ∧
    (∃ s p st, State.AtRest s ∧ (s.tone.voices[(1 : Fin 4)]).playing = true ∧
      (s.tone.voices[(1 : Fin 4)]).countsLeft = 0 ∧ (s.tone.voices[(1 : Fin 4)]).copy = some p ∧
      p.steps[(s.tone.voices[(1 : Fin 4)]).stepIndex + 1]? = none ∧
      (s.tone.voices[(1 : Fin 4)]).loopIndex < p.loops ∧ p.steps[0]? = some st) ∧
    ∃ s p c, State.AtRest s ∧ (s.tone.voices[(0 : Fin 4)]).playing = true ∧ (s.tone.voices[(0 : Fin 4)]).countsLeft = 0 ∧
      (s.tone.voices[(0 : Fin 4)]).copy = some p ∧ p.steps[(s.tone.voices[(0 : Fin 4)]).stepIndex + 1]? = none ∧
      p.loops ≤ (s.tone.voices[(0 : Fin 4)]).loopIndex ∧ s.sched.feedback.current = some c ∧ c.state = .playing ∧
      c.phase = some .main ∧ c.tone ≠ none ∧ c.speechPlays = false ∧
      (s.sched.voices[(0 : Fin 4)]).holder = some .feedback ∧ s.sched.path.holder ≠ some .feedback ∧ s.NothingToServe :=
  ⟨⟨base, base_rests, by decide⟩,
   ⟨base.onVoice 1 fun _ => { beginVoice 1 patternAccept with countsLeft := 1 }, atRest_of_restful (by decide), by decide,
     by decide⟩,
   ⟨base.onVoice 1 fun _ => spentStep (beginVoice 1 patternAccept), patternAccept, plainStep 750 375 6 9,
     atRest_of_restful (by decide), by decide, by decide, by decide, by decide⟩,
   ⟨base.onVoice 1 fun _ => spentStep { beginVoice 3 patternAlarm with stepIndex := 1, loopIndex := 2 }, patternAlarm,
     plainStep 400 200 25 15, atRest_of_restful (by decide), by decide, by decide, by decide, by decide, by decide, by decide⟩,
   ⟨((base.onVoice 0 fun _ => spentStep (beginVoice 0 patternClick)).onVoiceRes 0 fun x => { x with holder := some .feedback }).setCue
       .feedback (some { panelCue 0 none (some ⟨0, .together⟩) with state := .playing, phase := some .main }), patternClick,
     { panelCue 0 none (some ⟨0, .together⟩) with state := .playing, phase := some .main },
     atRest_of_restful (by decide), by decide, by decide, by decide, by decide, by decide, rfl, rfl, rfl, by decide, rfl,
     by decide, by decide, ⟨by decide, rfl⟩⟩⟩

/-- A cue of the table with a tone part that plays. -/
def toned (timing : ToneTiming) (phase : CuePhase) (speaks ended : Bool) (repeats : Nat) : Cue :=
  { cue with speech := if speaks then some [.fragment 1] else none, tone := some ⟨0, timing⟩, scene := none, state := .playing,
             phase := some phase, speechPlays := speaks, utteranceEnded := ended, repeatsLeft := repeats, gapLength := repeats }

/-- The pattern of slot 0 has come to its end on voice 1, its list beginning with a fragment. -/
def patternOver (c : Cue) : State :=
  { voicing c 1 (spentStep (beginVoice 0 patternClick)) with utt := ⟨[.fragment ⟨256, 100, 5, 10⟩], some (.slot 0)⟩ }

/-- LEAD; MAIN under WITH with the utterance on; and the last play and one with a repeat left of tone alone, of TAIL, and of MAIN under
WITH with the utterance over. -/
theorem witness_PatternEndsPhase :
    let spent (s : State) (c : Cue) (tone : TonePart) : Prop := s.AtRest ∧ (s.tone.voices[(1 : Fin 4)]).playing = true ∧
      (s.tone.voices[(1 : Fin 4)]).countsLeft = 0 ∧ (s.tone.voices[(1 : Fin 4)]).copy = some patternClick ∧
      patternClick.steps.length ≤ (s.tone.voices[(1 : Fin 4)]).stepIndex + 1 ∧
      patternClick.loops ≤ (s.tone.voices[(1 : Fin 4)]).loopIndex ∧ s.voiceOf (.slot 0) = some 1 ∧
      s.sched.table[(0 : Fin 24)] = some c ∧ c.origin = .machine .w ∧ c.state = .playing ∧ c.tone = some tone
    (∃ s c tone f rest, spent s c tone ∧ c.phase = some .lead ∧ c.speechPlays = true ∧ s.utt.entries = .fragment f :: rest ∧
      0 < f.count ∧ s.stream = idleStream) ∧
    (∃ s c tone, spent s c tone ∧ c.phase = some .main ∧ c.speechPlays = true ∧ tone.timing = .together ∧
      c.utteranceEnded = false) ∧
    ∀ x ∈ [(ToneTiming.before, CuePhase.main, false, false), (.after, .tail, true, true), (.together, .main, true, true)],
      ∀ n ∈ [0, 1], ∃ s c tone, spent s c tone ∧ (c.phase = some .tail ∨ (c.phase = some .main ∧ c.speechPlays = false) ∨
        (c.phase = some .main ∧ tone.timing = .together ∧ c.utteranceEnded = true)) ∧ s.NothingToServe ∧ s.FreesQuietly 0 ∧
        c.repeatsLeft = n ∧ c.gapLength = n ∧ s.EndsQuietly .w 0 := by
  intro spent
  have h (c : Cue) (tone : TonePart) (hs : restful (patternOver c) = true)
      (hv : (patternOver c).voiceOf (.slot 0) = some 1) (ht : (patternOver c).sched.table[(0 : Fin 24)] = some c)
      (ho : c.origin = .machine .w) (hp : c.state = .playing) (hc : c.tone = some tone)  : spent (patternOver c) c tone :=
    ⟨atRest_of_restful hs, rfl, rfl, rfl, Nat.le_refl 1, Nat.le_refl 0, hv, ht, ho, hp, hc⟩
  refine ⟨⟨_, toned .before .lead true false 0, ⟨0, .before⟩, ⟨256, 100, 5, 10⟩, [], h _ _ ?_ ?_ ?_ rfl rfl rfl, rfl, rfl, rfl,
      by decide, rfl⟩,
    ⟨_, toned .together .main true false 0, ⟨0, .together⟩, h _ _ ?_ ?_ ?_ rfl rfl rfl, rfl, rfl, rfl, rfl⟩,
    fun x hx n hn => ⟨_, toned x.1 x.2.1 x.2.2.1 x.2.2.2 n, ⟨0, x.1⟩, h _ _ ?_ ?_ ?_ rfl rfl rfl, ?_, ?_, ?_, rfl, rfl, ?_⟩⟩
  all_goals first
    | decide
    | (fin_cases hx <;> fin_cases hn <;>
        first
          | decide
          | exact nothing (by decide) rfl
          | exact endsQuietly rfl (by decide) (by decide) (by decide)
          | exact fun _ => ⟨rfl, rfl, rfl⟩)

/-- The end of the pattern of a cue with tone alone on voice 1 with a repeat left and a gap of 0, its deadline passed and not. -/
theorem witness_PatternEndsPhase_gap0 :
    ∀ x ∈ [true, false], ∃ s c tone, State.AtRest s ∧ (s.tone.voices[(1 : Fin 4)]).playing = true ∧
      (s.tone.voices[(1 : Fin 4)]).countsLeft = 0 ∧ (s.tone.voices[(1 : Fin 4)]).copy = some patternClick ∧
      patternClick.steps.length ≤ (s.tone.voices[(1 : Fin 4)]).stepIndex + 1 ∧
      patternClick.loops ≤ (s.tone.voices[(1 : Fin 4)]).loopIndex ∧ s.voiceOf (.slot 0) = some 1 ∧
      s.sched.table[(0 : Fin 24)] = some c ∧ c.origin = .machine .w ∧ c.state = .playing ∧ c.tone = some tone ∧
      c.phase = some .main ∧ c.speechPlays = false ∧ s.NothingToServe ∧ s.FreesQuietly 0 ∧ 0 < c.repeatsLeft ∧
      c.gapLength = 0 ∧ c.deadlinePassed = x ∧ s.EndsQuietly .w 0 ∧ c.cls ≠ .echo ∧ c.speech = none ∧
      s.tone.patterns[tone.pattern] = some patternClick ∧ s.Unreserved (.slot 0) ∧
      s.sched.path.holder ≠ some (.slot 0) ∧ (s.sched.voices[(1 : Fin 4)]).reservation = none ∧
      ∀ w : Fin 4, w ≠ 0 → w < 1 → s.sched.voices[w] ≠ ⟨none, none⟩ := by
  intro x hx
  refine ⟨_, { toned .before .main false false 1 with gapLength := 0, deadlinePassed := x }, ⟨0, .before⟩,
    atRest_of_restful (s := patternOver { toned .before .main false false 1 with gapLength := 0, deadlinePassed := x }) ?_,
    rfl, rfl, rfl, Nat.le_refl 1, Nat.le_refl 0, ?_, ?_, rfl, rfl, rfl, rfl, rfl, ?_, ?_, Nat.one_pos, rfl, rfl, ?_,
    CueClass.noConfusion, rfl, ?_, ?_, ?_, rfl, ?_⟩ <;>
    fin_cases hx <;>
    first
      | decide
      | exact nothing (by decide) rfl
      | exact unreserved (by decide) (by decide)
      | exact endsQuietly rfl (by decide) (by decide) (by decide)
      | exact fun _ => ⟨rfl, rfl, rfl⟩

theorem witness_SampleMixesSources : ∃ s, State.AtRest s := ⟨base, base_rests⟩

/-- A cue sounds by its voice with the stage off; by its voice in DRIVING at volume 0; as an ALARM at volume 0, heard; and in its purge
fade. -/
theorem witness_SilentMarked :
    ∀ x ∈ [(StageState.disabled, CueClass.chime, CueState.playing, 4, true), (.driving, .chime, .playing, 0, true),
      (.driving, .alarm, .playing, 0, false), (.disabled, .chime, .ending, 4, false)], ∃ s c, State.AtRest s ∧
      s.sched.table[(0 : Fin 24)] = some c ∧ (s.sched.voices[(1 : Fin 4)]).holder = some (.slot 0) ∧
      (s.tone.voices[(1 : Fin 4)]).playing = true ∧ c.cls = x.2.1 ∧ c.origin = .machine .w ∧ c.flags.silent = false ∧
      ((s.mixer.stage ≠ .driving ∨ (if c.cls = .alarm then max (s.context .w).volume 2 else (s.context .w).volume) = 0) ∧
        ¬(c.state = .ending ∧ c.endCause = some .purged) ↔ x.2.2.2.2 = true) := by
  intro x hx
  refine ⟨((voicing { cue with cls := x.2.1, state := x.2.2.1, endCause := some .purged } 1
      (beginVoice 0 patternClick)).onMixer fun y => { y with stage := x.1 }).onCtx .w fun y => { y with volume := x.2.2.2.1 },
    { cue with cls := x.2.1, state := x.2.2.1, endCause := some .purged }, ?_, ?_, ?_, ?_, rfl, rfl, rfl, ?_⟩ <;>
    fin_cases hx <;> first | exact atRest_of_restful (by decide) | decide

/-- The part with a Stream that plays the list of two fragments of section 7.6. -/
def streaming (f : Stream → Stream) : State :=
  { base with
    utt := { entries := [.fragment ⟨0, 3, 6, 1⟩, .fragment ⟨3, 2, 0, 0⟩, .fragment ⟨5, 1, 0, 0⟩], owner := some (.slot 0) },
    stream := f { idleStream with state := .playing },
    sched := (withCue { cue with state := .playing, phase := some .main }).sched }

/-- A byte to take; an empty ring; bytes left after a blend; trailing silence next; the next fragment next; silence with two events
left. -/
theorem witness_SampleAdvancesStream :
    (∃ s b rest, State.AtRest s ∧ s.stream.state = .playing ∧ s.stream.part = .samples ∧ s.stream.half = .consume ∧
      s.stream.ring = b :: rest) ∧
    (∃ s c, State.AtRest s ∧ s.stream.state = .playing ∧ s.stream.part = .samples ∧ s.stream.half = .consume ∧
      s.stream.ring = [] ∧ s.stream.stalled = false ∧ s.utt.owner = some (.slot 0) ∧
      s.sched.table[(0 : Fin 24)] = some c) ∧
    (∃ s, State.AtRest s ∧ s.stream.state = .playing ∧ s.stream.part = .samples ∧ s.stream.half = .blend ∧
      0 < s.stream.bytesLeft ∧ s.stream.bytesLeft = 1) ∧
    (∃ s e, State.AtRest s ∧ s.stream.state = .playing ∧ s.stream.part = .samples ∧ s.stream.half = .blend ∧
      s.stream.bytesLeft = 0 ∧ s.utt.entries[s.stream.index - 1]? = some (.fragment e) ∧ 0 < e.silence) ∧
    (∃ s e f, State.AtRest s ∧ s.stream.state = .playing ∧ s.stream.part = .samples ∧ s.stream.half = .blend ∧
      s.stream.bytesLeft = 0 ∧ s.utt.entries[s.stream.index - 1]? = some (.fragment e) ∧ e.silence = 0 ∧
      s.utt.entries[s.stream.index]? = some (.fragment f)) ∧
    ∃ s, State.AtRest s ∧ s.stream.state = .playing ∧ s.stream.part ≠ .samples ∧ 1 < s.stream.eventsLeft ∧
      s.stream.eventsLeft = 2 :=
  ⟨⟨streaming fun x => { x with ring := [5], bytesLeft := 1 }, 5, [], atRest_of_restful (by decide), rfl, rfl, rfl, rfl⟩,
   ⟨streaming fun x => { x with bytesLeft := 1 }, { cue with state := .playing, phase := some .main },
     atRest_of_restful (by decide), rfl, rfl, rfl, rfl, rfl, rfl, by decide⟩,
   ⟨streaming fun x => { x with half := .blend, bytesLeft := 1 }, atRest_of_restful (by decide), rfl, rfl, rfl, by decide,
     rfl⟩,
   ⟨streaming fun x => { x with half := .blend }, ⟨0, 3, 6, 1⟩, atRest_of_restful (by decide), rfl, rfl, rfl, rfl, rfl,
     by decide⟩,
   ⟨streaming fun x => { x with half := .blend, index := 2 }, ⟨3, 2, 0, 0⟩, ⟨5, 1, 0, 0⟩, atRest_of_restful (by decide), rfl,
     rfl, rfl, rfl, rfl, rfl, rfl⟩,
   ⟨streaming fun x => { x with part := .trailing, eventsLeft := 2 }, atRest_of_restful (by decide), rfl, by decide,
     by decide, rfl⟩⟩

/-- The last event of a silence before a fragment and before a silence, and the last blend of a fragment without trailing silence before a
silence. -/
theorem witness_SampleAdvancesStream_next :
    ∀ x ∈ [(UttEntry.silence 3, Section.silence, 1, UttEntry.fragment ⟨5, 1, 0, 0⟩), (.silence 3, .silence, 1, .silence 9),
      (.fragment ⟨5, 1, 0, 0⟩, .samples, 0, .silence 9)], ∃ s, State.AtRest s ∧ s.stream.state = .playing ∧
      ((s.stream.part ≠ .samples ∧ s.stream.eventsLeft ≤ 1) ∨
        (s.stream.part = .samples ∧ s.stream.half = .blend ∧ s.stream.bytesLeft = 0 ∧
          ∃ e, s.utt.entries[s.stream.index - 1]? = some (.fragment e) ∧ e.silence = 0)) ∧
      s.utt.entries[s.stream.index]? = some x.2.2.2 := by
  intro x hx
  refine ⟨{ streaming (fun y => { y with part := x.2.1, half := .blend, eventsLeft := x.2.2.1 }) with
    utt := ⟨[x.1, x.2.2.2], some (.slot 0)⟩ }, ?_, rfl, ?_, ?_⟩ <;>
    fin_cases hx <;>
    first
      | exact atRest_of_restful (by decide)
      | exact .inl ⟨by decide, by decide⟩
      | exact .inr ⟨rfl, rfl, rfl, ⟨5, 1, 0, 0⟩, rfl, rfl⟩
      | rfl

/-- The utterance of slot 0 has come to its end: its second entry, a silence, has one event left; voice 2 is held for a tone part. -/
def utteranceOver (c : Cue) : State :=
  { (voicing c 2 (beginVoice 0 patternClick)).onPath fun x => { x with holder := some (.slot 0) } with
    utt := ⟨[.fragment ⟨256, 100, 5, 10⟩, .silence 9], some (.slot 0)⟩,
    stream := { idleStream with state := .playing, part := .silence, eventsLeft := 1, index := 2 } }

/-- The last play and one with a repeat left of speech alone, BEFORE, and WITH with the pattern over; WITH with the pattern on; and
AFTER. -/
theorem witness_UtteranceEndsPhase :
    let spent (s : State) (c : Cue) : Prop := s.AtRest ∧ s.stream.state = .playing ∧
      s.utt.entries[s.stream.index]? = none ∧ s.utt.owner = some (.slot 0) ∧ s.sched.table[(0 : Fin 24)] = some c ∧
      c.origin = .machine .w ∧ c.state = .playing ∧ c.phase = some .main ∧ c.speechPlays = true ∧
      s.sched.path.holder = some (.slot 0) ∧ s.stream.part ≠ .samples ∧ s.stream.eventsLeft ≤ 1
    (∀ x ∈ [none, some (TonePart.mk 0 .before), some (TonePart.mk 0 .together)], ∀ n ∈ [0, 1], ∃ s c, spent s c ∧
      (c.tone = none ∨
        (∃ x, c.tone = some x ∧ (x.timing = .before ∨ (x.timing = .together ∧ c.patternEnded = true)))) ∧
      s.NothingToServe ∧ s.FreesQuietly 0 ∧ c.repeatsLeft = n ∧ c.gapLength = n ∧ s.EndsQuietly .w 0) ∧
    (∃ s c x, spent s c ∧ c.tone = some x ∧ x.timing = .together ∧ c.patternEnded = false) ∧
    ∃ s c x, spent s c ∧ c.tone = some x ∧ x.timing = .after ∧ s.voiceOf (.slot 0) = some 2 ∧
      s.tone.patterns[x.pattern] = some patternClick := by
  intro spent
  have h (c : Cue) (hs : restful (utteranceOver c) = true)
      (ht : (utteranceOver c).sched.table[(0 : Fin 24)] = some c) (ho : c.origin = .machine .w) (hp : c.state = .playing)
      (hm : c.phase = some .main) (hc : c.speechPlays = true)  : spent (utteranceOver c) c :=
    ⟨atRest_of_restful hs, rfl, rfl, rfl, ht, ho, hp, hm, hc, rfl, Section.noConfusion, Nat.le_refl 1⟩
  refine ⟨fun x hx n hn => ⟨_, { toned .before .main true false n with tone := x, patternEnded := true },
      h _ ?_ ?_ rfl rfl rfl rfl, ?_, ?_, ?_, rfl, rfl, ?_⟩,
    ⟨_, toned .together .main true false 0, ⟨0, .together⟩, h _ ?_ ?_ rfl rfl rfl rfl, rfl, rfl, rfl⟩,
    ⟨_, toned .after .main true false 0, ⟨0, .after⟩, h _ ?_ ?_ rfl rfl rfl rfl, rfl, rfl, ?_, ?_⟩⟩
  all_goals first
    | decide
    | (fin_cases hx <;> fin_cases hn <;>
        first
          | decide
          | exact .inl rfl
          | exact .inr ⟨_, rfl, .inl rfl⟩
          | exact .inr ⟨_, rfl, .inr ⟨rfl, rfl⟩⟩
          | exact nothing (by decide) rfl
          | exact endsQuietly rfl (by decide) (by decide) (by decide)
          | exact fun _ => ⟨rfl, rfl, rfl⟩)

/-- The end of the utterance of a cue with speech alone with a repeat left and a gap of 0, its deadline passed and not. -/
theorem witness_UtteranceEndsPhase_gap0 :
    ∀ x ∈ [true, false], ∃ s c f rest, State.AtRest s ∧ s.stream.state = .playing ∧
      s.utt.entries[s.stream.index]? = none ∧ s.utt.owner = some (.slot 0) ∧ s.sched.table[(0 : Fin 24)] = some c ∧
      c.origin = .machine .w ∧ c.state = .playing ∧ c.phase = some .main ∧ c.speechPlays = true ∧
      s.sched.path.holder = some (.slot 0) ∧ s.stream.part ≠ .samples ∧ s.stream.eventsLeft ≤ 1 ∧ c.tone = none ∧
      c.speech = some [.fragment 1] ∧ c.cls ≠ .echo ∧ 0 < c.repeatsLeft ∧ c.gapLength = 0 ∧ c.deadlinePassed = x ∧
      s.NothingToServe ∧ s.FreesQuietly 0 ∧ s.EndsQuietly .w 0 ∧ s.Unreserved (.slot 0) ∧ s.store.state = .ok ∧
      (s.assembleItems (s.context .w) [.fragment 1]).entries = .fragment f :: rest := by
  intro x hx
  refine ⟨{ utteranceOver { toned .before .main true false 1 with tone := none, gapLength := 0, deadlinePassed := x } with
      store := voiced.store }, { toned .before .main true false 1 with tone := none, gapLength := 0, deadlinePassed := x },
    ⟨256, 100, 5, 10⟩, [], ?_, rfl, rfl, rfl, ?_, rfl, rfl, rfl, rfl, rfl, Section.noConfusion, Nat.le_refl 1, rfl, rfl,
    CueClass.noConfusion, Nat.one_pos, rfl, rfl, ?_, ?_, ?_, ?_, rfl, ?_⟩
  · fin_cases hx <;> exact atRest_of_restful (by decide)
  · fin_cases hx <;> decide
  · fin_cases hx <;> exact nothing (by decide) rfl
  · exact fun _ => ⟨rfl, rfl, rfl⟩
  · fin_cases hx <;> exact endsQuietly rfl (by decide) (by decide) (by decide)
  · fin_cases hx <;> exact unreserved (by decide) (by decide)
  · fin_cases hx <;> decide

/-- A voice ducked by a speaking cue of another slot; a voice nobody holds; dead times of 1 and 16. -/
theorem witness_DuckCarrierAndBridge :
    (∃ (s : State) (h p : CueRef) (c : Cue), s.resetHeld = false ∧ (s.sched.voices[(1 : Fin 4)]).holder = some h ∧
      s.sched.path.holder = some p ∧ h ≠ p ∧ s.stream.state = .playing ∧ s.cue? p = some c ∧ c.state = .playing ∧
      c.phase = some .main) ∧
    (∃ s : State, s.resetHeld = false ∧ (s.sched.voices[(1 : Fin 4)]).holder = none) ∧
    (∃ s : State, s.resetHeld = false ∧ 1 ≤ s.mixer.deadTime ∧ s.mixer.deadTime ≤ 16 ∧ s.mixer.deadTime = 1) ∧
    ∃ s : State, s.resetHeld = false ∧ 1 ≤ s.mixer.deadTime ∧ s.mixer.deadTime ≤ 16 ∧ s.mixer.deadTime = 16 :=
  ⟨⟨((streaming id).onPath fun x => { x with holder := some (.slot 0) }).onVoiceRes 1 fun x =>
       { x with holder := some .narration }, .narration, .slot 0, { cue with state := .playing, phase := some .main }, rfl,
     by decide, rfl, by decide, rfl, by decide, rfl, rfl⟩,
   ⟨base, rfl, by decide⟩,
   ⟨base.onMixer fun x => { x with deadTime := 1 }, rfl, by decide, by decide, rfl⟩,
   ⟨base.onMixer fun x => { x with deadTime := 16 }, rfl, by decide, by decide, rfl⟩⟩

/-- The part with its stage in a state. -/
def staged (st : StageState) (trips : Nat) (enable sense : Bool) (retry : Option Nat) : State :=
  base.onMixer fun x => { x with stage := st, trips := trips, enable := enable, sense := sense, retryTimer := retry }

/-- A DRIVING stage with its gates driven at the limit of the duty; two periods whose low and high lines are on at the last and the first
count they can be; and a stage that is not DRIVING. -/
theorem witness_DuckCarrierAndBridge_bridge :
    (∃ s g, s.mixer.StageOk ∧ State.gateOn s .pHigh 8 = true ∧ s.mixer.gates = some g ∧ g.duty = 1016) ∧
    (∃ (s t : State) (g : GateDrive), s.mixer.StageOk ∧ t.mixer.gates = some g ∧ s.gateOn .pLow 1023 = true ∧
      t.gateOn .pHigh g.deadTime = true) ∧
    ∃ s : State, s.mixer.StageOk ∧ s.mixer.stage ≠ .driving :=
  ⟨⟨(staged .driving 0 true false none).onMixer fun x => { x with gates := some ⟨1016, 8⟩ }, ⟨1016, 8⟩,
     by refine ⟨by decide, by decide, by decide, by decide, by decide, by decide, ?_⟩; intro g h; cases h; decide,
     by decide, rfl, rfl⟩,
   ⟨(staged .driving 0 true false none).onMixer fun x => { x with gates := some ⟨512, 8⟩ },
     (staged .driving 0 true false none).onMixer fun x => { x with gates := some ⟨1016, 8⟩ }, ⟨1016, 8⟩,
     by refine ⟨by decide, by decide, by decide, by decide, by decide, by decide, ?_⟩; intro g h; cases h; decide, rfl,
     by decide, by decide⟩,
   ⟨base, by refine ⟨by decide, by decide, by decide, by decide, by decide, by decide, fun g h => (nomatch h)⟩, by decide⟩⟩

/-- Enable bytes of 2 and 1, with the sense inactive and active; a reset of the trip count in each state of the stage. -/
theorem witness_SpeakerCommandsMoveStage :
    (∃ s : State, s.ServesRequest .w ∧ ¬(s.mixer.stage = .disabled ∧ (1 : Byte) = 1 ∧ s.mixer.sense = true) ∧
      1 < (2 : Byte).toNat ∧ (1 : Byte).toNat ≤ 1) ∧
    (∃ s : State, s.ServesRequest .w ∧ s.mixer.stage = .disabled ∧ s.mixer.sense = true) ∧
    (∃ s : State, s.ServesRequest .w ∧ s.mixer.stage = .driving) ∧
    (∃ s : State, s.ServesRequest .w ∧ s.mixer.stage = .tripped ∧ ¬(s.mixer.enable = true ∧ s.mixer.sense = true)) ∧
    (∃ s : State, s.ServesRequest .w ∧ s.mixer.stage = .locked ∧ ¬(s.mixer.enable = true ∧ s.mixer.sense = true)) ∧
    ∀ x ∈ [StageState.tripped, .locked], ∃ s : State, s.ServesRequest .w ∧ s.mixer.stage = x ∧ s.mixer.enable = true ∧
      s.mixer.sense = true ∧ s.attached .d = true :=
  ⟨⟨base, base_serves_w, by decide, by decide, by decide⟩,
   ⟨staged .disabled 0 false true none, serves_of_serving (by decide), rfl, rfl⟩,
   ⟨staged .driving 2 true false none, serves_of_serving (by decide), rfl⟩,
   ⟨staged .tripped 1 true false (some 5), serves_of_serving (by decide), rfl, by decide⟩,
   ⟨staged .locked 3 false true none, serves_of_serving (by decide), rfl, by decide⟩,
   fun x hx => ⟨staged x 3 true true none, serves_of_serving (by fin_cases hx <;> decide), rfl, rfl, rfl, rfl⟩⟩

/-- The sense input in and out of DRIVING, over an idle and a busy transmitter; the retry timer at trip counts 3 and 2 and with no
trip. -/
theorem witness_TripAndRetry :
    (∃ s : State, s.AtRest ∧ s.mixer.stage ≠ .driving ∧ s.mixer.stage ≠ .tripped) ∧
    (∃ s : State, s.AtRest ∧ s.mixer.stage = .driving ∧ s.attached .w = true ∧ (s.link .w).tx = .idle ∧
      s.attached .d = false) ∧
    (∃ (s : State) (f : TxFrame), s.AtRest ∧ s.mixer.stage = .driving ∧ s.attached .w = true ∧
      (s.link .w).tx = .sending f) ∧
    (∃ s : State, s.AtRest ∧ s.mixer.stage = .tripped ∧ 3 ≤ s.mixer.trips ∧ s.mixer.trips = 3) ∧
    (∃ s : State, s.AtRest ∧ s.mixer.stage = .tripped ∧ s.mixer.trips < 3 ∧ s.mixer.trips = 2 ∧
      ¬(s.mixer.enable = true ∧ s.mixer.sense = true)) ∧
    ∃ s : State, s.AtRest ∧ s.mixer.stage = .tripped ∧ s.mixer.trips < 3 ∧ s.mixer.trips = 2 ∧ s.mixer.enable = true ∧
      s.mixer.sense = true ∧ s.attached .w = true :=
  ⟨⟨base, base_rests, by decide, by decide⟩,
   ⟨{ staged .driving 2 true false none with ctx := ⟨attachedContext, resetContext⟩ }, atRest_of_restful (by decide), rfl,
     rfl, rfl, rfl⟩,
   ⟨(staged .driving 2 true false none).onLink .w fun l => { l with tx := .sending (.focus none) }, .focus none,
     atRest_of_restful (by decide), rfl, rfl, rfl⟩,
   ⟨staged .tripped 3 true true (some 5), atRest_of_restful (by decide), rfl, by decide, rfl⟩,
   ⟨staged .tripped 2 true false (some 5), atRest_of_restful (by decide), rfl, by decide, rfl, by decide⟩,
   ⟨staged .tripped 2 true true (some 5), atRest_of_restful (by decide), rfl, by decide, rfl, rfl, rfl, rfl⟩⟩

/-- Chunk 4, slot 8, and chunk 3 of slot 7. -/
theorem witness_ScenesWrittenAndLoaded_write :
    ∃ (s : State) (dots : List Byte) (i : Fin 16) (c : Fin 4), s.ServesRequest .d ∧ dots.length = 64 ∧
      3 < (4 : Byte).toNat ∧ 7 < (8 : Byte).toNat ∧ c.val = (3 : Byte).toNat ∧ (7 : Byte).toNat ≤ 7 ∧
      i.val = 8 + (7 : Byte).toNat :=
  ⟨base, List.replicate 64 0xFF, 15, 3, base_serves_d, by simp, by decide, by decide, rfl, by decide, rfl⟩

/-- A transfer under way; none, with a scene cue of higher rank than another, with none, and with a held and a free band. -/
theorem witness_UpdateComposesFrame :
    (∃ s : State, s.resetHeld = false ∧ s.display.transfer = .sending) ∧
    (∃ (s : State) (c : Cue), s.resetHeld = false ∧ s.display.transfer = .idle ∧ s.sched.table[(0 : Fin 24)] = some c ∧
      c.state = .playing ∧ c.scene = some 7 ∧ c.origin = .machine .w ∧ (∃ d, s.sched.table[(1 : Fin 24)] = some d ∧
        d.state = .ending ∧ d.scene ≠ none) ∧
      ∀ (j : Fin 24) (d : Cue), s.sched.table[j] = some d → j ≠ 0 → (d.state = .playing ∨ d.state = .ending) →
        d.scene ≠ none → c.cls.rank < d.cls.rank ∨ (c.cls.rank = d.cls.rank ∧ c.latestStart < d.latestStart)) ∧
    ∃ s : State, s.resetHeld = false ∧ s.display.transfer = .idle ∧
      (∀ (i : Fin 24) (c : Cue), s.sched.table[i] = some c → c.state = .playing ∨ c.state = .ending → c.scene = none) ∧
      (s.context .w).bandHold = true ∧ (s.context .d).bandHold = false ∧ s.display.frozen.get .w ≠ none ∧
      (s.context .d).attached = false :=
  ⟨⟨base.onDisplay fun d => { d with transfer := .sending }, rfl, rfl⟩,
   ⟨(withCue { cue with scene := some 7, state := .playing }).setCue (.slot 1)
       (some { cue with state := .ending, latestStart := 1 }), { cue with scene := some 7, state := .playing }, rfl, rfl,
     by decide, rfl, rfl, rfl, ⟨{ cue with state := .ending, latestStart := 1 }, by decide, rfl, by decide⟩,
     forall_cues (by decide)⟩,
   ⟨({ base with ctx := ⟨attachedContext, resetContext⟩ }.onCtx .w fun c => { c with bandHold := true }).onDisplay fun d =>
      { d with frozen := ⟨some blankBand, none⟩ }, rfl,
     rfl, forall_cues (by decide), rfl, rfl, by simp [State.onDisplay, PerSide.get], rfl⟩⟩

/-- 16 characters, hidden and shown, 999 and 599 minutes in WASH, and IDLE. -/
theorem witness_BandDrawsTextAndTime :
    ∀ q ∈ [(999, MachinePhase.wash, true), (599, .wash, false), (0, .idle, false)], ∃ s : State,
      (s.context .w).attached = true ∧ (s.context .w).remaining ≤ 999 ∧ (s.context .w).bandText.length ≤ 16 ∧
      (s.context .w).remaining = q.1 ∧ (s.context .w).phase = q.2.1 ∧ (s.context .w).bandBlink = q.2.2 ∧
      (s.context .w).bandText.length = 16 ∧ 500 ≤ s.now / 1000 % 1000 := by
  intro q hq
  refine ⟨{ base.onCtx .w fun c => { c with
    remaining := q.1, phase := q.2.1, bandBlink := q.2.2, bandText := List.replicate 16 0x41 } with now := 500000 }, ?_⟩
  fin_cases hq <;> decide

/-- Each effect on the ring, no effect, and a running and a stopped idle timer. -/
theorem witness_PwmAndBacklight :
    (∀ f ∈ [LampEffect.chase, .pulse, .flash], ∃ (s : State) (e : RingEffect) (c : Cue), s.resetHeld = false ∧
      s.display.ringEffect = some e ∧ s.sched.table[(e.cue : Fin 24)] = some c ∧ c.origin = .machine .w ∧
      c.lamp = some f) ∧
    (∃ s : State, s.resetHeld = false ∧ s.display.ringEffect = none ∧ s.display.idleTimer ≠ none) ∧
    ∃ s : State, s.resetHeld = false ∧ s.display.idleTimer = none := by
  refine ⟨fun f _ => ?_, ⟨base, rfl, rfl, by decide⟩, ⟨base.stopIdle, rfl, rfl⟩⟩
  exact ⟨(withCue { cue with lamp := some f, state := .playing }).onDisplay fun d => { d with ringEffect := some ⟨0, 0⟩ },
    ⟨0, 0⟩, { cue with lamp := some f, state := .playing }, rfl, rfl, rfl, rfl, rfl⟩

theorem witness_PanelSettingsWritten : ∃ s, State.ServesRequest s .d := ⟨base, base_serves_d⟩

/-- Class 9, action 3 and step 0; a knob step, a key and a proximity of a machine without focus; each event without a local action; a
proximity with the backlight FULL and DIMMED. -/
theorem witness_ForcedKeyReported :
    (∃ s, State.ServesRequest s .w ∧ 8 < (9 : Byte).toNat ∧ 2 < (3 : Byte).toNat ∧ (0 : Byte) ≠ 1) ∧
    (∀ x ∈ [((0 : Byte), (1 : Byte), (9 : Byte)), (7, 0, 2), (8, 0, 9)], ∃ s, State.ServesRequest s .d ∧ s.focus ≠ some .d ∧
      ((x.1 = 0 ∧ (x.2.1 = 1 ∨ x.2.1 = 0xFF)) ∨ (1 ≤ x.1.toNat ∧ x.1.toNat ≤ 7 ∧ x.2.2.toNat ≤ 2) ∨ x.1 = 8)) ∧
    (∃ s k a, State.ServesRequest s .w ∧ s.focus = some .w ∧ (5 : Byte) = 5 ∧
      [Key.push, .start, .options, .back, .swap, .volume, .assist][(5 : Byte).toNat - 1]? = some k ∧
      [KeyAction.press, .long, .release][(1 : Byte).toNat]? = some a) ∧
    (∃ s, State.ServesRequest s .w ∧ s.focus = some .w ∧ s.display.backlight = .full) ∧
    ∃ s, State.ServesRequest s .w ∧ s.focus = some .w ∧ s.display.backlight = .dimmed ∧ s.sched.feedback = ⟨none, none⟩ ∧
      s.sched.voices[(0 : Fin 4)] = ⟨none, none⟩ ∧ s.candidates = [] ∧ s.Unreserved .feedback ∧
      s.tone.patterns[(6 : Fin 32)] = some patternWake :=
  ⟨⟨base, base_serves_w, by decide, by decide, by decide⟩, fun x hx => ⟨base, base_serves_d, by decide,
     by fin_cases hx <;> decide⟩, ⟨base, .swap, .long, base_serves_w, rfl, rfl, rfl, rfl⟩, ⟨base, base_serves_w, rfl, rfl⟩,
   base.onDisplay fun d => { d with backlight := .dimmed }, serves_of_serving (by decide), rfl, rfl, rfl, by decide, by decide,
   unreserved (by decide) (by decide), by decide⟩

/-- A KNOB report of the washer: 127 steps to index 2. -/
def knobs : InputReport := { order := 0, content := .knob 127 2 true }

/-- The other machine attached and not; the last index of a list with its mask full and its input list empty, its tail a KNOB report
whose frame has not begun and has, and 16 reports with a key at the tail. -/
theorem witness_LocalActionsChangeContext :
    (∃ s, State.ServesRequest s .w ∧ s.focus = some .w ∧ s.attached Side.w.other = true) ∧
    (∃ s, State.ServesRequest s .w ∧ s.focus = some .w ∧ s.attached Side.w.other = false) ∧
    ∀ x ∈ [([], .focus none), ([knobs], .focus none), ([knobs], .input knobs),
      (List.replicate 16 { order := 0, content := .key .back .press }, .focus none)], ∃ s, State.ServesRequest s .w ∧
      s.focus = some .w ∧ (s.context .w).index < (s.context .w).programs.length ∧
      (s.panel.mask.get .w).getLsbD 0 = true ∧ (s.context .w).index + 1 = (s.context .w).programs.length ∧
      (s.link .w).inputs = x.1 ∧ (s.link .w).tx = .sending x.2 := by
  refine ⟨⟨base, base_serves_w, rfl, rfl⟩,
    ⟨{ base with ctx := ⟨attachedContext, resetContext⟩ }, serves_of_serving (by decide), rfl, rfl⟩, fun x hx => ?_⟩
  refine ⟨(base.onCtx .w fun c => { c with programs := [1, 2, 3], index := 2 }).onLink .w fun l =>
      { l with inputs := x.1, tx := .sending x.2 }, ?_, rfl, Nat.lt_succ_self 2,
    (by decide : (base.panel.mask.get .w).getLsbD 0 = true), rfl, rfl, rfl⟩
  fin_cases hx <;> exact serves_of_serving (by decide)

/-- Each local action that sets a feedback cue (pattern, class, step, action, assist) with voice 0 free and with a feedback cue playing, and
each that narrates, with a check and with a failed store. -/
theorem witness_PanelCuesFollowActions :
    (∀ x ∈ [((0 : Fin 32), (0 : Byte), (1 : Byte), (0 : Byte), false), (1, 5, 0, 0, false), (1, 6, 0, 1, false),
        (1, 7, 0, 0, true), (2, 0, 0xFF, 0, true)], ∀ current ∈ [false, true], ∃ s, State.ServesRequest s .w ∧
      s.focus = some .w ∧ s.attached Side.w.other = true ∧ (s.context .w).assist = x.2.2.2.2 ∧
      (s.context .w).wrap = false ∧ (s.context .w).programs.length = 2 ∧ (s.context .w).index = 0 ∧
      s.tone.patterns[x.1] ≠ none ∧
      (current = false → s.ResourceLaws ∧ s.sched.feedback.current = none ∧ (s.sched.voices[(0 : Fin 4)]).holder = none) ∧
      (current = true → s.sched.feedback.current ≠ none ∧ (s.sched.voices[(0 : Fin 4)]).holder = some .feedback)) ∧
    (∃ s, State.ServesRequest s .w ∧ s.focus = some .w ∧ s.attached Side.w.other = false) ∧
    (∃ s x, State.ServesRequest s .w ∧ s.focus = some .w ∧ s.store.state = .ok ∧ s.store.check ≠ .idle ∧
      (s.context Side.w.other).assist = true ∧ s.sched.narration.current = some x ∧ x.state = .playing) ∧
    ∃ s, State.ServesRequest s .w ∧ s.focus = some .w ∧ s.ResourceLaws ∧ s.store.state = .failed ∧
      s.sched.narration.current = none := by
  refine ⟨fun x hx c hc => ?_, ?_, ?_, ⟨base, base_serves_w, rfl, laws_of_lawful (by decide), rfl, rfl⟩⟩
  · refine ⟨((base.onCtx .w fun c => { c with programs := [1, 2], assist := x.2.2.2.2 }).onVoiceRes 0 fun y =>
        if c then { y with holder := some .feedback } else y).setCue .feedback
          (if c then some { panelCue 0 none (some ⟨0, .together⟩) with state := .playing } else none), ?_, rfl, rfl, rfl, rfl,
        rfl, rfl, ?_, ?_, ?_⟩ <;>
      fin_cases hc <;> fin_cases hx <;>
        first
          | exact serves_of_serving (by decide)
          | exact Bool.noConfusion
          | decide
          | exact fun _ => ⟨laws_of_lawful (by decide), by decide, by decide⟩
  · exact ⟨{ base with ctx := ⟨attachedContext, resetContext⟩ }, serves_of_serving (by decide), rfl, rfl⟩
  · exact ⟨({ stocked with store := { stocked.store with check := .running, port := .check } }.onCtx .d fun c =>
        { c with assist := true }).setCue .narration (some { panelCue 0 (some [.fragment 66]) none with state := .playing }),
      { panelCue 0 (some [.fragment 66]) none with state := .playing }, serves_of_serving (by decide), rfl, rfl, by decide,
      rfl, rfl, rfl⟩

/-- A claim of the dryer in assist mode, its name in the store, with the path free; and a SWAP to it. -/
theorem witness_PanelCuesFollowActions_speak :
    ∃ (s t : State) (e : UttEntry) (rest : List UttEntry), s.ServesRequest .d ∧ s.ServesRequest .w ∧ s.focus = some .w ∧
      s.attached .w = true ∧ (s.context .w).lastInput.any (fun t => s.now < t + 10000000) = false ∧
      (s.context .d).assist = true ∧ exec (.focusClaim .d true []) s = .next t ∧ s.ResourceLaws ∧ s.store.state = .ok ∧
      s.store.check = .idle ∧ s.sched.path = ⟨none, none⟩ ∧ s.sched.narration.current = none ∧ s.candidates = [] ∧
      t.focus = some .d ∧
      (s.assembleItems (t.context .d) [.fragment (nameFragment .d), .field .program]).entries = e :: rest :=
  ⟨{ base with store := { base.store with
      state := .ok, catalog := some ⟨4096, [⟨false, false, List.replicate 69 ⟨256, 100, 5, 10⟩⟩], []⟩ } }.onCtx .d fun c =>
        { c with assist := true }, _, .fragment ⟨256, 100, 5, 10⟩, [.fragment ⟨256, 100, 5, 10⟩],
    serves_of_serving (by decide), serves_of_serving (by decide), rfl, rfl, by decide, rfl, rfl, laws_of_lawful (by decide),
    rfl, rfl, rfl, rfl, by decide, by decide +kernel, by decide +kernel⟩

/-- The samples that raise VOLUME and the proximity line, and nothing else, at the holder's machine and with nobody holding focus. -/
theorem witness_PanelLinesTaken_edges :
    ∀ h ∈ [some Side.w, none], ∃ s : State, s.resetHeld = false ∧ s.panel.sampled = true ∧ s.focus = h ∧
      s.sched.feedback = ⟨none, none⟩ ∧ (s.sched.voices[(0 : Fin 4)]).holder = none ∧
      s.tone.patterns[(1 : Fin 32)] ≠ none ∧ s.AtRest ∧ s.ResourceLaws ∧
      ∀ i : Fin 10, (((after (.inputSample 0x280 []) s).panel.lines[i]).level ≠ (s.panel.lines[i]).level ↔ i = 7 ∨ i = 9) ∧
        (s.panel.lines[i]).level = false := by
  intro h hh
  refine ⟨{ base with focus := h }.onPanel fun p =>
    { p with sampled := true, lines := (p.lines.set 7 ⟨false, 15⟩).set 9 ⟨false, 15⟩ }, rfl, rfl, rfl, rfl, rfl,
    (by decide : base.tone.patterns[(1 : Fin 32)] ≠ none), ?_, ?_, ?_⟩ <;>
    fin_cases hh <;>
    first
      | exact atRest_of_restful (by decide)
      | exact laws_of_lawful (by decide)
      | decide +kernel

/-- Before and after the first sample. -/
theorem witness_PanelLinesTaken :
    (∃ s : State, s.resetHeld = false ∧ s.panel.sampled = false) ∧
    ∃ s : State, s.resetHeld = false ∧ s.panel.sampled = true :=
  ⟨⟨base, rfl, rfl⟩, ⟨base.onPanel fun p => { p with sampled := true }, rfl, rfl⟩⟩

theorem witness_PanelLinesTaken_long :
    (∃ s, State.AtRest s ∧ s.panel.longTimers[keyTimer .swap] = none) ∧
    (∃ s, State.AtRest s ∧ s.panel.longTimers[keyTimer .assist] ≠ none ∧ s.focus = none) ∧
    ∃ s, State.AtRest s ∧ s.panel.longTimers[keyTimer .swap] ≠ none ∧ s.focus = some .w ∧
      [Key.push, .start, .options, .back, .swap][4]? = some .swap :=
  ⟨⟨base, base_rests, by decide⟩,
   ⟨{ base with focus := none }.setLongTimer .assist (some 5), atRest_of_restful (by decide), by decide, rfl⟩,
   ⟨base.setLongTimer .swap (some 5), atRest_of_restful (by decide), by decide, rfl, rfl⟩⟩

/-! A step from a state that meets each invariant. -/

theorem witness_StepKeepsSettled : ∃ s t : State, s.Settled ∧ step s = .next t := ⟨base, _, base_rests.2, rfl⟩

theorem witness_StepKeepsContextsAndFocus :
    ∃ s t : State, s.ContextsInRange ∧ s.FocusAttached ∧ step s = .next t ∧
      (∀ b, s.pending.head? ≠ some (.powerReset b)) ∧ s.focus ≠ none ∧ s.attached .w = true :=
  ⟨{ stocked with pending := [.focusClaim .d false []] }, _,
    ⟨stocked_catalogOk, by unfold Context.InRange; decide, by unfold Context.InRange; decide, by decide, by decide⟩,
    ⟨fun m _ => by cases m <;> rfl, fun h => (nomatch h)⟩, rfl, by simp, by decide, rfl⟩

theorem witness_StepKeepsBounds :
    ∃ s t : State, s.LinksBounded ∧ s.mixer.MixOk ∧ s.display.LevelsOk ∧ s.panel.SettingsOk ∧ s.RingOk ∧
      s.machineCount .w ≤ 16 ∧ step s = .next t :=
  ⟨{ base with pending := [.duckTick] }, _,
    ⟨⟨by decide, by decide, trivial⟩, by decide, by decide, trivial⟩, ⟨by decide, by decide, by decide⟩,
    ⟨fun m => by cases m <;> decide, by decide, by decide⟩,
    ⟨by decide, by decide, by decide, by decide, by decide, by decide, by decide⟩, ⟨by decide, by decide⟩, by decide, rfl⟩

/-- A link that sends the report of its first listed cue; the other's frame ends in the step. -/
theorem witness_StepKeepsReports :
    ∃ s t : State, s.ReportsOk ∧ step s = .next t ∧ s.machineCount .w ≤ 16 ∧ (s.sched.markers.get .w).length ≤ 4 ∧
      (s.link .w).done ≠ [] := by
  let c : Cue := { cue with state := .reporting, outcome := some .completed }
  let s : State := { ((withCue c).onSched fun sc => { sc with nextUid := 1 }).onLink .w fun l =>
      { l with done := [report], tx := .sending (.done report), nextOrder := 1 } with pending := [.frameSent .w false] }
  refine ⟨s, _, ⟨?_, forall_cues (by decide), ?_⟩, rfl, by decide, by decide, by decide⟩
  · intro i j a b hi hj _
    have : ∀ (k : Fin 24) d, s.sched.table[k] = some d → k = 0 := forall_cues (by decide)
    rw [this i a hi, this j b hj]
  · intro m
    cases m
    · refine ⟨by decide, fun r hr => ?_, fun f hf => ?_⟩
      · cases List.mem_singleton.1 hr
        exact ⟨by decide, 0, c, by decide, rfl, rfl, rfl⟩
      · cases hf
        exact ⟨by decide, by decide, by decide, forall_cues (by decide)⟩
    · exact ⟨.nil, fun r hr => (nomatch hr), fun f hf => (nomatch hf)⟩

/-- A DRIVING stage, and one whose reset input is low. -/
theorem witness_StepKeepsStage :
    (∃ s t : State, s.StageLaws ∧ s.mixer.stage = .driving ∧ step s = .next t) ∧
    ∃ s t : State, s.StageLaws ∧ s.resetHeld = true ∧ step s = .next t :=
  ⟨⟨{ staged .driving 2 true false none with pending := [.overCurrentTrip true] }, _,
     ⟨⟨by decide, by decide, by decide, by decide, by decide, by decide, fun g h => (nomatch h)⟩, Bool.noConfusion⟩, rfl, rfl⟩,
   ⟨{ staged .disabled 0 false false none with resetHeld := true, pending := [.overCurrentTrip true] }, _,
     ⟨⟨by decide, by decide, by decide, by decide, by decide, by decide, fun g h => (nomatch h)⟩, fun _ => rfl⟩, rfl, rfl⟩⟩

/-- A machine with an image load in service, whose transfer has the port for its last burst. -/
theorem witness_StepKeepsService : ∃ s t : State, s.ServiceOk ∧ step s = .next t :=
  ⟨{ onW fun l => { l with inService := some ⟨.sceneFromStore, true⟩ } with
      store := { stocked.store with port := .g, chanG := [⟨.w, 2, 0, 224⟩] }, pending := [.storeBurstEnd ⟨0, []⟩] }, _,
    by refine ⟨⟨rfl, ?_⟩, ⟨rfl, rfl, rfl⟩, ?_, ?_, ?_, ?_, ?_⟩ <;> decide, rfl⟩

/-- A playing cue that holds the speech path. -/
theorem witness_StepKeepsResources : ∃ s t : State, s.ResourceLaws ∧ step s = .next t := by
  let s : State := { (withCue (playing 0 0)).onPath (fun x => { x with holder := some (.slot 0) }) with
    pending := [.fadeTimerExpiry (.slot 0)] }
  exact ⟨s, _, laws_of_lawful (by decide), rfl⟩

end Sys2Proof.Tests
end

section
/-! SUPPORT. What the receive assembler does, said once for each of its states, and the reception table (R1 to R4). -/

namespace Sys2Proof.Machine

/-! ### A completed frame and the request queue (R4) -/

theorem Link.offer_eq (l : Link) (e : QueueEntry) :
    l.offer e = if 4 ≤ l.queue.length then l.addCause Causes.withOverrun else { l with queue := l.queue ++ [e] } := by
  by_cases hfull : 4 ≤ l.queue.length
  · rw [if_pos hfull]
    exact if_neg (Nat.not_lt.2 hfull)
  · rw [if_neg hfull]
    exact if_pos (Nat.not_le.1 hfull)

theorem frameEntry_eq (len : Nat) (got : List Byte) :
    frameEntry len got =
      if (len + (got.map BitVec.toNat).sum) % 256 = 0 then
        .request ((got.getD 0 0).setWidth 7) ((got.getD 0 0).getLsbD 7) ((got.drop 1).take len)
      else .badCheck := by
  simp only [frameEntry, sumPasses, decide_eq_true_eq]

/-! ### One character, in each state of the assembler (R1, R3) -/

theorem Link.assemble_of_search {l : Link} (h : l.asm = .search) (c : Byte) :
    l.assemble c = if c = 0xC5 then { l with asm := .length } else l := by
  rw [Link.assemble, h]

theorem Link.assemble_of_length {l : Link} (h : l.asm = .length) (c : Byte) :
    l.assemble c = if c.toNat ≤ 96 then { l with asm := .body c.toNat [] }
      else { l with asm := .discard }.addCause Causes.withFraming := by
  rw [Link.assemble, h]

theorem Link.assemble_of_discard {l : Link} (h : l.asm = .discard) (c : Byte) : l.assemble c = l := by
  rw [Link.assemble, h]

/-- KIND and the payload, `len + 1` characters in all, are stored. -/
theorem Link.assemble_of_body_stored {l : Link} {len : Nat} {got : List Byte} (h : l.asm = .body len got)
    (hroom : got.length < len + 1) (c : Byte) : l.assemble c = { l with asm := .body len (got ++ [c]) } := by
  rw [Link.assemble, h]
  exact if_pos (Nat.succ_lt_succ hroom)

/-- The character after them is CHECK. -/
theorem Link.assemble_of_body_check {l : Link} {len : Nat} {got : List Byte} (h : l.asm = .body len got)
    (hcheck : len + 1 ≤ got.length) (c : Byte) :
    l.assemble c = { l with asm := .search }.offer (frameEntry len (got ++ [c])) := by
  rw [Link.assemble, h]
  exact if_neg (Nat.not_lt.2 (Nat.succ_le_succ hcheck))

/-! ### A low stop bit (R2) -/

/-- SEARCH holds no partial frame, so a low stop bit leaves the assembler in SEARCH from every state but DISCARD. -/
theorem Link.badStop_eq (l : Link) : l.badStop = { l with asm := if l.asm = .discard then .discard else .search } := by
  obtain ⟨asm⟩ := l
  cases asm <;> rfl

/-! ### The rows of reception -/

section
variable {s : State} (hup : s.resetHeld = false) (m : Side)
include hup

theorem exec_characterReceived (c : Byte) :
    exec (.characterReceived m c) s = .next (s.onLink m fun l => l.receive c s.now) :=
  running_of_up hup fun s => s.onLink m fun l => l.receive c s.now

theorem exec_stopBitLow : exec (.stopBitLow m) s = .next (s.onLink m Link.badStop) :=
  running_of_up hup fun s => s.onLink m Link.badStop

theorem exec_linkGapTimerExpiry : exec (.linkGapTimerExpiry m) s = .next (s.onLink m Link.gapExpiry) :=
  running_of_up hup fun s => s.onLink m Link.gapExpiry

end

/-- Settles O5: the three rows run on the one link, and there the assembler's state says which rule of R1 to R4 applies. -/
theorem receptionTable : Obligations.ReceptionTable := by
  refine ⟨fun s m c hup => ?_, fun s m hup => ⟨exec_linkGapTimerExpiry hup m, ?_⟩⟩
  · rw [exec_characterReceived hup]
    congr 2
    funext l
    rw [Link.receive]
    cases l.asm with
    | search => exact Link.assemble_of_search rfl c
    | length => exact Link.assemble_of_length rfl c
    | discard => exact Link.assemble_of_discard rfl c
    | body len got =>
      dsimp only
      split
      next hroom => exact Link.assemble_of_body_stored rfl hroom c
      next hroom =>
        rw [Link.assemble_of_body_check (len := len) (got := got) rfl (Nat.not_lt.1 hroom), frameEntry_eq, Link.offer_eq]
        rfl
  · rw [exec_stopBitLow hup]
    congr 2
    funext l
    exact Link.badStop_eq l

end Sys2Proof.Machine
end

section
/-! SUPPORT. Which slot an id names, and what CUE_QUERY reads of the cue there (R48). -/

namespace Sys2Proof.Machine

/-! ### The slot of an id (R36, R48) -/

/-- The slot found is that of a cue of the machine with this id. -/
theorem State.slotOfId_found {s : State} {m : Side} {id : Nat} {i : Fin 24} (h : s.slotOfId m id = some i) :
    ∃ c, s.sched.table[i] = some c ∧ c.ofMachine m = true ∧ c.id = id := by
  obtain ⟨⟨j, c⟩, hfind, rfl⟩ := Option.map_eq_some_iff.1 h
  have hp := List.find?_some hfind
  simp only [Bool.and_eq_true, decide_eq_true_eq] at hp
  exact ⟨c, (s.mem_tableCues j c).1 (List.mem_of_find?_eq_some hfind), hp⟩

theorem State.slotOfId_eq_none_iff (s : State) (m : Side) (id : Nat) :
    s.slotOfId m id = none ↔
      ∀ (i : Fin 24) (c : Cue), s.sched.table[i] = some c → c.ofMachine m = true → c.id ≠ id := by
  simp only [State.slotOfId, Option.map_eq_none_iff, List.find?_eq_none, Prod.forall, State.mem_tableCues,
    Bool.and_eq_true, decide_eq_true_eq, not_and, ne_eq]

/-- A cue of the machine that alone has its id is the one found. -/
theorem State.slotOfId_eq_some {s : State} {m : Side} {i : Fin 24} {c : Cue} (hc : s.sched.table[i] = some c)
    (hm : c.ofMachine m = true)
    (alone : ∀ (j : Fin 24) d, s.sched.table[j] = some d → d.ofMachine m = true → d.id = c.id → j = i) :
    s.slotOfId m c.id = some i := by
  cases hslot : s.slotOfId m c.id with
  | none => exact absurd rfl ((s.slotOfId_eq_none_iff m c.id).1 hslot i c hc hm)
  | some j =>
    obtain ⟨d, hd, hdm, hid⟩ := State.slotOfId_found hslot
    rw [alone j d hd hdm hid]

/-! ### The verdict of CUE_QUERY -/

theorem State.cueQuery_of_slot {s : State} {m : Side} {id : Nat} {i : Fin 24} {c : Cue}
    (hslot : s.slotOfId m id = some i) (hc : s.sched.table[i] = some c) : s.cueQuery m id = .done c.queryResult := by
  rw [State.cueQuery, hslot, Option.bind_some, hc]

theorem State.cueQuery_of_no_slot {s : State} {m : Side} {id : Nat} (hslot : s.slotOfId m id = none) :
    s.cueQuery m id = .refused .noSuchCue := by
  simp [State.cueQuery, hslot]

/-! ### The row -/

/-- A request of an allowed length passes the checks of R7 on a link that serves requests. -/
theorem State.linkRefusal_of_serves {s : State} {m : Side} (h : s.ServesRequest m) {k : RequestKind} {p : List Byte}
    (hlen : lenAllowed k p = true) : s.linkRefusal m k p = none := by
  obtain ⟨-, hready, hattached⟩ := h
  simp [State.linkRefusal, hready, hattached, hlen]

theorem State.ServesRequest.atRest {s : State} {m : Side} (h : s.ServesRequest m) : s.AtRest := h.1.1

section
variable {s : State} {m : Side} (h : s.ServesRequest m) (note : Bool) (id : Byte)
include h

theorem exec_cueQuery :
    exec (.cueQuery m note [id]) s = .next (s.submit m .cueQuery note [id]).settle :=
  running_of_up h.atRest.1 fun s => (s.submit m .cueQuery note [id]).settle

theorem exec_cueQuery_done {r : List Byte} (hv : s.cueQuery m id.toNat = .done r) :
    exec (.cueQuery m note [id]) s = .next (s.answered m .cueQuery (.done r) note) := by
  have hh : s.handle m .cueQuery [id] = (.done r, s) := congrArg (·, s) hv
  have hsubmit := State.submit_done h.1 .cueQuery note [id] r (State.linkRefusal_of_serves h rfl) (by decide) hh h.atRest.2
  rw [exec_cueQuery h, hsubmit]

theorem exec_cueQuery_refused {r : Reason} (hv : s.cueQuery m id.toNat = .refused r) :
    exec (.cueQuery m note [id]) s = .next (s.refuses m .cueQuery r note) := by
  have hh : s.handle m .cueQuery [id] = (.refused r, s) := congrArg (·, s) hv
  have hsubmit := State.submit_refused h.1 .cueQuery note [id] r (State.linkRefusal_of_serves h rfl) hh h.atRest.2
  rw [exec_cueQuery h, hsubmit]

end

/-! ### The five values, by the cue's state (01 §1.9) -/

theorem Cue.queryResult_of_playing {c : Cue} (h : c.state = .playing) :
    c.queryResult = [2, phaseByte c.phase, byteOf c.preempts, byteOf c.repeatsLeft, 0xFF] := by
  simp [Cue.queryResult, stateByte, h]

theorem Cue.queryResult_of_reporting {c : Cue} (h : c.state = .reporting) :
    c.queryResult =
      [5, 0xFF, byteOf c.preempts, byteOf c.repeatsLeft, (c.outcome.map CueOutcome.code).getD 0xFF] := by
  simp [Cue.queryResult, stateByte, h]

/-- A cue that neither plays nor reports shows neither phase nor outcome. -/
theorem Cue.queryResult_of_other {c : Cue} (hp : c.state ≠ .playing) (hr : c.state ≠ .reporting) :
    c.queryResult = [stateByte c.state, 0xFF, byteOf c.preempts, byteOf c.repeatsLeft, 0xFF] := by
  simp [Cue.queryResult, hp, hr]

/-- Settles O19: the cue found is the only one with the id; which of its values show is decided by its state. -/
theorem cueQueryReadsCue : Obligations.CueQueryReadsCue := by
  refine fun s m note id h => ⟨fun i c hc hm hid alone => ?_, fun hnone => ?_⟩
  · have hslot : s.slotOfId m id.toNat = some i := hid ▸ State.slotOfId_eq_some hc hm alone
    rw [exec_cueQuery_done h note id (State.cueQuery_of_slot hslot hc)]
    congr 3
    cases hstate : c.state with
    | playing =>
      rw [Cue.queryResult_of_playing hstate]
      cases c.phase with
      | none => rfl
      | some phase => cases phase <;> rfl
    | reporting =>
      rw [Cue.queryResult_of_reporting hstate]
      cases c.outcome with
      | none => rfl
      | some outcome => cases outcome <;> rfl
    | waiting | held | gap | ending =>
      rw [Cue.queryResult_of_other (by simp [hstate]) (by simp [hstate]), hstate]
      rfl
  · exact exec_cueQuery_refused h note id (State.cueQuery_of_no_slot ((s.slotOfId_eq_none_iff m id.toNat).2 hnone))

end Sys2Proof.Machine
end

section
/-! SUPPORT. What the bytes of a flash say as a phrase store, said once: which stores pass the check, and the catalog of one that passes
(R84, R85, R92, R93). -/

namespace Sys2Proof.Machine

/-! ### Numbers in the flash, and in the spans the check reads -/

/-- The byte at an address, as a number. -/
def flashNum (f : Flash) (a : Nat) : Nat := (flashRead f a).toNat

/-- The 3-byte address that stands at an address. -/
def flashAddr (f : Flash) (a : Nat) : Nat := flashNum f a * 65536 + flashNum f (a + 1) * 256 + flashNum f (a + 2)

/-- The sum of `g 0` to `g (n - 1)`. -/
def sumBelow (n : Nat) (g : Nat → Nat) : Nat := ((List.range n).map g).sum

section
variable (f : Flash) (a : Nat) {n k : Nat}

theorem flashSpan_getD (h : k < n) : (flashSpan f a n).getD k 0 = flashRead f (a + k) := by
  simp [flashSpan, List.getD_eq_getElem?_getD, h]

theorem flashSpan_take (h : k ≤ n) : (flashSpan f a n).take k = flashSpan f a k := by
  simp [flashSpan, ← List.map_take, List.take_range, h]

theorem addrAt_flashSpan (h : k + 2 < n) : addrAt (flashSpan f a n) k = flashAddr f (a + k) := by
  simp only [addrAt, flashSpan_getD f a h, flashSpan_getD f a (show k + 1 < n by omega),
    flashSpan_getD f a (show k < n by omega)]
  rfl

theorem numAt_flashSpan (h : k + 1 < n) :
    numAt (flashSpan f a n) k = flashNum f (a + k) * 256 + flashNum f (a + k + 1) := by
  simp only [numAt, flashSpan_getD f a h, flashSpan_getD f a (show k < n by omega)]
  rfl

theorem byteSum_flashSpan (n : Nat) : byteSum (flashSpan f a n) = sumBelow n fun j => flashNum f (a + j) := by
  simp only [byteSum, flashSpan, List.map_map]
  rfl

end

/-! ### Where the parts of a store lie (R84, R85) -/

section
variable (f : Flash)

/-- The size field, in units of 4 KiB. -/
def storeUnits : Nat := flashNum f 4 * 256 + flashNum f 5

/-- The store size in bytes. -/
def storeSize : Nat := storeUnits f * 4096

/-- Where the header of language `k` lies. -/
def languageAddr (k : Nat) : Nat := flashAddr f (8 + 3 * k)

/-- Where the fragment directory of language `k` begins. -/
def directoryAddr (k : Nat) : Nat := flashAddr f (languageAddr f k + 1)

/-- The fragment directory entry at an address. -/
def storeEntry (a : Nat) : FragEntry :=
  { start := flashAddr f a, count := flashNum f (a + 3) * 256 + flashNum f (a + 4), scale := flashNum f (a + 5),
    silence := flashNum f (a + 6) }

/-- Language `k` of the store. -/
def storeLanguage (k : Nat) : Language :=
  { wordOrder := (flashRead f (languageAddr f k)).getLsbD 0, join := (flashRead f (languageAddr f k)).getLsbD 1,
    entries := (List.range 1024).map fun c => storeEntry f (directoryAddr f k + 8 * c) }

/-- The catalog of the store. -/
def storeCatalog : Catalog :=
  { sizeBytes := storeSize f, languages := (List.range (flashNum f 6)).map (storeLanguage f),
    images := (List.range (flashNum f 7)).map fun n => flashAddr f (flashAddr f 20 + 3 * n) }

/-! ### The reading of a language (R85) -/

theorem addrAt_languageHeader (k : Nat) : addrAt (flashSpan f (languageAddr f k) 4) 1 = directoryAddr f k :=
  addrAt_flashSpan f _ (by decide)

theorem readLanguage_flashSpan (k : Nat) :
    readLanguage f (flashSpan f (languageAddr f k) 4) = storeLanguage f k := by
  have hflags := flashSpan_getD f (languageAddr f k) (show 0 < 4 by decide)
  have hentry (a : Nat) : fragEntryOf (flashSpan f a 8) = storeEntry f a := by
    simp only [fragEntryOf, addrAt_flashSpan f a (show 0 + 2 < 8 by decide),
      numAt_flashSpan f a (show 3 + 1 < 8 by decide), flashSpan_getD f a (show 5 < 8 by decide),
      flashSpan_getD f a (show 6 < 8 by decide)]
    rfl
  simp only [readLanguage, readDirectory, addrAt_languageHeader, hflags, hentry, Nat.add_zero, storeLanguage]

theorem directorySum_eq (a : Nat) :
    directorySum f a = sumBelow 1024 fun c => sumBelow 7 fun j => flashNum f (a + 8 * c + j) := by
  simp only [directorySum, byteSum_flashSpan]
  rfl

/-! ### The header's tests (R84, R92) -/

/-- The tests of the header and of the places it names. -/
def HeaderOk : Prop :=
  (flashNum f 0 = 0x53 ∧ flashNum f 1 = 0x4A ∧ flashNum f 2 = 0x50 ∧ flashNum f 3 = 0x53) ∧
    (1 ≤ storeUnits f ∧ storeUnits f ≤ 4096) ∧ (1 ≤ flashNum f 6 ∧ flashNum f 6 ≤ 4) ∧ flashNum f 7 ≤ 64 ∧
    (∀ k < flashNum f 6, languageAddr f k + 4 ≤ storeSize f) ∧
    (flashNum f 7 = 0 ∨ flashAddr f 20 + 3 * flashNum f 7 ≤ storeSize f)

theorem HeaderOk.languages_le {f : Flash} (h : HeaderOk f) : flashNum f 6 ≤ 4 := by
  obtain ⟨-, -, ⟨-, hcount⟩, -⟩ := h
  exact hcount

/-- The header as the check reads it. -/
def storeHeader : Header := headerOf (flashSpan f 0 25)

theorem storeHeader_sizeUnits : (storeHeader f).sizeUnits = storeUnits f := numAt_flashSpan f 0 (by decide)

theorem storeHeader_languages : (storeHeader f).languages = flashNum f 6 :=
  congrArg BitVec.toNat (flashSpan_getD f 0 (by decide))

theorem storeHeader_images : (storeHeader f).images = flashNum f 7 :=
  congrArg BitVec.toNat (flashSpan_getD f 0 (by decide))

theorem storeHeader_imageDir : (storeHeader f).imageDir = flashAddr f 20 := addrAt_flashSpan f 0 (by decide)

theorem storeHeader_sum : (storeHeader f).sum = flashNum f 23 * 256 + flashNum f 24 := numAt_flashSpan f 0 (by decide)

/-- Four addresses fit in the header, so a higher count would name bytes that are not read. -/
theorem storeHeader_languageAddrs (h : flashNum f 6 ≤ 4) :
    (storeHeader f).languageAddrs = (List.range (flashNum f 6)).map (languageAddr f) := by
  rw [← storeHeader_languages] at h ⊢
  refine List.map_congr_left fun k hk => ?_
  have hk4 : k < 4 := (List.mem_range.1 hk).trans_le h
  rw [addrAt_flashSpan f 0 (by omega), Nat.zero_add]
  rfl

theorem storeHeader_mark_iff :
    (storeHeader f).mark = storeMark ↔
      flashNum f 0 = 0x53 ∧ flashNum f 1 = 0x4A ∧ flashNum f 2 = 0x50 ∧ flashNum f 3 = 0x53 := by
  have hmark : (storeHeader f).mark = [flashRead f 0, flashRead f 1, flashRead f 2, flashRead f 3] :=
    flashSpan_take f 0 (by decide)
  simp only [hmark, storeMark, List.cons.injEq, and_true, BitVec.toNat_eq]
  rfl

theorem headerPasses_iff (h : Header) :
    headerPasses h = true ↔
      h.mark = storeMark ∧ (1 ≤ h.sizeUnits ∧ h.sizeUnits ≤ 4096) ∧ (1 ≤ h.languages ∧ h.languages ≤ 4) ∧
        h.images ≤ 64 ∧ (∀ a ∈ h.languageAddrs, a + 4 ≤ h.sizeUnits * 4096) ∧
        (h.images = 0 ∨ h.imageDir + 3 * h.images ≤ h.sizeUnits * 4096) := by
  simp only [headerPasses, liesInside, Bool.and_eq_true, Bool.or_eq_true, decide_eq_true_eq, List.all_eq_true, and_assoc]

theorem headerPasses_storeHeader_iff : headerPasses (storeHeader f) = true ↔ HeaderOk f := by
  rw [headerPasses_iff, storeHeader_mark_iff, storeHeader_sizeUnits, storeHeader_languages, storeHeader_images,
    storeHeader_imageDir]
  refine and_congr_right' (and_congr_right' (and_congr_right fun hcount => and_congr_right' (and_congr_left' ?_)))
  rw [storeHeader_languageAddrs f hcount.2]
  simp only [List.forall_mem_map, List.mem_range]
  rfl

/-! ### The check (R92, R93) -/

/-- Every fragment directory lies inside the store. -/
def DirectoriesOk : Prop := ∀ k < flashNum f 6, directoryAddr f k + 8192 ≤ storeSize f

/-- The sum of R93: header, language headers, image directory and fragment directories. -/
def checkSum : Nat :=
  sumBelow 23 (flashNum f) + sumBelow (flashNum f 6) (fun k => sumBelow 4 fun j => flashNum f (languageAddr f k + j)) +
    sumBelow (3 * flashNum f 7) (fun j => flashNum f (flashAddr f 20 + j)) +
    sumBelow (flashNum f 6) (fun k => sumBelow 1024 fun c => sumBelow 7 fun j => flashNum f (directoryAddr f k + 8 * c + j))

/-- The sum agrees with the catalog check field. -/
def SumOk : Prop := checkSum f % 65536 = flashNum f 23 * 256 + flashNum f 24

/-- The language headers the check reads. -/
def languageHeaders : List (List Byte) := (storeHeader f).languageAddrs.map fun a => flashSpan f a 4

/-- The image directory the check reads, if there is one. -/
def imageDirBytes : List Byte :=
  if (storeHeader f).images = 0 then [] else flashSpan f (storeHeader f).imageDir (3 * (storeHeader f).images)

/-- The test of the fragment directories, on the language headers read. -/
def directoriesPass : Bool :=
  (languageHeaders f).all fun lh => liesInside ((storeHeader f).sizeUnits * 4096) (addrAt lh 1) 8192

/-- The sum, over the bytes read. -/
def readSum : Nat :=
  byteSum ((flashSpan f 0 25).take 23) + ((languageHeaders f).map byteSum).sum + byteSum (imageDirBytes f) +
    ((languageHeaders f).map fun lh => directorySum f (addrAt lh 1)).sum

/-- The catalog, out of the bytes read. -/
def readCatalog : Catalog :=
  { sizeBytes := (storeHeader f).sizeUnits * 4096, languages := (languageHeaders f).map (readLanguage f),
    images := (List.range (storeHeader f).images).map fun n => addrAt (imageDirBytes f) (3 * n) }

/-- The steps of the check, each over what it has read. -/
theorem runCheck_eq :
    runCheck f =
      if headerPasses (storeHeader f) = false then none
      else if directoriesPass f = false then none
      else if readSum f % 65536 = (storeHeader f).sum then some (readCatalog f)
      else none := rfl

theorem languageHeaders_eq (h : flashNum f 6 ≤ 4) :
    languageHeaders f = (List.range (flashNum f 6)).map fun k => flashSpan f (languageAddr f k) 4 := by
  rw [languageHeaders, storeHeader_languageAddrs f h, List.map_map]
  rfl

/-- A directory of no images is a span of no bytes. -/
theorem imageDirBytes_eq : imageDirBytes f = flashSpan f (flashAddr f 20) (3 * flashNum f 7) := by
  rw [imageDirBytes, storeHeader_images, storeHeader_imageDir]
  split
  next hnone => rw [hnone]; rfl
  next => rfl

theorem directoriesPass_iff (h : flashNum f 6 ≤ 4) : directoriesPass f = true ↔ DirectoriesOk f := by
  simp only [directoriesPass, languageHeaders_eq f h, storeHeader_sizeUnits, List.all_eq_true, List.forall_mem_map,
    List.mem_range, addrAt_languageHeader, liesInside, decide_eq_true_eq]
  rfl

theorem readSum_eq (h : flashNum f 6 ≤ 4) : readSum f = checkSum f := by
  simp only [readSum, languageHeaders_eq f h, imageDirBytes_eq, List.map_map, Function.comp_def, addrAt_languageHeader,
    directorySum_eq, flashSpan_take f 0 (show 23 ≤ 25 by decide), byteSum_flashSpan, Nat.zero_add]
  rfl

theorem readCatalog_eq (h : flashNum f 6 ≤ 4) : readCatalog f = storeCatalog f := by
  have hlanguages : (languageHeaders f).map (readLanguage f) = (List.range (flashNum f 6)).map (storeLanguage f) := by
    rw [languageHeaders_eq f h, List.map_map]
    exact List.map_congr_left fun k _ => readLanguage_flashSpan f k
  have himages : (List.range (flashNum f 7)).map (fun n => addrAt (imageDirBytes f) (3 * n)) =
      (List.range (flashNum f 7)).map fun n => flashAddr f (flashAddr f 20 + 3 * n) := by
    rw [imageDirBytes_eq]
    refine List.map_congr_left fun n hn => addrAt_flashSpan f _ ?_
    have := List.mem_range.1 hn
    omega
  rw [readCatalog, storeHeader_sizeUnits, storeHeader_images, hlanguages, himages]
  rfl

/-- The check gives the store's catalog when every test holds, and none else. -/
theorem runCheck_eq_some_iff (c : Catalog) :
    runCheck f = some c ↔ (HeaderOk f ∧ DirectoriesOk f ∧ SumOk f) ∧ storeCatalog f = c := by
  rw [runCheck_eq]
  by_cases hheader : HeaderOk f
  · have hpass := (headerPasses_storeHeader_iff f).2 hheader
    have hcount := hheader.languages_le
    by_cases hdirs : DirectoriesOk f
    · have hdirsPass := (directoriesPass_iff f hcount).2 hdirs
      simp [hpass, hdirsPass, hheader, hdirs, readSum_eq f hcount, readCatalog_eq f hcount, storeHeader_sum, SumOk]
    · have hdirsFail := Bool.eq_false_iff.2 (mt (directoriesPass_iff f hcount).1 hdirs)
      simp [hdirsFail, hdirs]
  · have hfail := Bool.eq_false_iff.2 (mt (headerPasses_storeHeader_iff f).1 hheader)
    simp [hfail, hheader]

/-- The languages of the catalog stand in the order of their headers. -/
theorem storeCatalog_language {k : Nat} {l : Language} (h : (storeCatalog f).languages[k]? = some l) :
    l = storeLanguage f k := by
  obtain ⟨hk, rfl⟩ := List.getElem?_eq_some_iff.1 h
  simp only [storeCatalog, List.getElem_map, List.getElem_range]

end

/-- Settles O25: the check reads the spans that the tests of R84, R85 and R93 are about, and the catalog is read out of them. -/
theorem catalogCheckTests : Obligations.CatalogCheckTests := by
  intro f
  refine ⟨?_, fun c hc => ?_⟩
  · have hpass : (runCheck f).isSome = true ↔ HeaderOk f ∧ DirectoriesOk f ∧ SumOk f := by
      simp only [Option.isSome_iff_exists, runCheck_eq_some_iff, exists_and_left, exists_eq', and_true]
    rw [hpass]
    simp only [HeaderOk, and_assoc]
    rfl
  · obtain ⟨-, rfl⟩ := (runCheck_eq_some_iff f c).1 hc
    refine ⟨rfl, (List.length_map _).trans List.length_range, rfl, fun k l hl => ?_⟩
    rw [storeCatalog_language f hl]
    refine ⟨rfl, rfl, ?_⟩
    dsimp only [storeLanguage]
    exact List.map_congr_left fun _ _ => rfl

end Sys2Proof.Machine
end

section
/-! SUPPORT. What a TONE_DEFINE payload says, what the Tone Unit answers to it, and the entry it writes (R132, R133). -/

namespace Sys2Proof.Machine

/-! ### The payload (08 §8.3) -/

/-- A step record: period, duty and duration bytes. -/
abbrev StepRecord : Type := Byte × Byte × Byte × Byte × Byte

/-- The five bytes of a step record. -/
def stepRecordBytes (x : StepRecord) : List Byte := [x.1, x.2.1, x.2.2.1, x.2.2.2.1, x.2.2.2.2]

/-- The payload of a definition. -/
def toneDefinePayload (entry loop : Byte) (recs : List StepRecord) (levels : List Byte) : List Byte :=
  entry :: loop :: recs.flatMap stepRecordBytes ++ levels

/-- The step a record gives as step `k`, with the treatments of R133 by the value's range. -/
def recordedStep (levels : List Byte) (x : StepRecord) (k : Nat) : ToneStep :=
  let sent := x.1.toNat % 128 * 256 + x.2.1.toNat
  let period := if sent = 0 then 0 else if sent < 125 then 125 else if 20000 < sent then 20000 else sent
  let two := (levels.getD (k / 2) 0).toNat
  { period, duty := min (x.2.2.1.toNat % 128 * 256 + x.2.2.2.1.toNat) period,
    duration := if x.2.2.2.2 = 0 then 1 else x.2.2.2.2.toNat, level := if k % 2 = 0 then two % 16 else two / 16,
    halfRate := x.1.getLsbD 7, inverse := x.2.2.1.getLsbD 7 }

/-- The content an accepted definition gives its entry. -/
def recordedPattern (loop : Byte) (recs : List StepRecord) (levels : List Byte) : Pattern :=
  { loops := min loop.toNat 15, steps := recs.zipIdx.map fun (x, k) => recordedStep levels x k }

theorem length_flatMap_stepRecordBytes (recs : List StepRecord) :
    (recs.flatMap stepRecordBytes).length = 5 * recs.length := by
  simp [List.length_flatMap, stepRecordBytes, Nat.mul_comm]

/-- The lengths of 1 to 16 steps are all different. -/
theorem toneStepCount_of_steps : ∀ n ≤ 16, 1 ≤ n → toneStepCount (2 + 5 * n + (n + 1) / 2) = some n := by decide

/-- Bit 15, a flag, falls away. -/
theorem be16_mod_flag (hi lo : Byte) : be16 hi lo % 32768 = hi.toNat % 128 * 256 + lo.toNat := by
  have hlo := lo.isLt
  unfold be16
  omega

theorem treatPeriod_eq (p : Nat) :
    treatPeriod p = if p = 0 then 0 else if p < 125 then 125 else if 20000 < p then 20000 else p := by
  unfold treatPeriod clamp
  split_ifs <;> omega

theorem max_one_duration (b : Byte) : max 1 b.toNat = if b = 0 then 1 else b.toNat := by
  split_ifs with hzero
  · rw [hzero]
    rfl
  · have hpos : b.toNat ≠ 0 := fun h => hzero (BitVec.eq_of_toNat_eq h)
    omega

theorem parseToneStep_eq (levels : List Byte) (x : StepRecord) (k : Nat) :
    parseToneStep x.1 x.2.1 x.2.2.1 x.2.2.2.1 x.2.2.2.2 (levelNibble levels k) = recordedStep levels x k := by
  simp only [parseToneStep, levelNibble, recordedStep, be16_mod_flag, treatPeriod_eq, max_one_duration]

/-- The records are read in order, and what follows them is not. -/
theorem parseToneSteps_eq (levels : List Byte) (recs : List StepRecord) (k : Nat) (rest : List Byte) :
    parseToneSteps levels recs.length k (recs.flatMap stepRecordBytes ++ rest) =
      (recs.zipIdx k).map fun (x, k) => recordedStep levels x k := by
  induction recs generalizing k with
  | nil => rfl
  | cons x recs ih =>
    have hhead := parseToneStep_eq levels x k
    exact congrArg₂ List.cons hhead (ih (k + 1))

section
variable (entry loop : Byte) {recs : List StepRecord} {levels : List Byte} (hone : 1 ≤ recs.length)
  (hmost : recs.length ≤ 16) (hlevels : levels.length = (recs.length + 1) / 2)
include hone hmost hlevels

theorem toneStepCount_payload : toneStepCount (toneDefinePayload entry loop recs levels).length = some recs.length := by
  have hlength : (toneDefinePayload entry loop recs levels).length = 2 + 5 * recs.length + (recs.length + 1) / 2 := by
    simp only [toneDefinePayload, List.length_append, List.length_cons, length_flatMap_stepRecordBytes, hlevels]
    omega
  rw [hlength, toneStepCount_of_steps _ hmost hone]

theorem lenAllowed_toneDefinePayload : lenAllowed .toneDefine (toneDefinePayload entry loop recs levels) = true := by
  simp only [lenAllowed, toneStepCount_payload entry loop hone hmost hlevels, Option.isSome_some]

theorem parseToneDefine_payload :
    parseToneDefine (toneDefinePayload entry loop recs levels) =
      some (entry.toNat, recordedPattern loop recs levels) := by
  have hcount : toneStepCount ((recs.flatMap stepRecordBytes ++ levels).length + 2) = some recs.length :=
    toneStepCount_payload entry loop hone hmost hlevels
  have hdrop : (recs.flatMap stepRecordBytes ++ levels).drop (5 * recs.length) = levels :=
    List.drop_left' (length_flatMap_stepRecordBytes recs)
  simp only [toneDefinePayload, List.cons_append, parseToneDefine, hcount, Option.map_some, hdrop, parseToneSteps_eq,
    recordedPattern]

end

/-! ### The verdict of the Tone Unit (R132) -/

theorem State.patternBusy_iff (s : State) (p : Fin 32) :
    s.patternBusy p = true ↔
      ∃ v : Fin 4, (s.tone.voices[v]).playing = true ∧ (s.tone.voices[v]).pattern.map (fun q => q.val) = some p.val := by
  have hall (v : Fin 4) : v ∈ allVoices := by fin_cases v <;> decide
  have hnumber (o : Option (Fin 32)) : o.map (fun q => q.val) = some p.val ↔ o = some p := by
    simp [Option.map_eq_some_iff, Fin.val_inj]
  simp [State.patternBusy, hall, hnumber]

/-- The entries a machine may define (R129). -/
theorem patternOwner_eq_some_iff (p : Fin 32) (m : Side) :
    patternOwner p = some m ↔ (m = .w ∧ 8 ≤ p.val ∧ p.val < 20) ∨ (m = .d ∧ 20 ≤ p.val) := by
  unfold patternOwner
  cases m
  case w => split_ifs <;> simp <;> omega
  case d => split_ifs <;> simp <;> omega

/-- The Tone Unit with an entry's whole content replaced. -/
def Tone.withPattern (t : Tone) (entry : Nat) (x : Pattern) : Tone :=
  { t with patterns := Vector.ofFn fun q : Fin 32 => if q.val = entry then some x else t.patterns[q] }

section
variable {s : State} {m : Side} {entry : Nat} (x : Pattern)

theorem State.toneDefine_locked (h : entry < 8) : s.toneDefine m entry x = (.refused .patternLocked, s) := by
  simp [State.toneDefine, h, show entry < 32 by omega]

theorem State.toneDefine_beyond (h : 31 < entry) : s.toneDefine m entry x = (.refused .badPattern, s) := by
  simp [State.toneDefine, show ¬entry < 32 by omega]

theorem State.toneDefine_notOwner (h8 : 8 ≤ entry) (h32 : entry < 32) (h : patternOwner ⟨entry, h32⟩ ≠ some m) :
    s.toneDefine m entry x = (.refused .badPattern, s) := by
  simp [State.toneDefine, h32, Nat.not_lt.2 h8, h]

theorem State.toneDefine_busy (h8 : 8 ≤ entry) (h32 : entry < 32) (h : patternOwner ⟨entry, h32⟩ = some m)
    (hbusy : s.patternBusy ⟨entry, h32⟩ = true) : s.toneDefine m entry x = (.refused .patternBusy, s) := by
  simp [State.toneDefine, h32, Nat.not_lt.2 h8, h, hbusy]

theorem State.toneDefine_done (h8 : 8 ≤ entry) (h32 : entry < 32) (h : patternOwner ⟨entry, h32⟩ = some m)
    (hfree : s.patternBusy ⟨entry, h32⟩ = false) :
    s.toneDefine m entry x = (.done [], s.onTone fun t => t.withPattern entry x) := by
  have hset : s.tone.patterns.set entry (some x) =
      Vector.ofFn fun q : Fin 32 => if q.val = entry then some x else s.tone.patterns[q] := by
    ext q hq : 1
    simp [Vector.getElem_set, eq_comm]
  simp [State.toneDefine, Tone.withPattern, State.onTone, h32, Nat.not_lt.2 h8, h, hfree, hset]

end

/-! ### The row -/

/-- Nothing that waits to be settled reads the Tone Unit. -/
theorem State.Settled.onTone {s : State} (h : s.Settled) (f : Tone → Tone) : (s.onTone f).Settled := h

section
variable {s : State} {m : Side} (h : s.ServesRequest m) (note : Bool) {p : List Byte} {entry : Nat} {x : Pattern}
  (hlen : lenAllowed .toneDefine p = true) (hparse : parseToneDefine p = some (entry, x))
include h hlen hparse

theorem exec_toneDefine_refused {r : Reason} (hv : s.toneDefine m entry x = (.refused r, s)) :
    exec (.toneDefine m note p) s = .next (s.refuses m .toneDefine r note) := by
  have hh : s.handle m .toneDefine p = (.refused r, s) := by rw [← hv, State.handle, hparse, withFields]
  have hsubmit :=
    State.submit_refused h.1 .toneDefine note p r (State.linkRefusal_of_serves h hlen) hh h.atRest.2
  exact (running_of_up h.atRest.1 fun s => (s.submit m .toneDefine note p).settle).trans (congrArg _ hsubmit)

theorem exec_toneDefine_done {f : Tone → Tone} (hv : s.toneDefine m entry x = (.done [], s.onTone f)) :
    exec (.toneDefine m note p) s = .next ((s.onTone f).done m .toneDefine note) := by
  have hh : s.handle m .toneDefine p = (.done [], s.onTone f) := by rw [← hv, State.handle, hparse, withFields]
  have hsubmit :=
    State.submit_done h.1 .toneDefine note p [] (State.linkRefusal_of_serves h hlen) (by decide) hh
      (h.atRest.2.onTone f)
  exact (running_of_up h.atRest.1 fun s => (s.submit m .toneDefine note p).settle).trans (congrArg _ hsubmit)

end

/-- Settles O36: the payload is read as its records, and the entry's range, owner and voices decide among the verdicts. -/
theorem toneDefineWritesPattern : Obligations.ToneDefineWritesPattern := by
  intro s m note entry loop recs levels h hone hmost hlevels payload treat stepOf busy
  have hlen := lenAllowed_toneDefinePayload entry loop hone hmost hlevels
  have hparse := parseToneDefine_payload entry loop hone hmost hlevels
  refine ⟨fun hlocked => ?_, fun hbad => ?_, fun hown => ?_⟩
  · exact exec_toneDefine_refused h note hlen hparse (State.toneDefine_locked _ hlocked)
  · refine exec_toneDefine_refused h note hlen hparse ?_
    by_cases h32 : entry.toNat < 32
    · have howner : patternOwner ⟨entry.toNat, h32⟩ ≠ some m := by
        simp only [Ne, patternOwner_eq_some_iff]
        rintro (⟨rfl, h8, h20⟩ | ⟨rfl, h20⟩)
        · simp only [reduceCtorEq, false_and, true_and, or_false] at hbad
          omega
        · simp only [reduceCtorEq, false_and, true_and, false_or] at hbad
          omega
      exact State.toneDefine_notOwner _ (by omega) h32 howner
    · exact State.toneDefine_beyond _ (by omega)
  · have h32 : entry.toNat < 32 := by omega
    have h8 : 8 ≤ entry.toNat := by omega
    have howner : patternOwner ⟨entry.toNat, h32⟩ = some m := by
      rw [patternOwner_eq_some_iff]
      exact hown.imp_right fun ⟨hd, h20, _⟩ => ⟨hd, h20⟩
    have hbusy : s.patternBusy ⟨entry.toNat, h32⟩ = true ↔ busy := s.patternBusy_iff _
    refine ⟨fun hb => ?_, fun hb => ?_⟩
    · exact exec_toneDefine_refused h note hlen hparse (State.toneDefine_busy _ h8 h32 howner (hbusy.2 hb))
    · have hfree := Bool.eq_false_iff.2 (mt hbusy.1 hb)
      exact exec_toneDefine_done h note hlen hparse (State.toneDefine_done _ h8 h32 howner hfree)

end Sys2Proof.Machine
end

section
/-! SUPPORT. The sources' values, the gain chain and what of the Mixer an output sample event changes (R125, R138, R139, R142 to
R148). -/

namespace Sys2Proof.Machine

/-! ### What a command sets off leaves the Mixer alone -/

section
variable (s : State)

@[simp] theorem State.grantRace_mixer : s.grantRace.mixer = s.mixer := by
  unfold State.grantRace
  split <;> rfl

@[simp] theorem State.tryBeginCheck_mixer : s.tryBeginCheck.mixer = s.mixer := by
  unfold State.tryBeginCheck
  split <;> rfl

@[simp] theorem State.portDecide_mixer : s.portDecide.mixer = s.mixer := by
  unfold State.portDecide
  repeat' split
  all_goals rfl

@[simp] theorem State.txChoose_mixer (m : Side) : (s.txChoose m).mixer = s.mixer := by
  obtain ⟨l, hl, -⟩ := s.txChoose_eq m
  rw [hl, State.onLink_mixer]

@[simp] theorem State.settle_mixer : s.settle.mixer = s.mixer := by
  simp only [State.settle, State.txChoose_mixer, State.portDecide_mixer, State.tryBeginCheck_mixer, State.grantRace_mixer,
    s.settleArb_frame.mixer]

end

/-! ### The Speech Stream's output (R125 to R127) -/

section
variable {st : Stream} (entries : List UttEntry)

/-- To advance changes what follows, not the value of the event. -/
theorem Stream.advance_out (out : Int) : (st.advance entries out).out = out := by
  unfold Stream.advance
  split <;> rfl

theorem Stream.blend_out : (st.blend entries).out = (st.lastOutput + st.blendTarget) / 2 := by
  unfold Stream.blend
  dsimp only
  split
  · rfl
  · split
    · split
      · rfl
      · exact Stream.advance_out entries _
    · exact Stream.advance_out entries _

theorem Stream.consume_out_of_cons {b : Byte} {rest : List Byte} (h : st.ring = b :: rest) :
    st.consume.out = converted b st.scale := by
  rw [Stream.consume, h]

theorem Stream.consume_out_of_nil (h : st.ring = []) : st.consume.out = 0 := by
  rw [Stream.consume, h]

theorem Stream.event_of_consume (hstate : st.state = .playing) (hpart : st.part = .samples) (hhalf : st.half = .consume) :
    st.event entries = st.consume := by
  rw [Stream.event, hstate, hpart, hhalf]

theorem Stream.event_of_blend (hstate : st.state = .playing) (hpart : st.part = .samples) (hhalf : st.half = .blend) :
    st.event entries = st.blend entries := by
  rw [Stream.event, hstate, hpart, hhalf]

/-- Only the samples of a fragment are heard: the events of a silence count it down, and the last of them advances. -/
theorem Stream.event_out_of_no_samples (h : st.state = .playing → st.part ≠ .samples) : (st.event entries).out = 0 := by
  unfold Stream.event
  split
  next => rfl
  next => rfl
  next hstate =>
    split
    next hpart => exact absurd hpart (h hstate)
    all_goals
      split
      · exact Stream.advance_out entries 0
      · rfl

/-- A CONSUME event without a byte, and every event but a CONSUME or BLEND of samples, gives 0. -/
theorem Stream.event_out_of_unheard
    (hconsume : ∀ b rest, st.state = .playing → st.part = .samples → st.half = .consume → st.ring ≠ b :: rest)
    (hblend : st.state = .playing → st.part = .samples → st.half ≠ .blend) : (st.event entries).out = 0 := by
  by_cases hsilence : st.state = .playing → st.part ≠ .samples
  · exact Stream.event_out_of_no_samples entries hsilence
  · obtain ⟨hstate, hpart⟩ : st.state = .playing ∧ st.part = .samples := by simpa using hsilence
    cases hhalf : st.half with
    | blend => exact absurd hhalf (hblend hstate hpart)
    | consume =>
      cases hring : st.ring with
      | nil => rw [Stream.event_of_consume entries hstate hpart hhalf, Stream.consume_out_of_nil hring]
      | cons b rest => exact absurd hring (hconsume b rest hstate hpart hhalf)

end

/-! ### A voice's output (R138, R139) -/

theorem Voice.output_of_no_step {v : Voice} (h : v.step? = none) : v.output = 0 := by
  rw [Voice.output, h]

/-- A step's value by its wave: a rest is silent, and in the high part of a cycle an inverted wave is low. -/
theorem Voice.output_of_step {v : Voice} {x : ToneStep} (h : v.step? = some x) :
    v.output = if x.period = 0 then 0
      else if decide (v.phase < (if x.halfRate then 2 * x.duty else x.duty)) = x.inverse then -((x.level : Int) * 2048)
      else (x.level : Int) * 2048 := by
  rw [Voice.output, h]
  simp only [ToneStep.wave, ToneStep.high]
  split_ifs <;> rfl

/-! ### The gain chain (R142 to R147) -/

/-- The range above 400 ends below 1200, so the two ends of the boost may be told apart first. -/
theorem boostFactor_eq (speed : Nat) :
    boostFactor speed =
      if speed ≤ 400 then 256 else if 1200 ≤ speed then 512 else 256 + (speed - 400) * 256 / 800 := by
  unfold boostFactor
  split_ifs <;> omega

/-! ### One output sample event (R142, R148) -/

section
variable (s : State)

theorem State.markSilents_frame : s.SameOutside s.markSilents :=
  State.foldl_frame _ (fun t r => t.markTableCue_frame r _) _ s

/-- The mix is all the event changes of the Mixer: the SILENT flags, an underrun and the utterance's end are the Scheduler's. -/
theorem State.sampleEvent_mixer :
    s.sampleEvent.mixer = { s.mixer with mixed := s.mix (s.stream.event s.utt.entries).out } := by
  unfold State.sampleEvent
  dsimp only
  split
  · simp [s.markSilents_frame.mixer]
  · split_ifs <;> simp [(State.utteranceEnded_frame _ _).mixer, (State.markTableCue_frame _ _ _).mixer, s.markSilents_frame.mixer]

end

theorem exec_outputSampleEvent {s : State} (hup : s.resetHeld = false) :
    exec .outputSampleEvent s = .next s.sampleEvent.settle :=
  running_of_up hup fun s => s.sampleEvent.settle

/-- Settles O39: only the mix changes of the Mixer, and each of its terms is the stated value times the stated gain. -/
theorem sampleMixesSources : Obligations.SampleMixesSources := by
  intro s hrest
  refine ⟨_, exec_outputSampleEvent hrest.1, ?_⟩
  intro st value speech tone level speed boost gain part
  have hspeech : (s.stream.event s.utt.entries).out = speech := by
    dsimp only [speech]
    split
    next hstate hpart hhalf hring =>
      rw [Stream.event_of_consume _ hstate hpart hhalf, Stream.consume_out_of_cons hring]
      rfl
    next hstate hpart hhalf =>
      rw [Stream.event_of_blend _ hstate hpart hhalf, Stream.blend_out, Stream.blendTarget]
      rfl
    next hblend hconsume => exact Stream.event_out_of_unheard _ hconsume hblend
  have htone (v : Fin 4) : (s.tone.voices[v]).output = tone v := by
    dsimp only [tone]
    split
    next hstep => exact Voice.output_of_no_step hstep
    next x hstep => exact Voice.output_of_step hstep
  have hlevel (c : Cue) : s.levelUsed c = level c := by
    dsimp only [level]
    rw [State.levelUsed]
    cases c.origin with
    | machine m => rfl
    | panel =>
      simp only [State.panelLevel]
      cases s.focus <;> rfl
  have hgain (x : Resource) (duck : Nat) : s.sourceGain (s.governor x) duck = gain x.holder duck := by
    dsimp only [gain]
    rw [show x.holder.bind s.cue? = s.governor x from rfl]
    cases s.governor x with
    | none => rfl
    | some c =>
      simp only [State.sourceGain, effectiveGain, hlevel, boostFactor_eq]
      rfl
  rw [State.settle_mixer, State.sampleEvent_mixer, hspeech]
  simp only [State.mix, State.speechContribution, State.voiceContribution, htone, hgain]
  rfl

end Sys2Proof.Machine
end

section
/-! SUPPORT. What an operation of the Cue Scheduler does, cut into the turns that every law of the scheduler is checked against once:
`State.Turn`, and `State.Turns` for a run of them. Every move of a cue, every start and every arbitration is such a run. -/

namespace Sys2Proof.Machine

/-! ### Turns -/

/-- What no change of a cue's record takes back: its serial and origin, its purge (R57), its place in REPORTING (R49). -/
structure Cue.Turn (c d : Cue) : Prop where
  uid : d.uid = c.uid
  origin : d.origin = c.origin
  purged : c.purged = true → d.purged = true
  reporting : c.state = .reporting → d.state = .reporting

/-- Changes of the scheduler's records beside the cues: no holder changes, voice 0 stays unreserved, and no more than four markers
of a machine become more (R42). -/
structure Sched.Quiet (a b : Sched) : Prop where
  table : b.table = a.table
  narration : b.narration = a.narration
  feedback : b.feedback = a.feedback
  path : b.path.holder = a.path.holder
  voices : ∀ v : Fin 4, (b.voices[v]).holder = (a.voices[v]).holder
  voice0 : (a.voices[(0 : Fin 4)]).reservation = none → (b.voices[(0 : Fin 4)]).reservation = none
  nextUid : b.nextUid = a.nextUid
  markers : ∀ m, (a.markers.get m).length ≤ 4 → (b.markers.get m).length ≤ 4

/-- `x` is `s` once the cue `c` that `r` names holds nothing: it was not on the stage, or has given up its resources (R74, R76). -/
def State.Leaves (s : State) (r : CueRef) (c : Cue) (x : State) : Prop :=
  s.cue? r = some c ∧ ((c.onStage = false ∧ x = s) ∨ x = s.freeResources r)

/-- A start as far as the resources, the reservations and the cue's place (R66 steps 1 to 3). -/
def State.placed (s : State) (r : CueRef) (v : Option (Fin 4)) (c : Cue) : State :=
  let c' := c.started (s.needsPath c) s.sched.nextStart s.now
  let s := if s.needsPath c then s.onPath fun x => { x with holder := some r } else s
  let s := match v with
    | some v => s.onVoiceRes v fun x => { x with holder := some r }
    | none => s
  (s.dropReservations r).onSched fun sc =>
    { (sc.serveMarker c).placeStarted r c' with nextStart := sc.nextStart + 1 }

/-- What the arbiter has seen to when candidate `r` starts on voice `v` (R64, R65, R70): the resources it takes are free, and each is
one it may hold. -/
structure State.MayStart (s : State) (r : CueRef) (v : Option (Fin 4)) (c : Cue) : Prop where
  candidate : s.candidate? r = some c
  waiting : ∀ i, r = .slot i → c.state = .waiting
  path : r ≠ .feedback → s.needsPath c = true → s.sched.path.holder = none
  voice : ∀ w, v = some w → (s.sched.voices[w]).holder = none ∧ (w = 0 ↔ r = .feedback)
  needed : r = .narration → c.tone = none → v = none

/-- One turn of the Cue Scheduler. -/
inductive State.Turn : State → State → Prop
  /-- Sound, store and display follow the cues. -/
  | around {s t : State} (sched : t.sched = s.sched) (links : t.links = s.links) (frame : s.SameOutside t) : Turn s t
  /-- Records beside the cues. -/
  | quiet {s : State} (f : Sched → Sched) (h : s.sched.Quiet (f s.sched)) : Turn s (s.onSched f)
  /-- A cue's record changes and stays on the stage if it stood there. -/
  | cue {s : State} {r : CueRef} {c d : Cue} (hc : s.cue? r = some c) (h : c.Turn d)
      (stage : c.onStage = true → d.onStage = true) : Turn s (s.setCue r (some d))
  /-- A cue that holds nothing goes on to another state. -/
  | leave {s x : State} {r : CueRef} {c d : Cue} (hx : s.Leaves r c x) (h : c.Turn d) : Turn s (x.setCue r (some d))
  /-- A cue that holds nothing is gone; one in REPORTING only when its link lists no report (R56). -/
  | drop {s x : State} {r : CueRef} {c : Cue} (hx : s.Leaves r c x)
      (h : ∀ i, r = .slot i → c.state = .reporting → ∃ m, c.origin = .machine m ∧ (s.link m).done = []) :
      Turn s (x.setCue r none)
  /-- A machine's cue enters REPORTING with its report (R49). -/
  | report {s x : State} {i : Fin 24} {c : Cue} {m : Side} (o : CueOutcome) (hx : s.Leaves (.slot i) c x)
      (origin : c.origin = .machine m) (state : c.state ≠ .reporting) (purged : c.purged = false) :
      Turn s ((x.setCue (.slot i) (some (c.toReporting o))).onLink m fun l => l.joinDone c.uid c.id o c.flags c.preempts)
  /-- HELD cues become WAITING (R43). -/
  | freed {s : State} (v : Vector (Option Cue) 24)
      (h : ∀ i : Fin 24, v[i] = s.sched.table[i] ∨
        ∃ c, s.sched.table[i] = some c ∧ c.state = .held ∧ v[i] = some { c with state := .waiting }) :
      Turn s (s.onSched fun sc => { sc with table := v })
  /-- A candidate starts (R66). -/
  | start {s : State} {r : CueRef} {v : Option (Fin 4)} {c : Cue} (h : s.MayStart r v c) : Turn s (s.placed r v c)
  /-- The narration entry gets a pending cue (R54). -/
  | narrate {s : State} (items : List PhraseItem) :
      Turn s (s.onSched fun sc =>
        { sc with narration := { sc.narration with pending := some (panelCue sc.nextUid (some items) none) },
                  nextUid := sc.nextUid + 1 })
  /-- The feedback entry gets a pending cue (R55). -/
  | feed {s : State} (p : Fin 32) :
      Turn s (s.onSched fun sc =>
        { sc with feedback := { sc.feedback with
                    pending := some (panelCue sc.nextUid none (some { pattern := p, timing := .together })) },
                  nextUid := sc.nextUid + 1 })

/-- A run of turns. -/
abbrev State.Turns : State → State → Prop := Relation.ReflTransGen State.Turn

namespace State.Turns

variable {s t u : State}

theorem refl (s : State) : s.Turns s := Relation.ReflTransGen.refl
theorem one (h : s.Turn t) : s.Turns t := .single h
theorem trans (h : s.Turns t) (k : t.Turns u) : s.Turns u := Relation.ReflTransGen.trans h k
theorem first (h : s.Turn t) (k : t.Turns u) : s.Turns u := Relation.ReflTransGen.head h k

/-- What every turn keeps, a run of turns keeps. -/
theorem keeps {P : State → Prop} (hP : ∀ {s t : State}, s.Turn t → P s → P t) (h : s.Turns t) (hs : P s) : P t := by
  induction h with
  | refl => exact hs
  | tail _ k ih => exact hP k ih

/-- A list of operations that are each a run of turns. -/
theorem foldl {α : Type} {f : State → α → State} (hf : ∀ (t : State) a, t.Turns (f t a)) (l : List α) (s : State) :
    s.Turns (l.foldl f s) := by
  induction l generalizing s with
  | nil => exact .refl s
  | cons a l ih => exact (hf s a).trans (ih _)

end State.Turns

variable (s : State)

theorem Sched.Quiet.refl (a : Sched) : a.Quiet a := ⟨rfl, rfl, rfl, rfl, fun _ => rfl, id, rfl, fun _ => id⟩

/-! ### Records of cues -/

@[simp] theorem Cue.onStage_iff (c : Cue) : c.onStage = true ↔ c.state = .playing ∨ c.state = .ending := by
  simp [Cue.onStage]

theorem Cue.onStage_of_playing {c : Cue} (h : c.state = .playing) : c.onStage = true := by simp [h]

/-- Only a cue in ENDING is in its purge fade. -/
theorem Cue.purged_iff (c : Cue) : c.purged = true ↔ c.state = .ending ∧ c.endCause = some .purged := by
  simp [Cue.purged]

theorem Cue.not_purged {c : Cue} (h : c.state ≠ .ending) : c.purged = false := by simp [Cue.purged, h]

theorem Cue.Turn.refl (c : Cue) : c.Turn c := ⟨rfl, rfl, fun h => h, fun h => h⟩

/-- A record that is neither purged nor REPORTING turns into any other of the same cue. -/
theorem Cue.Turn.of_free {c d : Cue} (uid : d.uid = c.uid) (origin : d.origin = c.origin) (hp : c.purged = false)
    (hr : c.state ≠ .reporting) : c.Turn d :=
  ⟨uid, origin, fun h => by simp [hp] at h, fun h => absurd h hr⟩

/-- A record that keeps its state and end cause. -/
theorem Cue.Turn.of_same {c d : Cue} (uid : d.uid = c.uid) (origin : d.origin = c.origin) (state : d.state = c.state)
    (cause : d.endCause = c.endCause) : c.Turn d :=
  ⟨uid, origin, by simp [Cue.purged_iff, state, cause], by simp [state]⟩

/-! ### Freed resources leave the cues -/

theorem State.freePath_cueRecords (r : CueRef) :
    (s.freePath r).sched = { s.sched with path := (s.freePath r).sched.path, arbDue := (s.freePath r).sched.arbDue } := by
  unfold State.freePath
  split <;> rfl

theorem State.freeVoice_cueRecords (r : CueRef) :
    (s.freeVoice r).sched = { s.sched with voices := (s.freeVoice r).sched.voices, arbDue := (s.freeVoice r).sched.arbDue } := by
  unfold State.freeVoice
  split <;> rfl

/-- Giving up resources changes holders alone. -/
theorem State.freeResources_sched (r : CueRef) : (s.freeResources r).sched =
    { s.sched with path := (s.freeResources r).sched.path, voices := (s.freeResources r).sched.voices,
                   arbDue := (s.freeResources r).sched.arbDue } := by
  have h1 := s.freePath_cueRecords r
  have h2 := (s.freePath r).freeVoice_cueRecords r
  rw [State.freeResources, h2, h1]

theorem State.freeResources_cue? (r q : CueRef) : (s.freeResources r).cue? q = s.cue? q := by
  unfold State.cue?
  rw [s.freeResources_sched r]
  cases q <;> rfl

theorem State.freePath_links (r : CueRef) : (s.freePath r).links = s.links := by
  unfold State.freePath
  split <;> rfl

theorem State.freeVoice_links (r : CueRef) : (s.freeVoice r).links = s.links := by
  unfold State.freeVoice
  split <;> rfl

theorem State.freeResources_links (r : CueRef) : (s.freeResources r).links = s.links := by
  rw [State.freeResources, State.freeVoice_links, State.freePath_links]

namespace State.Leaves

variable {s x : State} {r : CueRef} {c : Cue}

theorem cue (h : s.Leaves r c x) : x.cue? r = some c := by
  obtain ⟨hc, ⟨-, rfl⟩ | rfl⟩ := h
  · exact hc
  · rw [State.freeResources_cue?, hc]

theorem links (h : s.Leaves r c x) : x.links = s.links := by
  obtain ⟨-, ⟨-, rfl⟩ | rfl⟩ := h
  · rfl
  · exact s.freeResources_links r

/-- The holders change, and with them that an arbitration is due; nothing else of the scheduler does. -/
theorem sched (h : s.Leaves r c x) :
    x.sched = { s.sched with path := x.sched.path, voices := x.sched.voices, arbDue := x.sched.arbDue } := by
  obtain ⟨-, ⟨-, rfl⟩ | rfl⟩ := h
  · rfl
  · exact s.freeResources_sched r

theorem frame (h : s.Leaves r c x) : s.SameOutside x := by
  obtain ⟨-, ⟨-, rfl⟩ | rfl⟩ := h
  · exact .refl x
  · exact s.freeResources_frame r

theorem of_off (hc : s.cue? r = some c) (h : c.onStage = false) : s.Leaves r c s := ⟨hc, .inl ⟨h, rfl⟩⟩
theorem of_freed (hc : s.cue? r = some c) : s.Leaves r c (s.freeResources r) := ⟨hc, .inr rfl⟩

end State.Leaves

theorem Sched.setCue_cue? (sc : Sched) (r q : CueRef) (c : Option Cue) :
    (sc.setCue r c).cue? q = if r = q then c else sc.cue? q := by
  cases r <;> cases q
  case slot.slot i j => simpa [Sched.cue?] using Sched.setCue_table sc (.slot i) c j
  all_goals simp [Sched.setCue, Sched.cue?]

theorem State.setCue_cue? (r q : CueRef) (c : Option Cue) :
    (s.setCue r c).cue? q = if r = q then c else s.cue? q := Sched.setCue_cue? _ _ _ _

@[simp] theorem State.setCue_cue?_same (r : CueRef) (c : Option Cue) : (s.setCue r c).cue? r = c := by
  simp [State.setCue_cue?]

/-- An update of the scheduler counts only by what it makes of it. -/
theorem State.onSched_congr {f g : Sched → Sched} (h : f s.sched = g s.sched) : s.onSched f = s.onSched g := by
  rw [State.onSched, h, State.onSched]

/-! ### The runs of the small operations -/

theorem State.around_turns {s t : State} (hs : t.sched = s.sched) (hl : t.links = s.links) (hf : s.SameOutside t) :
    s.Turns t := .one (.around hs hl hf)

theorem State.setArb_turns : s.Turns s.setArb :=
  .one (.quiet _ ⟨rfl, rfl, rfl, rfl, fun _ => rfl, id, rfl, fun _ => id⟩)

theorem Resource.unreserve_holder (x : Resource) (r : CueRef) : (x.unreserve r).holder = x.holder := by
  unfold Resource.unreserve
  split <;> rfl

theorem Resource.unreserve_reservation (x : Resource) (r : CueRef) :
    (x.unreserve r).reservation = if x.reservation = some r then none else x.reservation := by
  unfold Resource.unreserve
  split <;> rfl

theorem State.dropReservations_turns (r : CueRef) : s.Turns (s.dropReservations r) := by
  refine .one (.quiet _ ⟨rfl, rfl, rfl, Resource.unreserve_holder _ _, fun v => ?_, fun h => ?_, rfl, fun _ => id⟩)
  · simp [Resource.unreserve_holder]
  · have h : (s.sched.voices[0]).reservation = none := h
    simp [Resource.unreserve_reservation, h]

theorem State.endReservations_turns (r : CueRef) : s.Turns (s.endReservations r) := by
  unfold State.endReservations
  split
  · exact (s.dropReservations_turns r).trans (State.setArb_turns _)
  · exact s.dropReservations_turns r

theorem State.endPathReservation_turns : s.Turns s.endPathReservation := by
  unfold State.endPathReservation
  split
  · exact .refl s
  · exact s.endReservations_turns _

theorem State.leftPlaying_links : s.leftPlaying.links = s.links := by
  unfold State.leftPlaying
  split <;> rfl

theorem State.leftPlaying_turns : s.Turns s.leftPlaying :=
  State.around_turns s.leftPlaying_table s.leftPlaying_links s.leftPlaying_frame

theorem State.chooseRing_turns : s.Turns s.chooseRing := State.around_turns rfl rfl s.chooseRing_frame

theorem State.afterPlay_turns : s.Turns s.leftPlaying.chooseRing := s.leftPlaying_turns.trans (State.chooseRing_turns _)

theorem State.beginPattern_turns (v : Fin 4) (n : Fin 32) : s.Turns (s.beginPattern v n) := by
  refine State.around_turns ?_ ?_ (s.beginPattern_frame v n) <;>
  · unfold State.beginPattern
    split <;> rfl

theorem State.beginTone_turns (r : CueRef) : s.Turns (s.beginTone r) := by
  unfold State.beginTone
  repeat' split
  all_goals first
    | exact .refl s
    | exact s.beginPattern_turns _ _

theorem State.stopSpeech_turns : s.Turns s.stopSpeech := State.around_turns rfl rfl s.stopSpeech_frame
theorem State.startSpeech_turns : s.Turns s.startSpeech := State.around_turns rfl rfl s.startSpeech_frame
theorem State.stopVoice_turns (v : Fin 4) : s.Turns (s.stopVoice v) := State.around_turns rfl rfl (s.stopVoice_frame v)
theorem State.setUtt_turns (u : Utterance) : s.Turns (s.setUtt u) := State.around_turns rfl rfl (s.setUtt_frame u)

/-- A change of a cue's record that keeps its state and end cause. -/
theorem State.modCue_turns (r : CueRef) (f : Cue → Cue) (h : ∀ c : Cue, (f c).uid = c.uid ∧ (f c).origin = c.origin ∧
    (f c).state = c.state ∧ (f c).endCause = c.endCause) : s.Turns (s.modCue r f) := by
  unfold State.modCue
  cases hc : s.cue? r with
  | none =>
    have hs : (s.setCue r none).sched = s.sched := by
      have : s.sched.cue? r = none := hc
      cases r with
      | slot i =>
        have ht : s.sched.table.set i none = s.sched.table := by
          refine Vector.ext fun j hj => ?_
          by_cases e : i.val = j
          · subst e
            have : s.sched.table[i.val] = none := this
            simp [this]
          · simp [Vector.getElem_set_ne, e]
        exact congrArg (fun t => { s.sched with table := t }) ht
      | narration => exact congrArg (fun c => { s.sched with narration := { s.sched.narration with current := c } }) this.symm
      | feedback => exact congrArg (fun c => { s.sched with feedback := { s.sched.feedback with current := c } }) this.symm
    exact State.around_turns hs rfl (s.setCue_frame r none)
  | some c =>
    obtain ⟨h1, h2, h3, h4⟩ := h c
    exact .one (.cue hc (.of_same h1 h2 h3 h4) (by simp [h3]))

/-! ### Fences and REPORTING (R43, R49) -/

theorem State.releaseHeld_turns (m : Side) : s.Turns (s.releaseHeld m) := by
  have e : (s.onSched fun sc =>
      { sc with table := Vector.ofFn fun i =>
          (sc.table[i]).map fun c => if s.released m c then { c with state := .waiting } else c }) =
      (s.onSched fun sc =>
        { sc with table := Vector.ofFn fun i =>
            (s.sched.table[i]).map fun c => if s.released m c then { c with state := .waiting } else c }) :=
    s.onSched_congr rfl
  have h : s.Turns (s.onSched fun sc =>
      { sc with table := Vector.ofFn fun i =>
          (sc.table[i]).map fun c => if s.released m c then { c with state := .waiting } else c }) := by
    rw [e]
    refine .one (.freed _ fun i => ?_)
    simp only [Fin.getElem_fin, Vector.getElem_ofFn]
    cases hc : s.sched.table[i.val] with
    | none => exact .inl rfl
    | some c =>
      by_cases hr : s.released m c = true
      · have hheld : c.state = .held := by
          simp only [State.released, Bool.and_eq_true, decide_eq_true_eq] at hr
          exact hr.1.1
        exact .inr ⟨c, rfl, hheld, by simp [hr]⟩
      · exact .inl (by simp [hr])
  unfold State.releaseHeld
  dsimp only
  split
  · exact h.trans (State.setArb_turns _)
  · exact h

theorem State.checkFences_turns (m : Side) : s.Turns (s.checkFences m) := by
  refine State.Turns.trans (.one (.quiet _ ⟨rfl, rfl, rfl, rfl, fun _ => rfl, id, rfl, fun n hn => ?_⟩))
    (State.releaseHeld_turns _ m)
  rw [PerSide.get_modify]
  split
  · exact (List.length_filter_le _ _).trans hn
  · exact hn

theorem State.onLink_endReservations (m : Side) (f : Link → Link) (r : CueRef) :
    (s.endReservations r).onLink m f = (s.onLink m f).endReservations r := by
  unfold State.endReservations
  have : (s.onLink m f).reservesFree r = s.reservesFree r := rfl
  rw [this]
  split <;> rfl

/-- A cue that holds nothing enters REPORTING: the report, then the reservations it leaves, then the fences. -/
theorem State.enterReporting_turns {s x : State} {i : Fin 24} {c : Cue} (hx : s.Leaves (.slot i) c x)
    (hs : c.state ≠ .reporting) (hp : c.purged = false) (o : CueOutcome) : s.Turns (x.enterReporting i o) := by
  have hc : x.sched.table[i] = some c := hx.cue
  unfold State.enterReporting
  rw [hc]
  dsimp only
  split
  next m hm =>
    rw [State.onLink_endReservations]
    exact ((State.Turns.one (.report o hx hm hs hp)).trans (State.endReservations_turns _ _)).trans
      (State.checkFences_turns _ m)
  next =>
    exact (State.Turns.one (.leave hx (.of_free (d := c.toReporting o) rfl rfl hp hs))).trans
      (State.endReservations_turns _ _)

/-! ### Ends of play (R68, R74 to R77) -/

/-- A PLAYING cue enters ENDING. -/
theorem State.enterEnding_turns {s : State} {r : CueRef} {c : Cue} (hc : s.cue? r = some c) (hs : c.state = .playing)
    (e : EndCause) : s.Turns (s.enterEnding r e) := by
  refine State.Turns.trans ?_ (State.afterPlay_turns _)
  unfold State.modCue
  rw [hc]
  exact .one (.cue hc (.of_free (d := c.toEnding e s.now) rfl rfl (Cue.not_purged (by simp [hs])) (by simp [hs]))
    (by simp [Cue.toEnding]))

/-- A cue that is in GAP. -/
theorem State.endGap_turns {s : State} {i : Fin 24} {c : Cue} (hc : s.sched.table[i] = some c) (hs : c.state = .gap) :
    s.Turns (s.endGap i) := by
  have hx : s.Leaves (.slot i) c s := .of_off hc (by simp [Cue.onStage, hs])
  have hp : c.purged = false := Cue.not_purged (by simp [hs])
  unfold State.endGap
  rw [hc]
  dsimp only
  split
  · exact State.enterReporting_turns hx (by simp [hs]) hp _
  · refine .first (.leave hx ?_) (State.setArb_turns _)
    exact .of_free rfl rfl hp (by simp [hs])

theorem State.enterGap_turns {s x : State} {i : Fin 24} {c : Cue} (hx : s.Leaves (.slot i) c x)
    (hp : c.purged = false) (hs : c.state ≠ .reporting) : s.Turns (x.enterGap i c) := by
  unfold State.enterGap
  dsimp only
  split
  · refine .first (.leave hx ?_) (State.endGap_turns ((State.setCue_table _ _ _ _).trans (if_pos rfl)) rfl)
    exact .of_free rfl rfl hp hs
  · exact .one (.leave hx (.of_free rfl rfl hp hs))

/-- The end of play of a PLAYING cue. -/
theorem State.endOfPlay_turns {s : State} {r : CueRef} {c : Cue} (hc : s.cue? r = some c) (hs : c.state = .playing) :
    s.Turns (s.endOfPlay r) := by
  have hx : s.Leaves r c (s.freeResources r) := .of_freed hc
  have hp : c.purged = false := Cue.not_purged (by simp [hs])
  unfold State.endOfPlay
  rw [hc]
  dsimp only
  refine State.Turns.trans ?_ (State.afterPlay_turns _)
  split
  next i =>
    split
    · exact State.enterGap_turns hx hp (by simp [hs])
    · exact State.enterReporting_turns hx (by simp [hs]) hp _
  next => exact .one (.drop hx fun _ h => (nomatch h))
  next => exact .one (.drop hx fun _ h => (nomatch h))

/-- What becomes of a cue in ENDING once it holds nothing. -/
theorem State.fadeResult_turns {s x : State} {r : CueRef} {c : Cue} (hx : s.Leaves r c x) (hs : c.state = .ending) :
    s.Turns (x.fadeResult r c) := by
  have hr : c.state ≠ .reporting := by simp [hs]
  have hp {e : EndCause} (h : c.endCause = some e) (he : e ≠ .purged) : c.purged = false := by simp [Cue.purged, h, he]
  unfold State.fadeResult
  split
  next => exact .one (.drop hx fun _ h => (nomatch h))
  next => exact .one (.drop hx fun _ h => (nomatch h))
  next i =>
    split
    next h => exact State.enterReporting_turns hx hr (hp h (by simp)) _
    next h =>
      split
      · exact State.enterReporting_turns hx hr (hp h (by simp)) _
      · refine .first (.leave hx ?_) (State.setArb_turns _)
        exact .of_free rfl rfl (hp h (by simp)) hr
    next => exact .one (.drop hx fun _ _ h => absurd h hr)
    next h => exact State.enterReporting_turns hx hr (hp h (by simp)) _
    next h => exact State.enterReporting_turns hx hr (by simp [Cue.purged, h]) _

theorem State.endFade_turns {s : State} {r : CueRef} {c : Cue} (hc : s.cue? r = some c) (hs : c.state = .ending) :
    s.Turns (s.endFade r) := by
  unfold State.endFade
  rw [hc]
  exact (State.fadeResult_turns (.of_freed hc) hs).trans (State.chooseRing_turns _)

theorem State.fadeExpiry_turns (r : CueRef) : s.Turns (s.fadeExpiry r) := by
  unfold State.fadeExpiry
  split
  next => exact .refl s
  next c hc =>
    split
    next f hs hf =>
      split
      · exact State.endFade_turns hc hs
      · exact .one (.cue hc (.of_same rfl rfl rfl rfl) id)
    next => exact .refl s

/-! ### Phases of a playing cue (R71 to R73) -/

theorem State.utteranceEnded_turns (r : CueRef) : s.Turns (s.utteranceEnded r) := by
  unfold State.utteranceEnded
  split
  next => exact .refl s
  next c hc =>
    split
    next h =>
      split
      · split
        · exact State.endOfPlay_turns hc h.1
        · exact s.modCue_turns r _ fun _ => ⟨rfl, rfl, rfl, rfl⟩
      · refine ((s.modCue_turns r _ ?_).trans (State.stopSpeech_turns _)).trans (State.beginTone_turns _ r)
        exact fun _ => ⟨rfl, rfl, rfl, rfl⟩
      · exact State.endOfPlay_turns hc h.1
    next => exact .refl s

theorem State.beginUtterance_turns (r : CueRef) : s.Turns (s.beginUtterance r) := by
  unfold State.beginUtterance
  split
  · exact s.utteranceEnded_turns r
  · exact s.startSpeech_turns

theorem State.patternEnded_turns (r : CueRef) : s.Turns (s.patternEnded r) := by
  unfold State.patternEnded
  split
  next => exact .refl s
  next c hc =>
    split
    next hs =>
      have hend := State.endOfPlay_turns hc hs
      have hmod (f : Cue → Cue) := s.modCue_turns r f
      split
      · refine (hmod _ ?_).trans (State.beginUtterance_turns _ r)
        exact fun _ => ⟨rfl, rfl, rfl, rfl⟩
      · exact hend
      · split
        · exact hend
        · exact .refl s
      · split
        · exact hend
        · exact hmod _ fun _ => ⟨rfl, rfl, rfl, rfl⟩
      · exact .refl s
      · exact .refl s
    next => exact .refl s

theorem State.holdEnded_turns (r : CueRef) : s.Turns (s.holdEnded r) := by
  unfold State.holdEnded
  split
  next => exact .refl s
  next c hc =>
    split
    next h => exact State.endOfPlay_turns hc h.1
    next => exact .refl s

/-! ### Starts (R66) -/

theorem State.markTableCue_turns (r : CueRef) (f : Cue → Cue) (h : ∀ c : Cue, (f c).uid = c.uid ∧ (f c).origin = c.origin ∧
    (f c).state = c.state ∧ (f c).endCause = c.endCause) : s.Turns (s.markTableCue r f) := by
  unfold State.markTableCue
  split
  · exact s.modCue_turns _ f h
  · exact .refl s

theorem State.assembleFor_turns (r : CueRef) (c : Cue) : s.Turns (s.assembleFor r c) := by
  unfold State.assembleFor
  dsimp only
  split
  · exact (s.setUtt_turns _).trans (State.markTableCue_turns _ r Cue.markPartial fun _ => ⟨rfl, rfl, rfl, rfl⟩)
  · exact s.setUtt_turns _

theorem State.beginFirstPhase_turns (r : CueRef) (c : Cue) : s.Turns (s.beginFirstPhase r c) := by
  have h : s.Turns (match c.timing? with
      | some .after => s
      | _ => if c.tone.isSome then s.beginTone r else s) := by
    repeat' split
    all_goals first
      | exact .refl s
      | exact s.beginTone_turns r
  unfold State.beginFirstPhase
  dsimp only
  split
  · exact h.trans (State.beginUtterance_turns _ r)
  · exact h

/-- A start: the cue takes its place, the assembly is made, the display follows, and the first phase begins. -/
theorem State.startCue_eq {s : State} {r : CueRef} {c : Cue} (v : Option (Fin 4)) (h : s.candidate? r = some c) :
    s.startCue r v =
      (((if s.needsPath c then (s.placed r v c).assembleFor r c else s.placed r v c).wakeBacklight.stopIdle).chooseRing).beginFirstPhase
        r (c.started (s.needsPath c) s.sched.nextStart s.now) := by
  unfold State.startCue State.placed
  cases v <;> simp only [h]

theorem State.startCue_turns {s : State} {r : CueRef} {v : Option (Fin 4)} {c : Cue} (h : s.MayStart r v c) :
    s.Turns (s.startCue r v) := by
  rw [State.startCue_eq v h.candidate]
  refine State.Turns.trans ?_ (State.beginFirstPhase_turns _ r _)
  refine State.Turns.trans ?_ (State.chooseRing_turns _)
  refine State.Turns.trans (t := if s.needsPath c then (s.placed r v c).assembleFor r c else s.placed r v c) ?_
    (State.around_turns rfl rfl ((State.wakeBacklight_frame _).trans (State.stopIdle_frame _)))
  · split
    · exact .first (.start h) (State.assembleFor_turns _ r c)
    · exact .one (.start h)

/-! ### Preemption and arbitrations (R61 to R70) -/

theorem State.supersede_turns (r : CueRef) : s.Turns (s.supersede r) := by
  unfold State.supersede
  split
  next => exact .refl s
  next c hc =>
    split
    next hs => exact State.enterEnding_turns hc hs _
    next => exact .refl s

theorem State.setNarration_turns (items : List PhraseItem) : s.Turns (s.setNarration items) :=
  (((s.endReservations_turns _).trans (.one (.narrate items))).trans (State.supersede_turns _ _)).trans
    (State.setArb_turns _)

theorem State.setFeedback_turns (p : Fin 32) : s.Turns (s.setFeedback p) :=
  ((State.Turns.one (.feed p)).trans (State.supersede_turns _ _)).trans (State.setArb_turns _)

/-- A victim enters ENDING, with its count raised if it has one (R68). -/
theorem State.preemptVictim_eq {s : State} {r : CueRef} {c : Cue} (hc : s.cue? r = some c) :
    ∃ d, s.preemptVictim r = (s.setCue r (some d)).enterEnding r (victimCause d) ∧ d.uid = c.uid ∧ d.origin = c.origin ∧
      d.state = c.state ∧ d.endCause = c.endCause := by
  unfold State.preemptVictim
  rw [hc]
  cases r <;> exact ⟨_, rfl, rfl, rfl, rfl, rfl⟩

theorem State.preemptVictim_turns {s : State} {r : CueRef} {c : Cue} (hc : s.cue? r = some c) (hs : c.state = .playing) :
    s.Turns (s.preemptVictim r) := by
  obtain ⟨d, e, h1, h2, h3, h4⟩ := State.preemptVictim_eq hc
  rw [e]
  exact .first (.cue hc (.of_same h1 h2 h3 h4) (by simp [h3]))
    (State.enterEnding_turns (State.setCue_cue?_same s r _) (h3.trans hs) _)

theorem State.enterEnding_cue? (r q : CueRef) (e : EndCause) (h : r ≠ q) : (s.enterEnding r e).cue? q = s.cue? q := by
  unfold State.enterEnding State.modCue
  rw [State.cue?, State.chooseRing_sched, State.leftPlaying_table]
  exact (State.setCue_cue? _ _ _ _).trans (if_neg h)

theorem State.preemptVictim_cue? (r q : CueRef) (h : r ≠ q) : (s.preemptVictim r).cue? q = s.cue? q := by
  unfold State.preemptVictim
  split
  · rfl
  · rw [State.enterEnding_cue? _ _ _ _ h, State.setCue_cue?, if_neg h]

/-- Distinct PLAYING victims. -/
theorem State.preemptVictims_turns (l : List CueRef) (hn : l.Nodup) (s : State)
    (h : ∀ r ∈ l, ∃ c, s.cue? r = some c ∧ c.state = .playing) : s.Turns (l.foldl State.preemptVictim s) := by
  induction l generalizing s with
  | nil => exact .refl s
  | cons r l ih =>
    obtain ⟨hr, hl⟩ := List.nodup_cons.1 hn
    obtain ⟨c, hc, hs⟩ := h r (by simp)
    refine (State.preemptVictim_turns hc hs).trans (ih hl _ fun q hq => ?_)
    rw [State.preemptVictim_cue? s r q (fun e => hr (e ▸ hq))]
    exact h q (by simp [hq])

theorem State.reservePath_turns (r : CueRef) (p : Judgement) : s.Turns (match p with
    | .notNeeded => s
    | _ => s.onPath fun x => { x with reservation := some r }) := by
  split
  · exact .refl s
  · exact .one (.quiet _ ⟨rfl, rfl, rfl, rfl, fun _ => rfl, id, rfl, fun _ => id⟩)

theorem ne_zero_of_mem_tableVoices {v : Fin 4} (h : v ∈ tableVoices) : v ≠ 0 := by
  rintro rfl
  simp [tableVoices] at h

theorem State.reserveVoice_turns (r : CueRef) {v : Fin 4} (h : v ≠ 0) :
    s.Turns (s.onVoiceRes v fun x => { x with reservation := some r }) := by
  refine .one (.quiet _ ⟨rfl, rfl, rfl, rfl, fun w => ?_, fun h0 => ?_, rfl, fun _ => id⟩)
  · by_cases e : v.val = w.val
    · simp [e]
    · simp [Vector.getElem_set_ne, e]
  · have e : v.val ≠ (0 : Fin 4).val := fun e => h (Fin.ext e)
    exact (congrArg Resource.reservation (Vector.getElem_set_ne (xs := s.sched.voices) v.isLt (by decide) e)).trans h0

theorem State.preempt_turns (r : CueRef) (p v : Judgement)
    (hp : ∀ h, p.victim? = some h → ∃ x, s.cue? h = some x ∧ x.state = .playing)
    (hv : ∀ h, v.victim? = some h → ∃ x, s.cue? h = some x ∧ x.state = .playing)
    (hw : ∀ w, v.voice? = some w → w ∈ tableVoices) : s.Turns (s.preempt r p v) := by
  have hvictims := State.preemptVictims_turns (p.victim?.toList ++ v.victim?.toList).dedup (List.nodup_dedup _) s (by
    intro q hq
    simp only [List.mem_dedup, List.mem_append, Option.mem_toList] at hq
    exact hq.elim (hp q) (hv q))
  have hpath := hvictims.trans (State.reservePath_turns _ r p)
  unfold State.preempt
  dsimp only
  split
  next w h => exact hpath.trans (State.reserveVoice_turns _ r (ne_zero_of_mem_tableVoices (hw w h)))
  next => exact hpath

theorem State.judgePath_free {s : State} {r : CueRef} {c : Cue} (hb : (s.judgePath r c).isBlocked = false)
    (hv : (s.judgePath r c).victim? = none) (hn : s.needsPath c = true) : s.sched.path.holder = none := by
  unfold State.judgePath at hb hv
  rw [if_neg (by simp [hn])] at hb hv
  split at hb
  next h => exact h
  next h hh =>
    exfalso
    simp only [hh] at hv
    revert hb hv
    split
    · simp [Judgement.isBlocked]
    · split <;> simp [Judgement.isBlocked, Judgement.victim?]

theorem State.availableVoice_free {s : State} {r : CueRef} {v : Fin 4} (h : s.availableVoice r = some v) :
    (s.sched.voices[v]).holder = none := by
  unfold State.availableVoice at h
  split at h
  next w hw =>
    cases h
    have := List.find?_some hw
    simp only [Bool.and_eq_true, Option.isNone_iff_eq_none] at this
    exact this.1
  next =>
    have := List.find?_some h
    simp only [Bool.and_eq_true, Option.isNone_iff_eq_none] at this
    exact this.1

/-- A voice that a candidate starts on is free. -/
theorem State.judgeVoice_free {s : State} {r : CueRef} {c : Cue} (hv : (s.judgeVoice r c).victim? = none) {w : Fin 4}
    (hw : (s.judgeVoice r c).voice? = some w) : (s.sched.voices[w]).holder = none := by
  unfold State.judgeVoice at hv hw
  split at hw
  · simp [Judgement.voice?] at hw
  · split at hw
    next v h =>
      simp only [Judgement.voice?, Option.some.injEq] at hw
      subst hw
      exact State.availableVoice_free h
    next hnone =>
      exfalso
      rw [if_neg ‹_›] at hv
      simp only [hnone] at hv
      revert hw hv
      repeat' split
      all_goals simp [Judgement.voice?, Judgement.victim?]

theorem State.judgeVoice_needed {s : State} {r : CueRef} {c : Cue} (h : c.tone = none) :
    (s.judgeVoice r c).voice? = none := by
  simp [State.judgeVoice, Cue.needsVoice, h, Judgement.voice?]

/-- A candidate that neither waits on nor preempts may start. -/
theorem State.mayStart_of_judged {s : State} {r : CueRef} {c : Cue} (hc : s.candidate? r = some c) (hw : c.state = .waiting)
    (hr : r ≠ .feedback) (hb : (s.judgePath r c).isBlocked = false) (hp : (s.judgePath r c).victim? = none)
    (hv : (s.judgeVoice r c).victim? = none) : s.MayStart r (s.judgeVoice r c).voice? c where
  candidate := hc
  waiting _ _ := hw
  path _ := State.judgePath_free hb hp
  voice w h := by
    refine ⟨State.judgeVoice_free hv h, ?_⟩
    have := ne_zero_of_mem_tableVoices (s.judgeVoice_voice r c w h)
    simp [this, hr]
  needed _ := State.judgeVoice_needed

theorem State.serve_turns (r : CueRef) (hr : r ≠ .feedback) : s.Turns (s.serve r) := by
  unfold State.serve
  split
  next => exact .refl s
  next c hc =>
    split
    next hw =>
      dsimp only
      split
      next => exact .refl s
      next hb =>
        simp only [Bool.or_eq_true, not_or, Bool.not_eq_true] at hb
        split
        next =>
          exact s.preempt_turns r _ _ (s.judgePath_victim r c) (s.judgeVoice_victim r c) (s.judgeVoice_voice r c)
        next hv =>
          simp only [Bool.or_eq_true, not_or, Bool.not_eq_true, Option.isSome_eq_false_iff, Option.isNone_iff_eq_none] at hv
          exact State.startCue_turns (State.mayStart_of_judged hc hw hr hb.1 hv.1 hv.2)
    next => exact .refl s

/-- The feedback entry starts on a free voice 0 (R70). -/
theorem State.serveFeedback_turns : s.Turns s.serveFeedback := by
  unfold State.serveFeedback
  split
  next h =>
    simp only [Bool.and_eq_true, Option.isNone_iff_eq_none, Option.isSome_iff_exists] at h
    obtain ⟨⟨c, hc⟩, hfree⟩ := h
    refine State.startCue_turns (c := c) ⟨hc, fun _ e => (nomatch e), fun e => absurd rfl e, fun w hw => ?_, fun e => (nomatch e)⟩
    cases hw
    exact ⟨hfree, by simp⟩
  next => exact .refl s

theorem State.mem_candidates_ne_feedback {r : CueRef} (h : r ∈ s.candidates) : r ≠ .feedback := by
  rintro rfl
  revert h
  unfold State.candidates State.narrationCandidates
  simp only [State.classOrder, State.classCandidates, List.mem_append, List.mem_map]
  split
  · split <;> simp
  · simp

theorem State.arbitrate_turns : s.Turns s.arbitrate := by
  have h (l : List CueRef) (hl : ∀ r ∈ l, r ≠ .feedback) (t : State) : t.Turns (l.foldl State.serve t) := by
    induction l generalizing t with
    | nil => exact .refl t
    | cons r l ih => exact (t.serve_turns r (hl r (by simp))).trans (ih (fun q hq => hl q (by simp [hq])) _)
  exact (h _ (fun r hr => s.mem_candidates_ne_feedback hr) s).trans (State.serveFeedback_turns _)

theorem State.clearArb_turns : s.Turns (s.onSched fun sc => { sc with arbDue := false }) :=
  .one (.quiet _ ⟨rfl, rfl, rfl, rfl, fun _ => rfl, id, rfl, fun _ => id⟩)

theorem State.arbitrateFor_turns (n : Nat) : s.Turns (State.arbitrateFor n s) := by
  induction n generalizing s with
  | zero => exact s.clearArb_turns
  | succ n ih =>
    unfold State.arbitrateFor
    split
    · exact (s.clearArb_turns.trans (State.arbitrate_turns _)).trans (ih _)
    · exact .refl s

/-- Arbitrations are a run of turns. -/
theorem State.settleArb_turns : s.Turns s.settleArb := s.arbitrateFor_turns _

/-! ### Lifetimes, cancels and purges (R44 to R47, R56) -/

theorem State.deadlinePasses_turns (i : Fin 24) : s.Turns (s.deadlinePasses i) := by
  unfold State.deadlinePasses
  split
  next => exact .refl s
  next c hc =>
    have expires (h : c.state = .waiting ∨ c.state = .held) : s.Turns (s.enterReporting i .expired) := by
      refine State.enterReporting_turns (.of_off hc ?_) ?_ (Cue.not_purged ?_) _
      all_goals rcases h with h | h <;> simp [h, Cue.onStage]
    have noted : s.Turns (s.setCue (.slot i) (some { c with deadlinePassed := true })) :=
      .one (.cue hc (.of_same rfl rfl rfl rfl) (fun h => h))
    split
    · exact .refl s
    · split
      next h => exact expires (.inl h)
      next h => exact expires (.inr h)
      next => exact noted
      next => exact noted
      next => exact noted
      next => exact .refl s

/-- A cue that is not in its purge fade is cancelled. -/
theorem State.cancelCue_turns (i : Fin 24) (hp : ∀ c, s.sched.table[i] = some c → c.purged = false) :
    s.Turns (s.cancelCue i) := by
  unfold State.cancelCue
  split
  next => exact .refl s
  next c hc =>
    have ends (h : c.state = .waiting ∨ c.state = .held ∨ c.state = .gap) : s.Turns (s.enterReporting i .cancelled) := by
      refine State.enterReporting_turns (.of_off hc ?_) ?_ (hp c hc) _
      all_goals rcases h with h | h | h <;> simp [h, Cue.onStage]
    split
    next h => exact ends (.inl h)
    next h => exact ends (.inr (.inl h))
    next h => exact ends (.inr (.inr h))
    next h => exact State.enterEnding_turns (r := .slot i) hc h _
    next h => exact .one (.cue (r := .slot i) hc (.of_free rfl rfl (hp c hc) (by simp [h])) (fun h => h))
    next => exact .refl s

/-- What a cancel leaves of the other slots: no cue is put into its purge fade. -/
theorem State.cancelCue_but (i : Fin 24) : s.SameCuesBut (.slot i) (s.cancelCue i) := by
  unfold State.cancelCue
  split
  next => exact .refl _ s
  next c hc =>
    split
    next => exact s.enterReporting_but i _
    next => exact s.enterReporting_but i _
    next => exact s.enterReporting_but i _
    next => exact s.enterEnding_but _ _ (by simp)
    next =>
      refine s.setCue_but _ _ fun j e => ⟨c, ?_, rfl, by simp [Cue.purged], fun h => h⟩
      cases e
      exact hc
    next => exact .refl _ s

/-- A slot of `SameCuesBut` holds a cue purged only if it held one before. -/
theorem State.SameCuesBut.not_purged {s t : State} {r : CueRef} (h : s.SameCuesBut r t) {i : Fin 24}
    (hp : ∀ c, s.sched.table[i] = some c → c.purged = false) (d : Cue) (hd : t.sched.table[i] = some d) : d.purged = false := by
  have hi := h i
  rw [hd] at hi
  cases hc : s.sched.table[i] with
  | none => simp [hc, SlotRel] at hi
  | some c =>
    rw [hc] at hi
    have hpost : c.SamePost d := by
      simp only [SlotRel] at hi
      split at hi
      · exact hi
      · exact hi.1
    exact Bool.eq_false_iff.2 fun e => Bool.eq_false_iff.1 (hp c hc) (hpost.2.1 e)

theorem State.cancelCues_turns (l : List (Fin 24)) (s : State)
    (h : ∀ i ∈ l, ∀ c, s.sched.table[i] = some c → c.purged = false) : s.Turns (l.foldl State.cancelCue s) := by
  induction l generalizing s with
  | nil => exact .refl s
  | cons i l ih =>
    exact (s.cancelCue_turns i (h i (by simp))).trans
      (ih _ fun j hj => (s.cancelCue_but i).not_purged (h j (by simp [hj])))

/-- A cancel selects live cues of the machine. -/
theorem State.mem_cancelSelection (m : Side) (mode : CancelMode) (i : Fin 24) : i ∈ s.cancelSelection m mode ↔
    ∃ c, s.sched.table[i] = some c ∧ c.ofMachine m = true ∧ c.live = true ∧ mode.selects c = true := by
  simp only [State.cancelSelection, List.mem_map, List.mem_insertionSort, List.mem_filter, Bool.and_eq_true, Prod.exists,
    State.mem_tableCues, and_assoc]
  exact ⟨fun ⟨_, c, h1, h2, h3, h4, e⟩ => e ▸ ⟨c, h1, h2, h3, h4⟩, fun ⟨c, h1, h2, h3, h4⟩ => ⟨i, c, h1, h2, h3, h4, rfl⟩⟩

theorem State.cueCancel_turns (m : Side) (mode : CancelMode) : s.Turns (s.cueCancel m mode).2 := by
  have h (l : List (Fin 24)) (hl : s.cancelSelection m mode = l) : s.Turns (l.foldl State.cancelCue s) := by
    refine State.cancelCues_turns l s fun i hi c hc => ?_
    obtain ⟨d, hd, hm, -⟩ := (s.mem_cancelSelection m mode i).1 (hl ▸ hi)
    rw [hc] at hd
    cases hd
    simp only [Cue.ofMachine, Bool.and_eq_true, Bool.not_eq_true'] at hm
    exact hm.2
  unfold State.cueCancel
  split
  · exact .refl s
  · exact h _ rfl

/-- A cue of a machine whose link lists no report is purged (R18, R56). -/
theorem State.purgeCue_turns (m : Side) (i : Fin 24) (hd : (s.link m).done = []) :
    s.Turns (s.purgeCue m i) ∧ (s.purgeCue m i).links = s.links := by
  have hend (r : CueRef) : (s.enterEnding r .purged).links = s.links := State.leftPlaying_links _
  have hres (t : State) (r : CueRef) : (t.endReservations r).links = t.links := by
    unfold State.endReservations
    split <;> rfl
  unfold State.purgeCue
  split
  next => exact ⟨.refl s, rfl⟩
  next c hc =>
    split
    next hm =>
      simp only [Cue.ofMachine, Bool.and_eq_true, Bool.not_eq_true', decide_eq_true_eq] at hm
      have gone (hs : c.state ≠ .playing ∧ c.state ≠ .ending) : s.Turns ((s.setCue (.slot i) none).endReservations (.slot i)) := by
        refine .first (.drop (.of_off (r := .slot i) hc ?_) fun _ _ _ => ⟨m, hm.1, hd⟩) (State.endReservations_turns _ _)
        simp [Cue.onStage, hs]
      split
      next h => exact ⟨gone (by simp [h]), hres _ _⟩
      next h => exact ⟨gone (by simp [h]), hres _ _⟩
      next h => exact ⟨gone (by simp [h]), hres _ _⟩
      next h => exact ⟨gone (by simp [h]), hres _ _⟩
      next h => exact ⟨State.enterEnding_turns (r := .slot i) hc h _, hend _⟩
      next h => exact ⟨.one (.cue (r := .slot i) hc (.of_free rfl rfl hm.2 (by simp [h])) (fun h => h)), rfl⟩
    next => exact ⟨.refl s, rfl⟩

theorem State.purgeCues_turns (m : Side) (l : List (Fin 24)) (s : State) (hd : (s.link m).done = []) :
    s.Turns (l.foldl (fun t i => t.purgeCue m i) s) ∧ (l.foldl (fun t i => t.purgeCue m i) s).links = s.links := by
  induction l generalizing s with
  | nil => exact ⟨.refl s, rfl⟩
  | cons i l ih =>
    obtain ⟨h1, e1⟩ := s.purgeCue_turns m i hd
    obtain ⟨h2, e2⟩ := ih (s.purgeCue m i) (by rw [State.link, e1]; exact hd)
    exact ⟨h1.trans h2, e2.trans e1⟩

/-- The markers of a machine and its posting sequence begin anew (R56). -/
theorem State.restartPosting_turns (m : Side) : s.Turns (s.onSched fun sc =>
    { sc with markers := sc.markers.set m [], nextPosting := sc.nextPosting.set m 0 }) := by
  refine .one (.quiet _ ⟨rfl, rfl, rfl, rfl, fun _ => rfl, id, rfl, fun n h => ?_⟩)
  rw [PerSide.get_set]
  split
  · simp
  · exact h

theorem State.purge_turns (m : Side) (hd : (s.link m).done = []) : s.Turns (s.purge m) :=
  (State.purgeCues_turns m (List.finRange 24) s hd).1.trans (State.restartPosting_turns _ m)

/-- A FENCE is taken while fewer than four markers are stored (R42). -/
theorem State.fence_turns (m : Side) : s.Turns (s.fence m).2 := by
  unfold State.fence
  split
  · exact .refl s
  · split
    next hfew _ =>
      dsimp only
      refine .one (.quiet (s := s) _ ⟨rfl, rfl, rfl, rfl, fun _ => rfl, id, rfl, fun n h => ?_⟩)
      rw [PerSide.get_modify]
      split
      next e =>
        subst e
        rw [List.length_append, List.length_singleton]
        omega
      next => exact h
    next => exact .refl s

end Sys2Proof.Machine
end

section
/-! SUPPORT. What a command does, cut into the moves that every law of the part is checked against once. `State.Calm` is a move that
touches no request in service, no reply and nothing of the Store Interface but through the scheduler; `State.Move` adds those that do;
`exec_moves` says that every command but a power reset is a run of them. -/

namespace Sys2Proof.Machine

/-! ### Moves -/

/-- What a change of a link keeps: its bounds, and that its reports are those it listed (R12, R19). -/
structure Link.Turn (l k : Link) : Prop where
  bounded : l.Bounded → k.Bounded
  done : k.done.Sublist l.done
  nextOrder : l.nextOrder ≤ k.nextOrder
  tx : ∀ f, k.tx = .sending (.done f) → l.tx = .sending (.done f) ∨ f ∈ l.done

/-- The context and the focus that an ATTACH leaves (R23, R32). -/
def State.attachAt (s : State) (m : Side) : State :=
  { s.onCtx m fun _ => attachedContext with focus := some (s.focus.getD m) }

/-- One move that leaves requests in service, replies and the Store Interface alone. -/
inductive State.Calm : State → State → Prop
  | turn {s t : State} (h : s.Turn t) : Calm s t
  /-- A posted cue takes a free slot (R40). -/
  | post {s : State} {m : Side} {i : Fin 24} {c : Cue} (free : s.sched.table[i] = none) (few : s.machineCount m < 16)
      (uid : c.uid = s.sched.nextUid) (origin : c.origin = .machine m) (state : c.state = .waiting ∨ c.state = .held) :
      Calm s (s.onSched fun sc =>
        { sc with table := sc.table.set i (some c), nextUid := sc.nextUid + 1,
                  nextPosting := sc.nextPosting.modify m (· + 1) })
  | link {s : State} {m : Side} {f : Link → Link} (h : (s.link m).Turn (f (s.link m)))
      (inService : (f (s.link m)).inService = (s.link m).inService) (reply : (f (s.link m)).reply = (s.link m).reply) :
      Calm s (s.onLink m f)
  | ctx {s : State} {m : Side} {f : Context → Context} (range : (s.context m).InRange → (f (s.context m)).InRange)
      (language : (s.context m).language < s.languageCount → (f (s.context m)).language < s.languageCount)
      (attached : (f (s.context m)).attached = (s.context m).attached) : Calm s (s.onCtx m f)
  | focus {s : State} {m : Side} (h : s.attached m = true) : Calm s { s with focus := some m }
  | attach (s : State) (m : Side) : Calm s (s.attachAt m)
  | mixer {s : State} {f : Mixer → Mixer} (stage : s.mixer.StageOk → (f s.mixer).StageOk)
      (mix : s.mixer.MixOk → (f s.mixer).MixOk) : Calm s (s.onMixer f)
  | display {s : State} {f : Display → Display} (levels : s.display.LevelsOk → (f s.display).LevelsOk) : Calm s (s.onDisplay f)
  | panel {s : State} {f : Panel → Panel} (settings : s.panel.SettingsOk → (f s.panel).SettingsOk) : Calm s (s.onPanel f)
  | tone (s : State) (f : Tone → Tone) : Calm s (s.onTone f)
  | stream {s : State} {f : Stream → Stream} (ring : (f s.stream).ring.length ≤ s.stream.ring.length) : Calm s (s.onStream f)
  | clock (s : State) (n : Nat) : Calm s { s with now := n }

/-- A run of calm moves. -/
abbrev State.Calms : State → State → Prop := Relation.ReflTransGen State.Calm

/-- The hand-offs of a check's end before the next check is seen to (R95 steps 1 to 5). -/
def State.handOff (s : State) (f : Flash) : State :=
  let t := s.onStore fun st => st.takeResult (runCheck f)
  let t := if s.store.state = .ok ∧ t.store.state = .failed then t.storeFault else t
  (({ t.clampLanguages with partState := .ready }).answerWaiter .w).answerWaiter .d

/-- A check's end up to the check state it leaves (R95 steps 1 to 6), the reservation of the speech path aside. -/
def State.checkDone (s : State) (f : Flash) : State :=
  (s.handOff f).onStore fun st =>
    if st.nextWaiters = .both false then { st with check := .idle, currentWaiters := .both false, askedAt := none }
    else { st with check := .pending, currentWaiters := st.nextWaiters, nextWaiters := .both false, askedAt := none }

/-- One move. -/
inductive State.Move : State → State → Prop
  | calm {s t : State} (h : s.Calm t) : Move s t
  | link {s : State} {m : Side} {f : Link → Link} (h : (s.link m).Turn (f (s.link m))) : Move s (s.onLink m f)
  /-- The check state, the waiters, the transfers and the port move; the S channel gets the port only with room in the ring (R116). -/
  | store {s : State} {f : Store → Store} (state : (f s.store).state = s.store.state)
      (catalog : (f s.store).catalog = s.store.catalog)
      (port : (f s.store).port = .s → s.store.port = .s ∨ s.stream.ring.length + 32 ≤ 512) : Move s (s.onStore f)
  | check {s : State} (f : Flash) (h : s.store.check = .running) : Move s (s.checkDone f)
  /-- The bytes of an S burst join the ring as its burst ends (R117). -/
  | fill {s : State} (c : ChannelS) {f : Stream → Stream} (port : s.store.port = .s)
      (ring : (f s.stream).ring.length ≤ s.stream.ring.length + 32) :
      Move s ((s.onStore fun st => { st with chanS := c, port := .idle }).onStream f)
  | sent (s : State) (m : Side) : Move s (s.frameSent m)

/-- A run of moves. -/
abbrev State.Moves : State → State → Prop := Relation.ReflTransGen State.Move

variable {s t u : State}

namespace State.Calms

theorem refl (s : State) : s.Calms s := Relation.ReflTransGen.refl
theorem one (h : s.Calm t) : s.Calms t := Relation.ReflTransGen.single h
theorem trans (h : s.Calms t) (k : t.Calms u) : s.Calms u := Relation.ReflTransGen.trans h k
theorem of_turns (h : s.Turns t) : s.Calms t := h.lift id fun _ _ => .turn

/-- What every calm move keeps, a run of them keeps. -/
theorem keeps {P : State → Prop} (hP : ∀ {s t : State}, s.Calm t → P s → P t) (h : s.Calms t) (hs : P s) : P t := by
  induction h with
  | refl => exact hs
  | tail _ k ih => exact hP k ih

end State.Calms

namespace State.Moves

theorem refl (s : State) : s.Moves s := Relation.ReflTransGen.refl
theorem one (h : s.Move t) : s.Moves t := Relation.ReflTransGen.single h
theorem trans (h : s.Moves t) (k : t.Moves u) : s.Moves u := Relation.ReflTransGen.trans h k
theorem of_calms (h : s.Calms t) : s.Moves t := h.lift id fun _ _ => .calm
theorem of_turns (h : s.Turns t) : s.Moves t := of_calms (.of_turns h)

/-- What every move keeps, a run of moves keeps. -/
theorem keeps {P : State → Prop} (hP : ∀ {s t : State}, s.Move t → P s → P t) (h : s.Moves t) (hs : P s) : P t := by
  induction h with
  | refl => exact hs
  | tail _ k ih => exact hP k ih

end State.Moves

/-! ### Links -/

section
variable (l : Link)

/-- A change of a link that leaves its lists, its order numbers and its transmitter. -/
theorem Link.Turn.of_same {l k : Link} (hb : l.Bounded → k.Bounded) (hd : k.done = l.done) (hn : l.nextOrder ≤ k.nextOrder)
    (ht : k.tx = l.tx) : l.Turn k :=
  ⟨hb, by rw [hd], hn, fun f h => .inl (ht ▸ h)⟩

/-- A change of a link beside everything the laws speak of. -/
theorem Link.Turn.of_eq {l k : Link} (h : k = { l with
    inService := k.inService, reply := k.reply, focusMark := k.focusMark, profileMark := k.profileMark, nextOrder := k.nextOrder,
    profileEvent := k.profileEvent, profileShown := k.profileShown, faultMark := k.faultMark, pendingStore := k.pendingStore,
    pendingSpeaker := k.pendingSpeaker, fault := k.fault, causes := k.causes, gapTimer := k.gapTimer })
    (hn : l.nextOrder ≤ k.nextOrder) : l.Turn k := by
  refine .of_same (fun hb => ?_) (by rw [h]) hn (by rw [h])
  rw [h]
  exact hb

theorem Link.addCause_turn (f : Causes → Causes) : l.Turn (l.addCause f) := .of_eq rfl (le_refl _)

theorem Link.offer_turn (e : QueueEntry) : l.Turn (l.offer e) := by
  unfold Link.offer
  split
  next h =>
    refine .of_same (fun ⟨_, h2, h3⟩ => ⟨?_, h2, h3⟩) rfl (le_refl _) rfl
    rw [List.length_append, List.length_singleton]
    omega
  next => exact l.addCause_turn _

theorem Link.Turn.trans {l k j : Link} (h : l.Turn k) (g : k.Turn j) : l.Turn j where
  bounded := g.bounded ∘ h.bounded
  done := g.done.trans h.done
  nextOrder := h.nextOrder.trans g.nextOrder
  tx f hf := (g.tx f hf).elim (h.tx f) fun hm => .inr (h.done.subset hm)

/-- A new state of the receive assembler. -/
theorem Link.asm_turn (a : Assembler) (h : l.Bounded → ∀ len got, a = .body len got → len ≤ 96 ∧ got.length < len + 2) :
    l.Turn { l with asm := a } := by
  refine .of_same (fun hb => ⟨hb.1, hb.2.1, ?_⟩) rfl (le_refl _) rfl
  have := h hb
  cases a with
  | body len got => exact this len got rfl
  | _ => trivial

theorem Link.assemble_turn (c : Byte) : l.Turn (l.assemble c) := by
  unfold Link.assemble
  split
  next =>
    split
    · exact l.asm_turn _ fun _ _ _ e => (nomatch e)
    · exact .of_eq rfl (le_refl _)
  next =>
    split
    next h => exact l.asm_turn _ fun _ _ _ e => by cases e; exact ⟨h, by simp⟩
    next => exact (l.asm_turn .discard fun _ _ _ e => (nomatch e)).trans (Link.addCause_turn _ _)
  next len got ha =>
    split
    next h =>
      refine l.asm_turn _ fun hb _ _ e => ?_
      cases e
      have := hb.2.2
      rw [ha] at this
      exact ⟨this.1, by simpa using h⟩
    next => exact (l.asm_turn .search fun _ _ _ e => (nomatch e)).trans (Link.offer_turn _ _)
  next => exact .of_eq rfl (le_refl _)

theorem Link.receive_turn (c : Byte) (now : Nat) : l.Turn (l.receive c now) :=
  Link.Turn.trans (k := { l with gapTimer := some (now + Config.linkGap) }) (.of_eq rfl (le_refl _)) (Link.assemble_turn _ c)

/-- Reception touches neither the request in service nor the reply. -/
theorem Link.receive_service (c : Byte) (now : Nat) :
    (l.receive c now).inService = l.inService ∧ (l.receive c now).reply = l.reply := by
  unfold Link.receive Link.assemble Link.offer Link.addCause
  repeat' split
  all_goals exact ⟨rfl, rfl⟩

theorem Link.setFocusMark_turn : l.Turn l.setFocusMark := by
  unfold Link.setFocusMark
  split
  · exact .of_eq rfl (le_refl _)
  · exact .of_eq rfl (Nat.le_succ _)
theorem Link.setProfileMark_turn : l.Turn l.setProfileMark := by
  unfold Link.setProfileMark
  split
  · exact .of_eq rfl (le_refl _)
  · exact .of_eq rfl (Nat.le_succ _)
theorem Link.setFaultMark_turn : l.Turn l.setFaultMark := by
  unfold Link.setFaultMark
  split
  · exact .of_eq rfl (le_refl _)
  · exact .of_eq rfl (Nat.le_succ _)
theorem Link.speakerFault_turn : l.Turn l.speakerFault :=
  ((l.addCause_turn _).trans (Link.setFaultMark_turn _)).trans (.of_eq rfl (le_refl _))
theorem Link.storeFault_turn : l.Turn l.storeFault :=
  ((l.addCause_turn _).trans (Link.setFaultMark_turn _)).trans (.of_eq rfl (le_refl _))

@[simp] theorem Link.setFocusMark_service : l.setFocusMark.inService = l.inService ∧ l.setFocusMark.reply = l.reply := by
  unfold Link.setFocusMark
  split <;> exact ⟨rfl, rfl⟩
@[simp] theorem Link.setProfileMark_service :
    l.setProfileMark.inService = l.inService ∧ l.setProfileMark.reply = l.reply := by
  unfold Link.setProfileMark
  split <;> exact ⟨rfl, rfl⟩
@[simp] theorem Link.setFaultMark_service : l.setFaultMark.inService = l.inService ∧ l.setFaultMark.reply = l.reply := by
  unfold Link.setFaultMark
  split <;> exact ⟨rfl, rfl⟩

theorem Link.speakerFault_service : l.speakerFault.inService = l.inService ∧ l.speakerFault.reply = l.reply :=
  Link.setFaultMark_service (l.addCause Causes.withSpeaker)
theorem Link.storeFault_service : l.storeFault.inService = l.inService ∧ l.storeFault.reply = l.reply :=
  Link.setFaultMark_service (l.addCause Causes.withStore)

theorem Link.inputs_turn (x : List InputReport) (n : Nat) (h : l.inputs.length ≤ 16 → x.length ≤ 16) (hn : l.nextOrder ≤ n) :
    l.Turn { l with inputs := x, nextOrder := n } :=
  .of_same (fun ⟨h1, h2, h3⟩ => ⟨h1, h h2, h3⟩) rfl hn rfl

theorem Link.addInput_turn (c : InputContent) : l.Turn (l.addInput c) := by
  have join : l.Turn (if l.inputs.length < 16 then
      { l with inputs := l.inputs ++ [{ order := l.nextOrder, content := c }], nextOrder := l.nextOrder + 1 }
    else l.addCause Causes.withReportDrop) := by
    split
    next h => exact l.inputs_turn _ _ (fun _ => by rw [List.length_append, List.length_singleton]; omega) (Nat.le_succ _)
    next => exact l.addCause_turn _
  unfold Link.addInput
  dsimp only
  split
  next r steps index atEnd hr =>
    split
    next =>
      split
      · refine l.inputs_turn _ _ (fun h => ?_) (le_refl _)
        have : l.inputs ≠ [] := fun e => by simp [e] at hr
        have := List.length_pos_iff.2 this
        rw [List.length_append, List.length_dropLast, List.length_singleton]
        omega
      · exact join
    next => exact join
  next => exact join

theorem Link.addInput_service (c : InputContent) :
    (l.addInput c).inService = l.inService ∧ (l.addInput c).reply = l.reply := by
  unfold Link.addInput Link.addCause
  dsimp only
  repeat' split
  all_goals exact ⟨rfl, rfl⟩

end

/-- A calm change of a link. -/
theorem State.onLink_calms {m : Side} {f : Link → Link} (h : ∀ l : Link, l.Turn (f l))
    (hs : ∀ l : Link, (f l).inService = l.inService ∧ (f l).reply = l.reply) : s.Calms (s.onLink m f) :=
  .one (.link (h _) (hs _).1 (hs _).2)

theorem State.onAttachedLinks_eq (s : State) (f : Link → Link) : s.onAttachedLinks f =
    (if s.attached .d then (if s.attached .w then s.onLink .w f else s).onLink .d f
      else if s.attached .w then s.onLink .w f else s) := by
  unfold State.onAttachedLinks
  split_ifs <;> rfl

theorem State.onAttachedLinks_calms {f : Link → Link} (h : ∀ l : Link, l.Turn (f l))
    (hs : ∀ l : Link, (f l).inService = l.inService ∧ (f l).reply = l.reply) : s.Calms (s.onAttachedLinks f) := by
  have one (t : State) (m : Side) (p : Prop) [Decidable p] : t.Calms (if p then t.onLink m f else t) := by
    split
    · exact State.onLink_calms h hs
    · exact .refl t
  rw [State.onAttachedLinks_eq]
  split
  · exact (one s .w _).trans (State.onLink_calms h hs)
  · exact one s .w _

theorem State.txChoose_calms (s : State) (m : Side) : s.Calms (s.txChoose m) := by
  have sends (f : TxFrame) (k : Link) (hk : k = { s.link m with
      tx := .sending f, focusMark := k.focusMark, profileMark := k.profileMark, profileShown := k.profileShown,
      faultMark := k.faultMark, pendingStore := k.pendingStore, pendingSpeaker := k.pendingSpeaker })
      (hf : ∀ r, f = .done r → r ∈ (s.link m).done) (g : Link → Link) (hg : g (s.link m) = k) : s.Calms (s.onLink m g) := by
    refine .one (.link ?_ ?_ ?_)
    · rw [hg]
      refine ⟨fun hb => by rw [hk]; exact hb, by rw [hk], by rw [hk], fun r hr => .inr (hf r ?_)⟩
      rw [hk] at hr
      cases hr
      rfl
    · rw [hg, hk]
    · rw [hg, hk]
  unfold State.txChoose
  split
  next => exact .refl s
  next =>
    split
    next r _ => exact sends (.reply r) _ rfl (fun _ e => (nomatch e)) _ rfl
    next =>
      split
      next => exact .refl s
      next c hc =>
        cases c with
        | done r =>
          refine sends _ _ rfl (fun r' e => ?_) _ rfl
          cases e
          have hm : ∃ n, (n, ReportChoice.done r) ∈ (s.link m).available := by
            revert hc
            cases hav : (s.link m).available with
            | nil => simp [earliest]
            | cons x rest =>
              intro hc
              simp only [earliest, Option.some.injEq] at hc
              have hx := foldl_pick_mem (fun a b : Nat × ReportChoice => decide (a.1 < b.1)) x rest
              simp only [decide_eq_true_eq] at hx
              exact ⟨_, by rw [← hc]; exact hx⟩
          obtain ⟨n, hn⟩ := hm
          simp only [Link.available, List.mem_append, Option.mem_toList, Option.map_eq_some_iff, Prod.mk.injEq] at hn
          rcases hn with (((⟨a, ha, -, e⟩ | ⟨a, ha, -, e⟩) | ⟨a, ha, -, e⟩) | ⟨a, ha, -, e⟩) | ⟨a, ha, -, e⟩ <;> cases e
          exact List.mem_of_head? ha
        | input r => exact sends (.input r) _ rfl (fun _ e => (nomatch e)) _ rfl
        | focus => exact sends (.focus s.focus) _ rfl (fun _ e => (nomatch e)) _ rfl
        | profile => exact sends (s.context m).profileFrame _ rfl (fun _ e => (nomatch e)) _ rfl
        | fault => exact sends (.fault _ _ _) _ rfl (fun _ e => (nomatch e)) _ rfl

/-! ### After an event (log 6) -/

theorem State.grantRace_moves (s : State) : s.Moves s.grantRace := by
  unfold State.grantRace
  split
  · refine .one (.store rfl rfl fun h => .inl ?_)
    simp only [racePort] at h
    split at h
    · simp at h
    · exact h
  · exact .refl s

theorem State.tryBeginCheck_moves (s : State) : s.Moves s.tryBeginCheck := by
  unfold State.tryBeginCheck
  split
  · exact .one (.store rfl rfl fun h => (nomatch h))
  · exact .refl s

theorem State.portDecide_moves (s : State) : s.Moves s.portDecide := by
  unfold State.portDecide
  split
  next =>
    split
    next h =>
      simp only [State.eligibleS, Bool.and_eq_true, decide_eq_true_eq] at h
      exact .one (.store rfl rfl fun _ => .inr h.2)
    next =>
      split
      · exact .one (.store rfl rfl fun h => (nomatch h))
      · exact .refl s
  next => exact .refl s

/-- What follows a command after its arbitrations: a check, the port, the transmitters. -/
theorem State.settle_moves (s : State) : s.Moves s.settle :=
  (((((State.Moves.of_turns s.settleArb_turns).trans (State.grantRace_moves _)).trans (State.tryBeginCheck_moves _)).trans
    (State.portDecide_moves _)).trans (.of_calms (State.txChoose_calms _ _))).trans (.of_calms (State.txChoose_calms _ _))

/-! ### Focus and contexts (R30, R33, R35) -/

theorem State.changeFocus_calms {m : Side} (h : s.attached m = true) : s.Calms (s.changeFocus m) := by
  unfold State.changeFocus
  have hmark := (State.Calms.one (State.Calm.focus h)).trans
    (State.onAttachedLinks_calms Link.setFocusMark_turn Link.setFocusMark_service)
  dsimp only
  split
  · exact hmark.trans (.of_turns (State.setNarration_turns _ _))
  · exact hmark

/-- A change of a context that leaves its ranges, its language and its attachment as they are. -/
theorem State.onCtx_calms {m : Side} {f : Context → Context} (range : ∀ c : Context, c.InRange → (f c).InRange)
    (same : ∀ c : Context, (f c).language = c.language ∧ (f c).attached = c.attached) : s.Calms (s.onCtx m f) :=
  .one (.ctx (range _) (fun h => by rw [(same _).1]; exact h) (same _).2)

theorem State.noteInput_calms (s : State) (m : Side) : s.Calms (s.noteInput m) :=
  State.onCtx_calms (fun _ h => h) fun _ => ⟨rfl, rfl⟩

@[simp] theorem State.attached_noteInput (s : State) (m n : Side) : (s.noteInput m).attached n = s.attached n := by
  cases m <;> cases n <;> rfl

theorem State.setFeedback_calms (s : State) (p : Fin 32) : s.Calms (s.setFeedback p) := .of_turns (s.setFeedback_turns p)
theorem State.setNarration_calms (s : State) (l : List PhraseItem) : s.Calms (s.setNarration l) :=
  .of_turns (s.setNarration_turns l)

theorem State.swapPress_calms (s : State) (m : Side) : s.Calms (s.swapPress m) := by
  unfold State.swapPress
  dsimp only
  split
  next h =>
    refine (s.noteInput_calms m).trans (((State.noteInput_calms _ _).trans (State.changeFocus_calms ?_)).trans
      (State.setFeedback_calms _ _))
    simpa using h
  next => exact (s.noteInput_calms m).trans (State.setFeedback_calms _ _)

/-! ### Panel events (R173 to R177) -/

theorem detentResult_lt {c : Context} (h : c.index < c.programs.length) (up : Bool) :
    (detentResult c up).1 < c.programs.length := by
  unfold detentResult
  dsimp only
  split_ifs <;> dsimp only <;> omega

theorem State.knobStep_calms (s : State) (m : Side) (up : Bool) : s.Calms (s.knobStep m up) := by
  have h : s.Calms (s.onCtx m fun c => { c with index := (detentResult (s.context m) up).1 }) := by
    refine .one (.ctx (fun h => ?_) (fun h => h) rfl)
    obtain ⟨h1, h2, h3, h4, h5, h6, h7, h8, h9⟩ := h
    exact ⟨h1, h2, h3, h4, h5, h6, h7, detentResult_lt h8 up, h9⟩
  unfold State.knobStep
  dsimp only
  split
  · exact h.trans (State.setFeedback_calms _ _)
  · split
    · exact h.trans (State.setNarration_calms _ _)
    · exact h.trans (State.setFeedback_calms _ _)

theorem State.markProfile_calms (s : State) (m : Side) : s.Calms (s.markProfile m) :=
  State.onLink_calms (fun l => (Link.setProfileMark_turn l).trans (.of_eq rfl (le_refl _)))
    fun l => Link.setProfileMark_service l

/-- The levels of VOLUME PRESS and LONG stay in their ranges (R175). -/
theorem Context.InRange.volume {c : Context} (h : c.InRange) {v u : Nat} (hv : v ≤ 7) (h1 : 1 ≤ u) (h7 : u ≤ 7) :
    { c with volume := v, mutedFrom := u }.InRange := by
  obtain ⟨r1, r2, r3, r4, r5, r6, r7, r8, r9, -⟩ := h
  exact ⟨r1, r2, r3, r4, r5, r6, r7, r8, r9, hv, h1, h7⟩

theorem volumeStep_le {c : Context} (h : c.InRange) : volumeStep c ≤ 7 := by
  obtain ⟨-, -, -, -, -, -, -, -, -, hv, h1, h7⟩ := h
  unfold volumeStep
  split_ifs <;> omega

theorem Context.volumeLong_inRange {c : Context} (h : c.InRange) : c.volumeLong.InRange := by
  have ⟨_, _, _, _, _, _, _, _, _, hv, h1, h7⟩ := h
  unfold Context.volumeLong
  split
  next hpos => exact h.volume (v := 0) (u := c.volume) (by omega) hpos hv
  next => exact h.volume (v := c.mutedFrom) h7 h1 h7

theorem Context.volumeLong_same (c : Context) :
    c.volumeLong.language = c.language ∧ c.volumeLong.attached = c.attached := by
  unfold Context.volumeLong
  split <;> exact ⟨rfl, rfl⟩

theorem State.keyAction_calms (s : State) (m : Side) (k : Key) (a : KeyAction) : s.Calms (s.keyAction m k a) := by
  have after {f : Context → Context} (h : s.Calms (s.onCtx m f)) : s.Calms ((s.onCtx m f).markProfile m) :=
    h.trans (State.markProfile_calms _ m)
  unfold State.keyAction
  split
  next => exact s.swapPress_calms m
  next =>
    refine (after (State.onCtx_calms (f := fun c => { c with volume := volumeStep c }) (fun c h => ?_)
      fun _ => ⟨rfl, rfl⟩)).trans (State.setFeedback_calms _ _)
    have ⟨_, _, _, _, _, _, _, _, _, _, h1, h7⟩ := h
    exact h.volume (volumeStep_le h) h1 h7
  next =>
    exact (after (State.onCtx_calms (fun _ h => Context.volumeLong_inRange h) Context.volumeLong_same)).trans
      (State.setFeedback_calms _ _)
  next =>
    have h := after (State.onCtx_calms (f := fun c => { c with assist := !(s.context m).assist }) (fun _ h => h)
      fun _ => ⟨rfl, rfl⟩)
    dsimp only
    split
    · exact h.trans (State.setNarration_calms _ _)
    · exact h.trans (State.setFeedback_calms _ _)
  next =>
    refine (after (.one (.ctx (fun h => h) (fun h => ?_) rfl))).trans (State.setNarration_calms _ _)
    exact Nat.mod_lt _ (by omega)
  next => exact .refl s

theorem State.localAction_calms (s : State) (m : Side) (e : PanelEvent) : s.Calms (s.localAction m e) := by
  cases e with
  | detent up => exact s.knobStep_calms m up
  | key k a => exact s.keyAction_calms m k a
  | proximity => exact .refl s

theorem State.wakeBacklight_turns (s : State) : s.Turns s.wakeBacklight := State.around_turns rfl rfl s.wakeBacklight_frame

theorem State.panelInput_turns (s : State) : s.Turns s.panelInput := by
  unfold State.panelInput
  dsimp only
  split
  · exact s.wakeBacklight_turns.trans (State.around_turns rfl rfl (State.stopIdle_frame _))
  · exact s.wakeBacklight_turns.trans (State.around_turns rfl rfl (State.restartIdle_frame _))

theorem State.backlightEvent_turns (s : State) (e : PanelEvent) : s.Turns (s.backlightEvent e) := by
  cases e with
  | detent up => exact s.panelInput_turns
  | key k a => exact s.panelInput_turns
  | proximity =>
    simp only [State.backlightEvent, State.proximityInput]
    split
    · exact (s.setFeedback_turns _).trans (State.panelInput_turns _)
    · exact s.panelInput_turns

/-- A change of the Input Unit beside its settings, counts and lines. -/
theorem State.onPanel_calms {f : Panel → Panel} (h : s.panel.SettingsOk → (f s.panel).SettingsOk) : s.Calms (s.onPanel f) :=
  .one (.panel h)

theorem State.summarise_calms (s : State) (m : Side) (c : InputClass) : s.Calms (s.summarise m c) :=
  State.onPanel_calms fun h => h

theorem State.reportInput_calms (s : State) (m : Side) (c : InputClass) (r : InputContent) : s.Calms (s.reportInput m c r) := by
  unfold State.reportInput
  split
  · exact State.onLink_calms (fun l => l.addInput_turn _) fun l => l.addInput_service _
  · exact .refl s

theorem State.takeEvent_calms (s : State) (e : PanelEvent) : s.Calms (s.takeEvent e) := by
  unfold State.takeEvent
  split
  next => exact .of_turns (s.backlightEvent_turns e)
  next m _ =>
    dsimp only
    have h1 : s.Calms (if setsInputTime e then s.noteInput m else s) := by
      split
      · exact s.noteInput_calms m
      · exact .refl s
    exact (((h1.trans (State.localAction_calms _ m e)).trans (State.summarise_calms _ m _)).trans
      (State.reportInput_calms _ m _ _)).trans (.of_turns (State.backlightEvent_turns _ e))

theorem State.setLongTimer_calms (s : State) (k : Key) (t : Option Nat) : s.Calms (s.setLongTimer k t) :=
  State.onPanel_calms fun h => h

theorem State.keyChange_calms (s : State) (k : Key) (b : Bool) : s.Calms (s.keyChange k b) := by
  unfold State.keyChange
  split
  · exact (s.setLongTimer_calms k _).trans (State.takeEvent_calms _ _)
  · exact (s.setLongTimer_calms k _).trans (State.takeEvent_calms _ _)

theorem State.longPressExpiry_calms (s : State) (k : Key) : s.Calms (s.longPressExpiry k) := by
  unfold State.longPressExpiry
  split
  · exact (s.setLongTimer_calms k _).trans (State.takeEvent_calms _ _)
  · exact .refl s

/-! ### The input sample (R170 to R172) -/

theorem LineFilter.sample_run {f : LineFilter} {n : Nat} (hn : n ≤ 16) (h : f.run < 16) (b : Bool) : (f.sample n b).run < 16 := by
  unfold LineFilter.sample
  split_ifs <;> dsimp only <;> omega

theorem Panel.SettingsOk.sampleLines {p : Panel} (h : p.SettingsOk) (levels : BitVec 10) : (p.sampleLines levels).SettingsOk := by
  obtain ⟨h1, h2, h3, h4, h5, h6, h7⟩ := h
  refine ⟨h1, h2, h3, h4, h5, h6, fun i => ?_⟩
  simp only [Panel.sampleLines, Fin.getElem_fin, Vector.getElem_ofFn]
  refine LineFilter.sample_run ?_ (h7 i) _
  unfold Panel.filterN
  split <;> omega

theorem Panel.SettingsOk.encoderStep {p : Panel} (h : p.SettingsOk) (a b : Bool) : (p.encoderStep a b).1.SettingsOk := by
  obtain ⟨h1, h2, h3, h4, h5, h6, h7⟩ := h
  unfold Panel.encoderStep
  dsimp only
  split
  next =>
    refine ⟨h1, h2, h3, h4, h5, ?_, h7⟩
    dsimp only
    omega
  next hfull =>
    refine ⟨h1, h2, h3, h4, h5, ?_, h7⟩
    dsimp only
    omega

theorem Panel.SettingsOk.afterSample {p : Panel} (h : p.SettingsOk) (levels : BitVec 10) :
    (p.afterSample levels).1.SettingsOk := by
  unfold Panel.afterSample
  dsimp only
  split
  · exact (h.sampleLines levels).encoderStep _ _
  · exact h.sampleLines levels

theorem State.settleInput_moves (before : Panel) (s : State) : s.Moves (State.settleInput before s) := by
  unfold State.settleInput
  split
  · exact .of_calms ((s.txChoose_calms .w).trans (State.txChoose_calms _ .d))
  · exact s.settle_moves

theorem State.takeClass_moves (before : Panel) (detent : Option Bool) (s : State) (c : InputClass) :
    s.Moves (State.takeClass before detent s c) := by
  have taken {t : State} (h : s.Calms t) : s.Moves (State.settleInput before t) :=
    (State.Moves.of_calms h).trans (State.settleInput_moves before t)
  unfold State.takeClass
  split
  next =>
    split
    · exact taken (s.takeEvent_calms _)
    · exact .refl s
  next =>
    split
    · exact taken (s.takeEvent_calms _)
    · exact .refl s
  next =>
    split
    · exact .refl s
    · split
      · exact .refl s
      · exact taken (s.keyChange_calms _ _)

theorem State.takeClasses_moves (before : Panel) (detent : Option Bool) (l : List InputClass) (s : State) :
    s.Moves (l.foldl (State.takeClass before detent) s) := by
  induction l generalizing s with
  | nil => exact .refl s
  | cons c l ih => exact (State.takeClass_moves before detent s c).trans (ih _)

theorem State.inputSample_moves (s : State) (levels : BitVec 10) (order : List InputClass) :
    s.Moves (s.inputSample levels order) := by
  unfold State.inputSample
  split
  next =>
    dsimp only
    have h := (State.Moves.of_calms (State.onPanel_calms (s := s) (f := fun _ => (s.panel.afterSample levels).1)
      fun h => h.afterSample levels)).trans
        (State.takeClasses_moves s.panel (s.panel.afterSample levels).2 (eventOrder order) _)
    split
    · exact h.trans (State.settle_moves _)
    · exact h
  next =>
    refine .of_calms (State.onPanel_calms fun ⟨h1, h2, h3, h4, h5, h6, _⟩ => ⟨h1, h2, h3, h4, h5, h6, fun i => ?_⟩)
    simp [Panel.firstSample]

/-! ### The speaker stage (R152 to R156) -/

/-- The Mixer and Speaker Stage after an over-current trip (R153). -/
def Mixer.tripped (x : Mixer) (now : Nat) : Mixer :=
  { x with gates := none, stage := .tripped, trips := x.trips + 1, retryTimer := some (now + Config.retryTime) }

/-- A stage that trips with fewer than three trips keeps its laws. -/
theorem Mixer.tripped_ok {x : Mixer} (h1 : 1 ≤ x.deadTime) (h2 : x.deadTime ≤ 16) (h3 : x.trips ≤ 2) (now : Nat) :
    (x.tripped now).StageOk :=
  ⟨h1, h2, Nat.succ_le_succ h3, by simp [Mixer.tripped], by simp [Mixer.tripped], by simp [Mixer.tripped],
    fun _ h => (nomatch h)⟩

theorem State.trip_eq (s : State) :
    s.trip = (s.onMixer fun x => x.tripped s.now).onAttachedLinks Link.speakerFault := rfl

/-- A change of the stage beside its mix. -/
theorem State.onMixer_calms {f : Mixer → Mixer} (stage : s.mixer.StageOk → (f s.mixer).StageOk)
    (mixed : (f s.mixer).mixed = s.mixer.mixed) (duck : (f s.mixer).duck = s.mixer.duck) : s.Calms (s.onMixer f) :=
  .one (.mixer stage fun h => by unfold Mixer.MixOk; rw [mixed, duck]; exact h)

/-- A change of the stage that ends with a trip. -/
theorem State.trip_calms {f : Mixer → Mixer} (stage : s.mixer.StageOk → 1 ≤ (f s.mixer).deadTime ∧ (f s.mixer).deadTime ≤ 16 ∧
    (f s.mixer).trips ≤ 2) (mixed : (f s.mixer).mixed = s.mixer.mixed) (duck : (f s.mixer).duck = s.mixer.duck) :
    s.Calms (s.onMixer f).trip := by
  refine State.Calms.trans (t := s.onMixer fun x => (f x).tripped s.now) (State.onMixer_calms (fun h => ?_) mixed duck)
    (State.onAttachedLinks_calms Link.speakerFault_turn Link.speakerFault_service)
  obtain ⟨h1, h2, h3⟩ := stage h
  exact Mixer.tripped_ok h1 h2 h3 _

/-- A change of the stage with which it goes to DRIVING, the enable on, and trips if the sense input is active. -/
theorem State.enterDriving_calms {f : Mixer → Mixer} (stage : s.mixer.StageOk → 1 ≤ (f s.mixer).deadTime ∧
    (f s.mixer).deadTime ≤ 16 ∧ (f s.mixer).trips ≤ 2 ∧ (f s.mixer).enable = true ∧ (f s.mixer).retryTimer = none ∧
    (f s.mixer).gates = none) (mixed : (f s.mixer).mixed = s.mixer.mixed) (duck : (f s.mixer).duck = s.mixer.duck) :
    s.Calms (s.onMixer f).enterDriving := by
  unfold State.enterDriving
  dsimp only
  split
  next =>
    exact State.trip_calms (f := fun x => { f x with stage := .driving })
      (fun h => let ⟨h1, h2, h3, _⟩ := stage h; ⟨h1, h2, h3⟩) mixed duck
  next hs =>
    refine State.onMixer_calms (f := fun x => { f x with stage := .driving }) (fun h => ?_) mixed duck
    obtain ⟨h1, h2, h3, h4, h5, h6⟩ := stage h
    refine ⟨h1, h2, h3.trans (by omega), fun _ => h3, by simp [h5], fun _ => ⟨h4, ?_⟩, fun g hg => ?_⟩
    · simpa using hs
    · simp [h6] at hg

/-- A change of the stage with which it goes to DISABLED. -/
theorem State.disable_calms {f : Mixer → Mixer} (stage : s.mixer.StageOk → 1 ≤ (f s.mixer).deadTime ∧
    (f s.mixer).deadTime ≤ 16 ∧ (f s.mixer).trips ≤ 2 ∧ (f s.mixer).retryTimer = none)
    (mixed : (f s.mixer).mixed = s.mixer.mixed) (duck : (f s.mixer).duck = s.mixer.duck) : s.Calms (s.onMixer f).disable := by
  refine State.onMixer_calms (f := fun x => { f x with stage := .disabled, gates := none }) (fun h => ?_) mixed duck
  obtain ⟨h1, h2, h3, h4⟩ := stage h
  exact ⟨h1, h2, h3.trans (by omega), fun _ => h3, by simp [h4], by simp, fun _ h => (nomatch h)⟩

theorem State.resume_calms {f : Mixer → Mixer} (stage : s.mixer.StageOk → 1 ≤ (f s.mixer).deadTime ∧
    (f s.mixer).deadTime ≤ 16 ∧ (f s.mixer).trips ≤ 2 ∧ (f s.mixer).retryTimer = none ∧ (f s.mixer).gates = none)
    (mixed : (f s.mixer).mixed = s.mixer.mixed) (duck : (f s.mixer).duck = s.mixer.duck) : s.Calms (s.onMixer f).resume := by
  unfold State.resume
  split
  next h =>
    exact State.enterDriving_calms (fun k => let ⟨h1, h2, h3, h4, h5⟩ := stage k; ⟨h1, h2, h3, h, h4, h5⟩) mixed duck
  next => exact State.disable_calms (fun k => let ⟨h1, h2, h3, h4, _⟩ := stage k; ⟨h1, h2, h3, h4⟩) mixed duck

/-- The retry timer runs in TRIPPED alone, and the gates are driven in DRIVING alone. -/
theorem Mixer.StageOk.quiet {x : Mixer} (h : x.StageOk) :
    (x.stage ≠ .tripped → x.retryTimer = none) ∧ (x.stage ≠ .driving → x.gates = none) := by
  obtain ⟨-, -, -, -, h5, -, h7⟩ := h
  refine ⟨fun e => ?_, fun e => ?_⟩
  · by_contra hne
    exact e (h5.1 (Option.isSome_iff_ne_none.2 hne))
  · by_contra hne
    obtain ⟨g, hg⟩ := Option.ne_none_iff_exists'.1 hne
    exact e (h7 g hg).1

theorem State.senseLevel_calms (s : State) (a : Bool) : s.Calms (s.senseLevel a) := by
  unfold State.senseLevel
  dsimp only
  split
  next h =>
    refine State.trip_calms (fun k => ?_) rfl rfl
    obtain ⟨h1, h2, -, h4, -⟩ := k
    exact ⟨h1, h2, h4 (.inl h.2)⟩
  next h =>
    refine State.onMixer_calms (fun ⟨h1, h2, h3, h4, h5, h6, h7⟩ => ⟨h1, h2, h3, h4, h5, fun hd => ⟨(h6 hd).1, ?_⟩, h7⟩) rfl rfl
    exact Bool.eq_false_iff.2 fun ha => h ⟨ha, hd⟩

theorem State.retryExpiry_calms (s : State) : s.Calms s.retryExpiry := by
  unfold State.retryExpiry
  split
  next ht =>
    dsimp only
    split
    next h3 =>
      refine State.onMixer_calms (f := fun x => { x with retryTimer := none, stage := .locked }) (fun k => ?_) rfl rfl
      have hg := k.quiet.2 (by simp [ht])
      obtain ⟨h1, h2, h3, -⟩ := k
      exact ⟨h1, h2, h3, by simp, by simp, by simp, fun g e => by simp [hg] at e⟩
    next h3 =>
      refine State.resume_calms (fun k => ?_) rfl rfl
      have hg := k.quiet.2 (by simp [ht])
      obtain ⟨h1, h2, -⟩ := k
      exact ⟨h1, h2, Nat.not_lt.1 h3, rfl, hg⟩
  next => exact .refl s

theorem State.speakerSetup_calms (s : State) (e : Bool) (dt : Nat) (h1 : 1 ≤ dt) (h16 : dt ≤ 16) :
    s.Calms (s.speakerSetup e dt) := by
  have keeps (hst : s.mixer.stage = .driving → e = true) : s.Calms (s.onMixer fun x => { x with enable := e, deadTime := dt }) :=
    State.onMixer_calms (fun ⟨_, _, h3, h4, h5, h6, h7⟩ =>
      ⟨h1, h16, h3, h4, h5, fun hd => ⟨hst hd, (h6 hd).2⟩, h7⟩) rfl rfl
  unfold State.speakerSetup
  dsimp only
  split
  next hst =>
    have hst : s.mixer.stage = .disabled := hst
    split
    next he =>
      refine State.enterDriving_calms (fun k => ?_) rfl rfl
      have ⟨hr, hg⟩ := k.quiet
      obtain ⟨-, -, -, h4, -⟩ := k
      exact ⟨h1, h16, h4 (.inr hst), he, hr (by simp [hst]), hg (by simp [hst])⟩
    next => exact keeps (by simp [hst])
  next hst =>
    have hst : s.mixer.stage = .driving := hst
    split
    next he => exact keeps fun _ => he
    next =>
      refine State.disable_calms (fun k => ?_) rfl rfl
      have hr := k.quiet.1 (by simp [hst])
      obtain ⟨-, -, -, h4, -⟩ := k
      exact ⟨h1, h16, h4 (.inl hst), hr⟩
  next hst => exact keeps fun h => by simp [show s.mixer.stage = .tripped from hst] at h
  next hst => exact keeps fun h => by simp [show s.mixer.stage = .locked from hst] at h

theorem State.speakerReset_calms (s : State) : s.Calms s.speakerReset := by
  have keeps : s.Calms (s.onMixer fun x => { x with trips := 0 }) :=
    State.onMixer_calms (fun ⟨h1, h2, _, _, h5, h6, h7⟩ => ⟨h1, h2, by simp, fun _ => by simp, h5, h6, h7⟩) rfl rfl
  unfold State.speakerReset
  dsimp only
  split
  next hst =>
    have hst : s.mixer.stage = .tripped := hst
    refine State.resume_calms (f := fun x => { x with trips := 0, retryTimer := none }) (fun k => ?_) rfl rfl
    have hg := k.quiet.2 (by simp [hst])
    obtain ⟨h1, h2, -⟩ := k
    exact ⟨h1, h2, by simp, rfl, hg⟩
  next hst =>
    have hst : s.mixer.stage = .locked := hst
    refine State.resume_calms (fun k => ?_) rfl rfl
    have ⟨hr, hg⟩ := k.quiet
    obtain ⟨h1, h2, -⟩ := k
    exact ⟨h1, h2, by simp, hr (by simp [hst]), hg (by simp [hst])⟩
  next => exact keeps
  next => exact keeps

end Sys2Proof.Machine
end

section
/-! SUPPORT. The requests and the commands as runs of moves, and what a law needs to hold through every step: `step_keeps`. -/

namespace Sys2Proof.Machine

variable {s t : State}

/-! ### Context requests (R24 to R27) -/

theorem parseContext_inRange {p : List Byte} {r : ContextReq} (h : parseContext p = some r) :
    r.remaining ≤ 999 ∧ r.speed ≤ 1600 ∧ -20 ≤ r.temperature ∧ r.temperature ≤ 95 := by
  unfold parseContext at h
  split at h
  next =>
    obtain ⟨ph, -, rfl⟩ := Option.map_eq_some_iff.1 h
    simp only [saturate]
    omega
  next => cases h

theorem Context.writeFacts_inRange {c : Context} (h : c.InRange) {p : List Byte} {r : ContextReq}
    (hr : parseContext p = some r) : (c.writeFacts r).InRange := by
  obtain ⟨-, -, -, -, h5, h6, h7, h8, h9⟩ := h
  obtain ⟨r1, r2, r3, r4⟩ := parseContext_inRange hr
  refine ⟨r1, r2, r3, r4, h5, h6, h7, ?_, h9⟩
  simp only [Context.writeFacts]
  omega

theorem phraseCodes_le (l : List Byte) : ∀ x ∈ phraseCodes l, x ≤ 1023 := by
  induction l using phraseCodes.induct with
  | case1 hi lo rest ih =>
    intro x hx
    rw [phraseCodes, List.mem_cons] at hx
    rcases hx with rfl | hx
    · exact Nat.min_le_right _ _
    · exact ih x hx
  | case2 l h =>
    intro x hx
    rw [phraseCodes] at hx
    · simp at hx
    · exact h

theorem phraseCodes_length (l : List Byte) : (phraseCodes l).length = l.length / 2 := by
  induction l using phraseCodes.induct with
  | case1 hi lo rest ih =>
    rw [phraseCodes, List.length_cons, ih]
    simp only [List.length_cons]
    omega
  | case2 l h =>
    rw [phraseCodes]
    · match l, h with
      | [], _ => rfl
      | [_], _ => simp
      | a :: b :: rest, h => exact absurd rfl (h a b rest)
    · exact h

/-- The codes of an accepted PROGRAMS are as many as its count says. -/
theorem parsePrograms_codes {p : List Byte} {r : ProgramsReq} (h : parsePrograms p = some r) (hl : lenAllowed .programs p = true) :
    1 ≤ r.codes.length ∧ r.codes.length ≤ 24 ∧ ∀ x ∈ r.codes, x ≤ 1023 := by
  unfold parsePrograms at h
  split at h
  next c w i rest =>
    have hcodes (h0 : ¬(c.toNat = 0 ∨ 24 < c.toNat)) :
        1 ≤ ((phraseCodes rest).take c.toNat).length ∧ ((phraseCodes rest).take c.toNat).length ≤ 24 ∧
          ∀ x ∈ (phraseCodes rest).take c.toNat, x ≤ 1023 := by
      simp only [lenAllowed, List.length_cons, decide_eq_true_eq] at hl
      rw [List.length_take, phraseCodes_length]
      exact ⟨by omega, by omega, fun x hx => phraseCodes_le rest x (List.mem_of_mem_take hx)⟩
    split at h
    next => cases h
    next h0 =>
      split at h
      next => cases h
      next =>
        split at h
        next =>
          cases h
          exact hcodes h0
        next =>
          obtain ⟨k, -, rfl⟩ := Option.map_eq_some_iff.1 h
          exact hcodes h0
  next => cases h

theorem Context.writePrograms_inRange {c : Context} (h : c.InRange) {r : ProgramsReq}
    (hr : 1 ≤ r.codes.length ∧ r.codes.length ≤ 24 ∧ ∀ x ∈ r.codes, x ≤ 1023) : (c.writePrograms r).InRange := by
  obtain ⟨h1, h2, h3, h4, -, -, -, h8, h9⟩ := h
  refine ⟨h1, h2, h3, h4, hr.1, hr.2.1, hr.2.2, ?_, h9⟩
  simp only [Context.writePrograms]
  split_ifs <;> omega

theorem Context.writeBand_inRange {c : Context} (h : c.InRange) {p : List Byte} {r : BandReq} (hr : parseBandText p = some r) :
    (c.writeBand r).InRange := by
  obtain ⟨h1, h2, h3, h4, h5, h6, h7, h8, -, h10⟩ := h
  refine ⟨h1, h2, h3, h4, h5, h6, h7, h8, ?_, h10⟩
  unfold parseBandText at hr
  split at hr
  · cases hr
    simp [Context.writeBand]
  · cases hr

theorem Context.writeProfile_inRange {c : Context} (h : c.InRange) {p : List Byte} {r : ProfileReq} (hr : parseProfile p = some r)
    (n : Nat) : (c.writeProfile r n).InRange := by
  obtain ⟨h1, h2, h3, h4, h5, h6, h7, h8, h9, -, h11⟩ := h
  refine ⟨h1, h2, h3, h4, h5, h6, h7, h8, h9, ?_, h11⟩
  unfold parseProfile at hr
  split at hr
  · split at hr
    · cases hr
    · obtain ⟨a, -, rfl⟩ := Option.map_eq_some_iff.1 hr
      simp only [Context.writeProfile]
      omega
  · cases hr

theorem Link.retakeProfile_turn (l : Link) (c : Context) (now : Nat) : l.Turn (l.retakeProfile c now) := by
  unfold Link.retakeProfile
  split
  next =>
    split
    · exact ⟨fun h => h, List.Sublist.refl _, le_refl _, fun f h => by simp [Context.profileFrame] at h⟩
    · exact .of_eq rfl (le_refl _)
  next => exact .of_eq rfl (le_refl _)

theorem Link.retakeProfile_service (l : Link) (c : Context) (now : Nat) :
    (l.retakeProfile c now).inService = l.inService ∧ (l.retakeProfile c now).reply = l.reply := by
  unfold Link.retakeProfile
  repeat' split
  all_goals exact ⟨rfl, rfl⟩

theorem State.takeProfile_calms (s : State) (m : Side) {p : List Byte} {r : ProfileReq} (hr : parseProfile p = some r) :
    s.Calms (s.takeProfile m r) := by
  refine State.Calms.trans (.one (.ctx (fun h => Context.writeProfile_inRange h hr _) (fun h => ?_) rfl))
    (State.onLink_calms (fun l => l.retakeProfile_turn _ _) fun l => l.retakeProfile_service _ _)
  simp only [Context.writeProfile]
  omega

/-! ### ATTACH (R18) -/

/-- The purge does not look at the focus. -/
theorem State.purgeCue_focus (s : State) (m n : Side) (i : Fin 24) :
    { s with focus := some n }.purgeCue m i = { s.purgeCue m i with focus := some n } := by
  unfold State.purgeCue
  dsimp only
  split
  next => rfl
  next c hc =>
    split
    next =>
      have gone : ({ s with focus := some n }.setCue (.slot i) none).endReservations (.slot i) =
          { (s.setCue (.slot i) none).endReservations (.slot i) with focus := some n } := by
        unfold State.endReservations
        have : ({ s with focus := some n }.setCue (.slot i) none).reservesFree (.slot i) =
            (s.setCue (.slot i) none).reservesFree (.slot i) := rfl
        rw [this]
        split <;> rfl
      have ends : { s with focus := some n }.enterEnding (.slot i) .purged =
          { s.enterEnding (.slot i) .purged with focus := some n } := by
        have left (t : State) : { t with focus := some n }.leftPlaying = { t.leftPlaying with focus := some n } := by
          unfold State.leftPlaying
          have : { t with focus := some n }.anyPlaying = t.anyPlaying := rfl
          rw [this]
          split <;> rfl
        exact congrArg State.chooseRing (left (s.modCue (.slot i) fun c => c.toEnding .purged s.now))
      split
      next => exact gone
      next => exact gone
      next => exact gone
      next => exact gone
      next => exact ends
      next => rfl
    next => rfl

theorem State.purge_focus (s : State) (m n : Side) :
    { s with focus := some n }.purge m = { s.purge m with focus := some n } := by
  have h (l : List (Fin 24)) (t : State) : l.foldl (fun u i => u.purgeCue m i) { t with focus := some n } =
      { l.foldl (fun u i => u.purgeCue m i) t with focus := some n } := by
    induction l generalizing t with
    | nil => rfl
    | cons i l ih => rw [List.foldl_cons, State.purgeCue_focus, ih, List.foldl_cons]
  unfold State.purge
  rw [h]
  generalize List.foldl _ s _ = u
  rfl

/-- The link and the context of a machine at its ATTACH, before the purge (R18). -/
def State.attachBase (s : State) (m : Side) : State := (s.onLink m Link.attach).onCtx m fun _ => attachedContext

/-- The blocks an ATTACH clears after the purge. -/
def State.attachRest (s : State) (m : Side) : State :=
  ((s.onTone fun t => t.undefineOf m).blankSlots m).onPanel fun p => p.attach m

theorem State.attachRest_outside (s : State) (m : Side) :
    (s.attachRest m).focus = s.focus ∧ (s.attachRest m).ctx = s.ctx := by
  simp [State.attachRest, State.blankSlots]

/-- With nobody holding focus the FOCUS marks follow; a machine without assist mode sets no narration (R32, R35). -/
theorem State.attachRest_focus (s : State) (m : Side) (h : (s.context m).assist = false) :
    (s.attachRest m).attachFocus m =
      if s.focus = none then ({ s with focus := some (s.focus.getD m) }.attachRest m).onAttachedLinks Link.setFocusMark
      else { s with focus := some (s.focus.getD m) }.attachRest m := by
  have put (n : Side) : { s with focus := some n }.attachRest m = { s.attachRest m with focus := some n } := by
    simp only [State.attachRest, State.blankSlots, State.onTone, State.onDisplay, State.onPanel]
  obtain ⟨h1, h2⟩ := s.attachRest_outside m
  unfold State.attachFocus
  rw [h1, put]
  have hassist : ((s.attachRest m).ctx.get m).assist = false := by rw [h2]; exact h
  generalize s.attachRest m = t at *
  cases hf : s.focus with
  | none =>
    rw [if_pos rfl]
    simp only [State.changeFocus]
    rw [if_neg (by simpa [State.context, State.onAttachedLinks] using hassist)]
    rfl
  | some n =>
    have e : t.focus = some n := h1.trans hf
    rw [if_neg (by simp), Option.getD_some, ← e]
    simp only [e]
    exact congrArg (fun x => { t with focus := x }) e

theorem State.attachEffects_eq (s : State) (m : Side) : s.attachEffects m =
    if s.focus = none then ((((s.onLink m Link.attach).attachAt m).purge m).attachRest m).onAttachedLinks Link.setFocusMark
    else (((s.onLink m Link.attach).attachAt m).purge m).attachRest m := by
  have hframe := (s.attachBase m).purge_frame m
  have hpurge : ((s.onLink m Link.attach).attachAt m).purge m =
      { (s.attachBase m).purge m with focus := some (s.focus.getD m) } := (s.attachBase m).purge_focus m _
  have heq : s.attachEffects m = (((s.attachBase m).purge m).attachRest m).attachFocus m := by
    simp only [State.attachEffects, State.attachBase, State.attachRest]
  rw [heq, hpurge]
  have hfocus : ((s.attachBase m).purge m).focus = s.focus := hframe.focus
  have hassist : (((s.attachBase m).purge m).context m).assist = false := by
    rw [hframe.context]
    simp only [State.attachBase, State.context_onCtx_same]
    rfl
  rw [State.attachRest_focus _ m hassist, hfocus]

theorem Link.attach_turn (l : Link) : l.Turn l.attach :=
  ⟨fun ⟨h1, _, h3⟩ => ⟨h1, by simp [Link.attach, Link.clearMarks, Link.clearFault], h3⟩, List.nil_sublist _, le_refl _,
    fun _ h => .inl h⟩

theorem State.attachRest_calms (s : State) (m : Side) : s.Calms (s.attachRest m) := by
  refine State.Calms.trans (.one (.tone s fun t => t.undefineOf m)) (State.Calms.trans (.one (.display fun h => ?_))
    (.one (.panel fun h => h)))
  obtain ⟨h1, h2, h3⟩ := h
  refine ⟨fun n => ?_, h2, h3⟩
  dsimp only
  rw [PerSide.get_set]
  split
  · exact ⟨by decide, by decide⟩
  · exact h1 n

theorem State.attachEffects_calms (s : State) (m : Side) : s.Calms (s.attachEffects m) := by
  have hlink : s.Calms (s.onLink m Link.attach) := State.onLink_calms Link.attach_turn fun _ => ⟨rfl, rfl⟩
  have hpurge : s.Calms (((s.onLink m Link.attach).attachAt m).purge m) := by
    refine (hlink.trans (.one (.attach _ m))).trans (.of_turns (State.purge_turns _ m ?_))
    show ((s.links.modify m Link.attach).get m).done = []
    rw [PerSide.get_modify_same]
    rfl
  have hrest := hpurge.trans (State.attachRest_calms _ m)
  rw [State.attachEffects_eq]
  split
  · exact hrest.trans (State.onAttachedLinks_calms Link.setFocusMark_turn Link.setFocusMark_service)
  · exact hrest

/-! ### The other owners -/

theorem State.freeSlot_none {s : State} {i : Fin 24} (h : s.freeSlot = some i) : s.sched.table[i] = none := by
  have := List.find?_some h
  simpa using this

theorem State.cuePost_calms (s : State) (m : Side) (r : CuePostReq) : s.Calms (s.cuePost m r).2 := by
  unfold State.cuePost
  split
  · exact .refl s
  · split
    · exact .refl s
    · split
      next => exact .refl s
      next hfew =>
        split
        next => exact .refl s
        next i hi =>
          split
          next => exact .refl s
          next scene _ =>
            split
            next => exact .refl s
            next tone _ =>
              have post := State.Calms.one (State.Calm.post (m := m) (c := postedCue s m r tone scene) (State.freeSlot_none hi)
                (Nat.not_le.1 hfew) rfl rfl (by unfold postedCue; dsimp only; split <;> simp))
              unfold State.acceptCue
              dsimp only
              split
              · exact post.trans (.of_turns (State.setArb_turns _))
              · exact post

theorem parseLampSet_le {p : List Byte} {r : Nat × Nat × Nat × Nat} (h : parseLampSet p = some r) :
    r.1 ≤ 63 ∧ r.2.1 ≤ 63 ∧ r.2.2.1 ≤ 63 ∧ r.2.2.2 ≤ 63 := by
  unfold parseLampSet at h
  split at h
  · cases h
    dsimp only
    omega
  · cases h

theorem parseInputFilter_range {p : List Byte} {r : Nat × Nat × Nat} (h : parseInputFilter p = some r) :
    2 ≤ r.1 ∧ r.1 ≤ 16 ∧ 1 ≤ r.2.1 ∧ r.2.1 ≤ 4 ∧ (r.2.2 = 2 ∨ r.2.2 = 4) := by
  unfold parseInputFilter at h
  split at h
  · split at h
    next hd =>
      cases h
      simp only [clamp]
      omega
    next => cases h
  · cases h

theorem parseSpeakerSetup_range {p : List Byte} {r : Bool × Nat} (h : parseSpeakerSetup p = some r) : 1 ≤ r.2 ∧ r.2 ≤ 16 := by
  unfold parseSpeakerSetup at h
  split at h
  · obtain ⟨e, -, rfl⟩ := Option.map_eq_some_iff.1 h
    simp only [clamp]
    omega
  · cases h

/-- A change of the Display Unit beside its levels. -/
theorem State.onDisplay_calms {f : Display → Display} (h : s.display.LevelsOk → (f s.display).LevelsOk) :
    s.Calms (s.onDisplay f) := .one (.display h)

theorem State.toneDefine_calms (s : State) (m : Side) (n : Nat) (x : Pattern) : s.Calms (s.toneDefine m n x).2 := by
  unfold State.toneDefine
  repeat' split
  all_goals first
    | exact .refl s
    | exact State.Calms.one (State.Calm.tone s fun t => { t with patterns := t.patterns.set n (some x) })

theorem State.onSlot_calms (s : State) (i : Fin 16) (f : SceneSlot → SceneSlot) : s.Calms (s.onSlot i f) :=
  State.onDisplay_calms fun h => h

theorem State.sceneWrite_calms (s : State) (m : Side) (b : Byte) (c : Fin 4) (d : List Byte) : s.Calms (s.sceneWrite m b c d).2 := by
  unfold State.sceneWrite
  split
  · exact .refl s
  next k _ => exact s.onSlot_calms (sceneSlot m k) fun x => x.writeChunk c d

theorem State.inputForce_calms (s : State) (m : Side) (e : PanelEvent) : s.Calms (s.inputForce m e).2 := by
  unfold State.inputForce
  split
  · exact s.takeEvent_calms e
  · exact .refl s

theorem State.focusClaim_calms (s : State) (m : Side) (h : s.attached m = true) : s.Calms (s.focusClaim m).2 := by
  unfold State.focusClaim
  split
  · exact State.changeFocus_calms h
  · split
    · exact .refl s
    · split
      · exact State.changeFocus_calms h
      · exact .refl s

/-- A verdict from parsed fields is a run of calm moves if it is one for every fields the parser can give. -/
theorem withFields_calms {α : Type} {x : Option α} {f : α → Verdict × State} (h : ∀ a, x = some a → s.Calms (f a).2) :
    s.Calms (withFields s x f).2 := by
  cases x with
  | none => exact .refl s
  | some a => exact h a rfl

/-- Every owner but the Store Interface works in calm moves (R8). -/
theorem State.handle_calms (s : State) (m : Side) (k : RequestKind) (p : List Byte) (hk : k ≠ .sceneFromStore)
    (hk' : k ≠ .storeCheck) (hl : lenAllowed k p = true) (ha : k = .focusClaim → s.attached m = true) :
    s.Calms (s.handle m k p).2 := by
  cases k with
  | sceneFromStore => exact absurd rfl hk
  | storeCheck => exact absurd rfl hk'
  | attach =>
    have := s.attachEffects_calms m
    simpa only [State.handle] using this
  | status => exact .refl s
  | context =>
    refine withFields_calms (f := fun r => (.done [], s.onCtx m fun c => c.writeFacts r)) fun r hr => ?_
    exact State.onCtx_calms (fun c h => Context.writeFacts_inRange h hr) fun _ => ⟨rfl, rfl⟩
  | programs =>
    refine withFields_calms (f := fun r => (.done [], s.onCtx m fun c => c.writePrograms r)) fun r hr => ?_
    exact State.onCtx_calms (fun c h => Context.writePrograms_inRange h (parsePrograms_codes hr hl)) fun _ => ⟨rfl, rfl⟩
  | bandText =>
    refine withFields_calms (f := fun r => (.done [], s.onCtx m fun c => c.writeBand r)) fun r hr => ?_
    exact State.onCtx_calms (fun c h => Context.writeBand_inRange h hr) fun _ => ⟨rfl, rfl⟩
  | profile => exact withFields_calms (f := fun r => (.done [], s.takeProfile m r)) fun r hr => s.takeProfile_calms m hr
  | focusClaim => exact s.focusClaim_calms m (ha rfl)
  | cuePost => exact withFields_calms (f := s.cuePost m) fun r _ => s.cuePost_calms m r
  | cueCancel => exact withFields_calms (f := s.cueCancel m) fun mode _ => .of_turns (s.cueCancel_turns m mode)
  | cueQuery => exact withFields_calms (f := fun id => (s.cueQuery m id, s)) fun _ _ => .refl s
  | fence => exact .of_turns (s.fence_turns m)
  | toneDefine => exact withFields_calms (x := parseToneDefine p) (f := fun r => s.toneDefine m r.1 r.2) fun r _ => s.toneDefine_calms m _ _
  | sceneWrite =>
    exact withFields_calms (x := parseSceneWrite p) (f := fun r => s.sceneWrite m r.1 r.2.1 r.2.2) fun r _ => s.sceneWrite_calms m _ _ _
  | lampSet =>
    refine withFields_calms (x := parseLampSet p) (f := fun r => (.done [], s.lampSet m r.1 r.2.1 r.2.2.1 r.2.2.2)) fun r hr => ?_
    obtain ⟨r1, r2, r3, r4⟩ := parseLampSet_le hr
    refine s.onDisplay_calms (f := fun d => { d with
      ringLevels := d.ringLevels.set m { bright := r.1, background := r.2.1 }, backlightLevel := r.2.2.1,
      generalLevel := r.2.2.2 }) fun h => ⟨fun n => ?_, r3, r4⟩
    dsimp only
    rw [PerSide.get_set]
    split
    · exact ⟨r1, r2⟩
    · exact h.1 n
  | inputMask =>
    exact withFields_calms (f := fun set => (.done [], s.onPanel fun x => { x with mask := x.mask.set m set }))
      fun r _ => s.onPanel_calms (f := fun x => { x with mask := x.mask.set m r }) fun h => h
  | inputForce => exact withFields_calms (f := s.inputForce m) fun e _ => s.inputForce_calms m e
  | inputFilter =>
    refine withFields_calms (x := parseInputFilter p) (f := fun r => (.done [], s.inputFilter r.1 r.2.1 r.2.2)) fun r hr => ?_
    obtain ⟨r1, r2, r3, r4, r5⟩ := parseInputFilter_range hr
    exact s.onPanel_calms (f := fun x => { x with keyN := r.1, encoderN := r.2.1, edgesPerDetent := r.2.2, edgeCount := 0 })
      fun ⟨_, _, _, _, _, _, h7⟩ => ⟨r1, r2, r3, r4, r5, by dsimp only; omega, h7⟩
  | speakerSetup =>
    exact withFields_calms (x := parseSpeakerSetup p) (f := fun r => (.done [], s.speakerSetup r.1 r.2)) fun r hr =>
      s.speakerSetup_calms _ _ (parseSpeakerSetup_range hr).1 (parseSpeakerSetup_range hr).2
  | speakerReset => exact s.speakerReset_calms

/-! ### Dispatch (R6 to R10) -/

/-- A link's request in service and reply change. -/
theorem State.serviceSlots_moves (s : State) (m : Side) (x : Link → Option InService) (y : Link → Option Reply) :
    s.Moves (s.onLink m fun l => { l with inService := x l, reply := y l }) :=
  .one (.link (.of_eq rfl (le_refl _)))

theorem State.formReply_moves (s : State) (m : Side) (e : BitVec 7) (b : ReplyBody) (n : Bool) : s.Moves (s.formReply m e b n) :=
  s.serviceSlots_moves m (fun l => l.inService) _

theorem State.takeStoreCheck_moves (s : State) (m : Side) : s.Moves (s.takeStoreCheck m) := by
  have wait (f : Store → Store) (h : f s.store = { s.store with
      check := (f s.store).check, currentWaiters := (f s.store).currentWaiters, nextWaiters := (f s.store).nextWaiters,
      askedAt := (f s.store).askedAt }) : s.Moves (s.onStore f) :=
    .one (.store (by rw [h]) (by rw [h]) fun e => .inl (by rw [h] at e; exact e))
  unfold State.takeStoreCheck
  split
  next =>
    exact (wait (fun st => { st with
      currentWaiters := (PerSide.both false).set m true, askedAt := some s.now, check := .pending }) rfl).trans
        (.of_turns (State.endPathReservation_turns _))
  next => exact wait _ rfl
  next =>
    refine wait _ ?_
    dsimp only
    split <;> rfl

theorem State.startTransfer_moves (s : State) (m : Side) (k : Fin 8) (a : Nat) : s.Moves (s.startTransfer m k a) :=
  (State.Moves.one (.store rfl rfl .inl)).trans (.of_calms (State.onSlot_calms _ _ _))

theorem State.sceneFromStore_moves (s : State) (m : Side) (b : Byte) (n : Nat) : s.Moves (s.sceneFromStore m b n).2 := by
  unfold State.sceneFromStore
  repeat' split
  all_goals first
    | exact .refl s
    | exact s.startTransfer_moves m _ _

theorem State.handle_moves (s : State) (m : Side) (k : RequestKind) (p : List Byte) (hl : lenAllowed k p = true)
    (ha : k = .focusClaim → s.attached m = true) : s.Moves (s.handle m k p).2 := by
  by_cases h1 : k = .sceneFromStore
  · subst h1
    simp only [State.handle, withFields]
    split
    · exact s.sceneFromStore_moves m _ _
    · exact .refl s
  · by_cases h2 : k = .storeCheck
    · subst h2
      exact s.takeStoreCheck_moves m
    · exact .of_calms (s.handle_calms m k p h1 h2 hl ha)

theorem State.clearStatus_calms (s : State) (m : Side) : s.Calms (s.clearStatus m) :=
  (State.onLink_calms (f := Link.clearFault) (fun _ => .of_eq rfl (le_refl _)) fun _ => ⟨rfl, rfl⟩).trans
    (State.onPanel_calms fun h => h)

theorem State.serveRequest_moves (s : State) (m : Side) (k : RequestKind) (note : Bool) (p : List Byte)
    (hl : lenAllowed k p = true) (ha : k = .focusClaim → s.attached m = true) : s.Moves (s.serveRequest m k note p) := by
  have h := (s.handle_moves m k p hl ha).trans (.of_turns (State.settleArb_turns _))
  unfold State.serveRequest
  dsimp only
  split
  · exact h.trans (State.serviceSlots_moves _ m _ fun l => l.reply)
  · exact h.trans (State.formReply_moves _ _ _ _ _)
  · split
    · exact (h.trans (State.formReply_moves _ _ _ _ _)).trans (.of_calms (State.clearStatus_calms _ m))
    · exact h.trans (State.formReply_moves _ _ _ _ _)

/-- A request that passes checks 3 to 5 of R7 has an allowed length, and only STATUS and ATTACH come from an unattached machine. -/
theorem State.of_linkRefusal_none {m : Side} {k : RequestKind} {p : List Byte} (h : s.linkRefusal m k p = none) :
    lenAllowed k p = true ∧ (alwaysTaken k = false → s.partState = .ready ∧ s.attached m = true) := by
  unfold State.linkRefusal at h
  split at h
  · cases h
  next h1 =>
    split at h
    · cases h
    next h2 =>
      split at h
      · cases h
      next h3 =>
        refine ⟨by simpa using h3, fun ha => ⟨?_, by simpa [ha] using h2⟩⟩
        cases hp : s.partState with
        | ready => rfl
        | starting => exact absurd ⟨hp, ha⟩ h1

theorem State.dispatchEntry_moves (s : State) (m : Side) (e : QueueEntry) : s.Moves (s.dispatchEntry m e) := by
  unfold State.dispatchEntry
  split
  next => exact s.formReply_moves _ _ _ _
  next =>
    split
    next => exact s.formReply_moves _ _ _ _
    next k _ =>
      unfold State.dispatchRequest
      split
      next => exact s.formReply_moves _ _ _ _
      next h =>
        obtain ⟨hl, ha⟩ := State.of_linkRefusal_none h
        exact s.serveRequest_moves m k _ _ hl fun e => (ha (by subst e; rfl)).2

theorem State.popQueue_calms (s : State) (m : Side) {e : QueueEntry} {rest : List QueueEntry} (h : (s.link m).queue = e :: rest) :
    s.Calms (s.onLink m fun l => { l with queue := rest }) := by
  refine .one (.link (.of_same (fun ⟨h1, h2, h3⟩ => ⟨?_, h2, h3⟩) rfl (le_refl _) rfl) rfl rfl)
  rw [h, List.length_cons] at h1
  dsimp only
  omega

theorem State.dispatchHead_moves (s : State) (m : Side) : s.Moves (s.dispatchHead m) := by
  unfold State.dispatchHead
  split
  · split
    next => exact .refl s
    next h => exact (State.Moves.of_calms (s.popQueue_calms m h)).trans (State.dispatchEntry_moves _ m _)
  · exact .refl s

theorem Link.offer_service (l : Link) (e : QueueEntry) :
    (l.offer e).inService = l.inService ∧ (l.offer e).reply = l.reply := by
  unfold Link.offer Link.addCause
  split <;> exact ⟨rfl, rfl⟩

theorem State.submit_moves (s : State) (m : Side) (k : RequestKind) (note : Bool) (p : List Byte) :
    s.Moves (s.submit m k note p) := by
  have h : s.Moves (s.onLink m fun l => l.offer (.request k.code note p)) :=
    .of_calms (State.onLink_calms (fun l => l.offer_turn _) fun l => l.offer_service _)
  unfold State.submit
  dsimp only
  split
  · exact h.trans (State.dispatchHead_moves _ m)
  · exact h

theorem State.request_moves (s : State) (m : Side) (k : RequestKind) (note : Bool) (p : List Byte) :
    s.Moves (s.submit m k note p).settle := (s.submit_moves m k note p).trans (State.settle_moves _)

/-! ### The check (R95) -/

/-- The end of a running check: the hand-offs, the check state, the reservation of a path that a new check needs, an arbitration. -/
theorem State.endCheck_eq (s : State) (f : Flash) (h : s.store.check = .running) : s.endCheck f =
    (if (s.handOff f).store.nextWaiters = .both false then s.checkDone f else (s.checkDone f).endPathReservation).setArb := by
  unfold State.endCheck
  rw [h]
  show (s.handOff f).nextCheck.setArb = _
  unfold State.nextCheck State.checkDone
  split
  next hn =>
    refine congrArg State.setArb ?_
    simp only [State.onStore, hn, if_true]
  next hn =>
    refine congrArg (fun t => (State.endPathReservation t).setArb) ?_
    simp only [State.onStore, hn, if_false]

theorem State.endCheck_moves (s : State) (f : Flash) : s.Moves (s.endCheck f) := by
  cases h : s.store.check with
  | running =>
    rw [State.endCheck_eq s f h]
    have h1 := State.Moves.one (State.Move.check f h)
    split
    · exact h1.trans (.of_turns (State.setArb_turns _))
    · exact (h1.trans (.of_turns (State.endPathReservation_turns _))).trans (.of_turns (State.setArb_turns _))
  | idle | pending =>
    unfold State.endCheck
    rw [h]

/-! ### The end of a burst (R117) -/

theorem State.finishDeferred_moves (s : State) (m : Side) (b : List Byte) : s.Moves (s.finishDeferred m b) := by
  unfold State.finishDeferred
  split
  · exact .refl s
  · exact (s.formReply_moves m _ _ _).trans (State.serviceSlots_moves _ m (fun _ => none) fun l => l.reply)

/-- A change of the transfer list. -/
theorem State.chanG_moves (s : State) (l : List Transfer) : s.Moves (s.onStore fun st => { st with chanG := l }) :=
  .one (.store rfl rfl .inl)

theorem State.endBurstG_moves (s : State) (f : Flash) : s.Moves (s.endBurstG f) := by
  have slot (t : State) (i : Fin 16) (g : SceneSlot → SceneSlot) : t.Moves (t.onSlot i g) := .of_calms (t.onSlot_calms i g)
  unfold State.endBurstG
  split
  · exact .refl s
  · dsimp only
    split
    · exact (slot _ _ _).trans (State.chanG_moves _ _)
    · exact (((slot _ _ _).trans (slot _ _ _)).trans (State.finishDeferred_moves _ _ _)).trans (State.chanG_moves _ _)

theorem ChannelS.burst_le (c : ChannelS) : c.burst ≤ 32 := by
  unfold ChannelS.burst
  omega

theorem State.endBurst_moves (s : State) (f : Flash) : s.Moves (s.endBurst f) := by
  unfold State.endBurst
  split
  · exact .refl s
  · exact .refl s
  next h =>
    have e : (s.endBurstS f).onStore (fun st => { st with port := .idle }) =
        (s.onStore fun st => { st with chanS := s.store.chanS.advance s.utt.entries s.store.chanS.burst, port := .idle }).onStream
          fun st => { st with ring := st.ring ++ flashSpan f s.store.chanS.address s.store.chanS.burst }.prime s.utt.entries := rfl
    rw [e]
    refine .one (.fill _ h ?_)
    rw [Stream.prime_ring, List.length_append, flashSpan, List.length_map, List.length_range]
    exact Nat.add_le_add_left s.store.chanS.burst_le _
  · exact (s.endBurstG_moves f).trans (.one (.store rfl rfl fun h => (nomatch h)))

/-! ### Sound (R125 to R127, R137) -/

theorem Stream.advance_ring (st : Stream) (es : List UttEntry) (out : Int) : (st.advance es out).stream.ring = st.ring := by
  unfold Stream.advance
  split
  · exact Stream.takeUp_ring _ _
  · rfl

/-- A sample event takes at most the head byte of the ring. -/
theorem Stream.event_ring (st : Stream) (es : List UttEntry) : (st.event es).stream.ring.length ≤ st.ring.length := by
  unfold Stream.event
  split
  · exact le_refl _
  · exact le_refl _
  · split
    · split
      · unfold Stream.consume
        split
        next h => simp [h]
        next => exact le_refl _
      · unfold Stream.blend
        dsimp only
        split
        · exact le_refl _
        · repeat' split
          all_goals first
            | exact le_refl _
            | (rw [Stream.advance_ring])
    all_goals
      split
      · rw [Stream.advance_ring]
      · exact le_refl _

theorem State.markSilents_turns (s : State) : s.Turns s.markSilents := by
  refine State.Turns.foldl (fun t r => t.markTableCue_turns r _ fun c => ?_) _ s
  split <;> exact ⟨rfl, rfl, rfl, rfl⟩

theorem State.mix_range (s : State) (x : Int) : -32768 ≤ s.mix x ∧ s.mix x ≤ 32767 := by
  unfold State.mix saturate
  omega

theorem State.sampleEvent_calms (s : State) : s.Calms s.sampleEvent := by
  have h1 : s.Calms ((s.markSilents.onMixer fun x => { x with mixed := s.mix (s.stream.event s.utt.entries).out }).onStream
      fun _ => (s.stream.event s.utt.entries).stream) := by
    refine (State.Calms.of_turns s.markSilents_turns).trans (State.Calms.trans (.one (.mixer (fun h => h) fun h => ?_))
      (State.Calms.trans (.one (.stream ?_)) (.refl _)))
    · exact ⟨(s.mix_range _).1, (s.mix_range _).2, h.2.2⟩
    · have hr : s.markSilents.stream = s.stream := by
        have (l : List CueRef) (t : State) (f : Cue → Cue) :
            (l.foldl (fun u r => u.markTableCue r f) t).stream = t.stream := by
          induction l generalizing t with
          | nil => rfl
          | cons r l ih =>
            rw [List.foldl_cons, ih]
            unfold State.markTableCue
            split <;> rfl
        exact this _ _ _
      simp only [State.onMixer_stream, hr]
      exact Stream.event_ring _ _
  unfold State.sampleEvent
  dsimp only
  split
  next => exact h1
  next r _ =>
    have h2 := fun t => State.Calms.of_turns (State.markTableCue_turns t r Cue.markStalled fun _ => ⟨rfl, rfl, rfl, rfl⟩)
    split
    · split
      · exact (h1.trans (h2 _)).trans (.of_turns (State.utteranceEnded_turns _ r))
      · exact h1.trans (.of_turns (State.utteranceEnded_turns _ r))
    · split
      · exact h1.trans (h2 _)
      · exact h1

theorem State.onVoice_calms (s : State) (v : Fin 4) (f : Voice → Voice) : s.Calms (s.onVoice v f) := .one (.tone s _)

theorem State.stepEnd_calms (s : State) (v : Fin 4) : s.Calms (s.stepEnd v) := by
  unfold State.stepEnd
  split
  · split
    · exact s.onVoice_calms v _
    · split
      · exact (s.onVoice_calms v _).trans (.of_turns (State.patternEnded_turns _ _))
      · exact s.onVoice_calms v _
  · exact .refl s

theorem State.tick_calms (s : State) (h : s.resetHeld = false) : s.Calms s.tick := by
  have : s.tick = { s with now := s.now + 1 }.onTone fun t => { t with voices := Vector.ofFn fun v => (s.tone.voices[v]).tick } := by
    simp [State.tick, h, State.onTone]
  rw [this]
  exact State.Calms.trans (.one (.clock s _)) (.one (.tone _ _))

/-! ### Ducking and the bridge (R145, R150) -/

theorem duckStep_range {d n : Nat} (h1 : 64 ≤ d) (h2 : d ≤ 256) (h3 : d % 16 = 0) (hn : n = 64 ∨ n = 256) :
    64 ≤ duckStep d n ∧ duckStep d n ≤ 256 ∧ duckStep d n % 16 = 0 := by
  unfold duckStep
  split_ifs <;> omega

theorem State.duckTarget_cases (s : State) (v : Fin 4) : s.duckTarget v = 64 ∨ s.duckTarget v = 256 := by
  unfold State.duckTarget
  repeat' split
  all_goals simp

theorem State.duckTick_calms (s : State) : s.Calms s.duckTick := by
  refine .one (.mixer (fun h => h) fun ⟨h1, h2, h3⟩ => ⟨h1, h2, fun v => ?_⟩)
  simp only [Fin.getElem_fin, Vector.getElem_ofFn]
  obtain ⟨d1, d2, d3⟩ := h3 v
  exact duckStep_range d1 d2 d3 (s.duckTarget_cases v)

theorem dutyOf_range {dt : Nat} (m : Int) (h : dt ≤ 16) : dt ≤ dutyOf m dt ∧ dutyOf m dt + dt ≤ 1024 := by
  unfold dutyOf clamp
  omega

theorem State.carrier_calms (s : State) : s.Calms (s.onMixer Mixer.carrier) := by
  refine .one (.mixer (fun ⟨h1, h2, h3, h4, h5, h6, _⟩ => ⟨h1, h2, h3, h4, h5, h6, fun g hg => ?_⟩) fun h => h)
  simp only [Mixer.carrier] at hg ⊢
  split at hg
  next hd =>
    cases hg
    exact ⟨hd, h1, h2, dutyOf_range _ h2⟩
  next => cases hg

/-! ### Display and cue timers -/

theorem State.update_calms (s : State) : s.Calms s.update := by
  unfold State.update
  split
  · exact .refl s
  · exact State.Calms.trans (State.onDisplay_calms fun h => h) (State.onDisplay_calms fun h => h)

theorem State.idleExpiry_calms (s : State) : s.Calms s.idleExpiry := by
  unfold State.idleExpiry
  split
  · exact State.onDisplay_calms fun h => h
  · exact .refl s

theorem State.gapExpiry_turns (s : State) (i : Fin 24) : s.Turns (s.gapExpiry i) := by
  unfold State.gapExpiry
  split
  next h =>
    cases hc : s.sched.table[i] with
    | none => simp only [hc, Option.any_none, Bool.false_eq_true] at h
    | some c => exact State.endGap_turns hc (by simpa only [hc, Option.any_some, decide_eq_true_eq] using h)
  next => exact .refl s

/-! ### Every command -/

/-- Everything that waits to be settled is as it was (log 6). -/
structure State.SameRest (s t : State) : Prop where
  sched : t.sched = s.sched
  store : t.store = s.store
  stream : t.stream = s.stream
  links : t.links = s.links

theorem State.SameRest.trans {u : State} (h : s.SameRest t) (g : t.SameRest u) : s.SameRest u :=
  ⟨g.sched.trans h.sched, g.store.trans h.store, g.stream.trans h.stream, g.links.trans h.links⟩

/-- What a command does, as a shape: what it sets off is settled after it (log 6), or it sets nothing off. -/
inductive State.Effect : State → State → Prop
  /-- An event that touches no request in service, no reply and no transfer. -/
  | event {s t : State} (h : s.Calms t) : Effect s t.settle
  | request (s : State) (m : Side) (k : RequestKind) (note : Bool) (p : List Byte) : Effect s (s.submit m k note p).settle
  | dispatch (s : State) (m : Side) : Effect s (s.dispatchHead m).settle
  | sentFirst (s : State) (m : Side) : Effect s ((s.frameSent m).dispatchHead m).settle
  | chosenFirst (s : State) (m : Side) : Effect s ((s.frameSent m).txChoose m)
  | checkEnd (s : State) (f : Flash) : Effect s (s.endCheck f).settle
  | burstEnd (s : State) (f : Flash) : Effect s (s.endBurst f).settle
  | checkBegin (s : State) : Effect s s.tryBeginCheck
  | sample (s : State) (levels : BitVec 10) (order : List InputClass) : Effect s (s.inputSample levels order)
  /-- Reception: what a link sends and serves is as it was. -/
  | receive {s : State} {m : Side} {f : Link → Link} (h : (s.link m).Turn (f (s.link m)))
      (inService : (f (s.link m)).inService = (s.link m).inService) (reply : (f (s.link m)).reply = (s.link m).reply)
      (tx : (f (s.link m)).tx = (s.link m).tx) (available : (f (s.link m)).available = (s.link m).available) :
      Effect s (s.onLink m f)
  | quiet {s t : State} (h : s.Calms t) (rest : s.SameRest t) : Effect s t

theorem Link.offer_sends (l : Link) (e : QueueEntry) : (l.offer e).tx = l.tx ∧ (l.offer e).available = l.available := by
  unfold Link.offer
  split <;> exact ⟨rfl, rfl⟩

/-- Reception leaves what the link has to send. -/
theorem Link.receive_sends (l : Link) (c : Byte) (now : Nat) :
    (l.receive c now).tx = l.tx ∧ (l.receive c now).available = l.available := by
  unfold Link.receive Link.assemble
  repeat' split
  all_goals first
    | exact ⟨rfl, rfl⟩
    | exact Link.offer_sends _ _

/-- A change of the Display Unit sets nothing off. -/
theorem State.onDisplay_rest (s : State) (f : Display → Display) : s.SameRest (s.onDisplay f) := ⟨rfl, rfl, rfl, rfl⟩

theorem State.update_rest (s : State) : s.SameRest s.update := by
  unfold State.update
  split
  · exact ⟨rfl, rfl, rfl, rfl⟩
  · have h : s.SameRest s.takeStagings := by
      unfold State.takeStagings
      exact s.onDisplay_rest _
    exact h.trans (State.onDisplay_rest _ _)

theorem State.pwm_calms (s : State) : s.Calms s.pwm := State.onDisplay_calms fun h => h

theorem State.pwm_rest (s : State) : s.SameRest s.pwm := s.onDisplay_rest _

/-- Every command but a power reset and a level of the sense pin runs one of these effects. -/
theorem exec_effect (s : State) (i : Instr) (hi : ∀ b, i ≠ .powerReset b) (ho : ∀ a, i ≠ .overCurrentTrip a) :
    ∃ f, exec i s = running s f ∧ s.Effect (f s) := by
  have run (f : State → State) (hf : s.Effect (f s)) : ∃ g, running s f = running s g ∧ s.Effect (g s) := ⟨f, rfl, hf⟩
  have calm {t : State} (hf : s.Calms t) : s.Effect t.settle := .event hf
  have turn {t : State} (hf : s.Turns t) : s.Effect t.settle := calm (.of_turns hf)
  have request (m : Side) (k : RequestKind) (note : Bool) (p : List Byte) :=
    run (fun s => (s.submit m k note p).settle) (.request s m k note p)
  cases i with
  | powerReset b => exact absurd rfl (hi b)
  | characterReceived m c =>
    have hs := (s.link m).receive_service c s.now
    have hx := (s.link m).receive_sends c s.now
    exact run (fun s => s.onLink m fun l => l.receive c s.now)
      (.receive ((s.link m).receive_turn c s.now) hs.1 hs.2 hx.1 hx.2)
  | stopBitLow m =>
    refine run (fun s => s.onLink m Link.badStop) (.receive ?_ ?_ ?_ ?_ ?_)
    all_goals rw [Link.badStop_eq]
    · exact (s.link m).asm_turn _ fun _ _ _ e => by split at e <;> cases e
    · rfl
  | linkGapTimerExpiry m =>
    exact run (fun s => s.onLink m Link.gapExpiry)
      (.receive (((s.link m).asm_turn .search fun _ _ _ e => (nomatch e)).trans (.of_eq rfl (le_refl _))) rfl rfl rfl rfl)
  | dispatch m => exact run (fun s => (s.dispatchHead m).settle) (.dispatch s m)
  | frameSent m b =>
    refine run (fun s => if b then ((s.frameSent m).dispatchHead m).settle else (s.frameSent m).txChoose m) ?_
    cases b with
    | true => exact .sentFirst s m
    | false => exact .chosenFirst s m
  | attach m note p => exact request m .attach note p
  | status m note p => exact request m .status note p
  | context m note p => exact request m .context note p
  | programs m note p => exact request m .programs note p
  | bandText m note p => exact request m .bandText note p
  | profile m note p => exact request m .profile note p
  | focusClaim m note p => exact request m .focusClaim note p
  | cuePost m note p => exact request m .cuePost note p
  | cueCancel m note p => exact request m .cueCancel note p
  | cueQuery m note p => exact request m .cueQuery note p
  | fence m note p => exact request m .fence note p
  | toneDefine m note p => exact request m .toneDefine note p
  | sceneWrite m note p => exact request m .sceneWrite note p
  | sceneFromStore m note p => exact request m .sceneFromStore note p
  | lampSet m note p => exact request m .lampSet note p
  | inputMask m note p => exact request m .inputMask note p
  | inputForce m note p => exact request m .inputForce note p
  | inputFilter m note p => exact request m .inputFilter note p
  | storeCheck m note p => exact request m .storeCheck note p
  | speakerSetup m note p => exact request m .speakerSetup note p
  | speakerReset m note p => exact request m .speakerReset note p
  | deadlinePasses i => exact run (fun s => (s.deadlinePasses i).settle) (turn (s.deadlinePasses_turns i))
  | holdTimerExpiry r => exact run (fun s => (s.holdEnded r).settle) (turn (s.holdEnded_turns r))
  | cueGapEnd i => exact run (fun s => (s.gapExpiry i).settle) (turn (s.gapExpiry_turns i))
  | fadeTimerExpiry r => exact run (fun s => (s.fadeExpiry r).settle) (turn (s.fadeExpiry_turns r))
  | checkBegin => exact run (fun s => s.tryBeginCheck) (.checkBegin s)
  | checkEnd f => exact run (fun s => (s.endCheck f).settle) (.checkEnd s f)
  | storeBurstEnd f => exact run (fun s => (s.endBurst f).settle) (.burstEnd s f)
  | outputSampleEvent => exact run (fun s => s.sampleEvent.settle) (calm s.sampleEvent_calms)
  | stepEnd v => exact run (fun s => (s.stepEnd v).settle) (calm (s.stepEnd_calms v))
  | duckTick => exact run State.duckTick (.quiet s.duckTick_calms ⟨rfl, rfl, rfl, rfl⟩)
  | carrierPeriod => exact run (fun s => s.onMixer Mixer.carrier) (.quiet s.carrier_calms ⟨rfl, rfl, rfl, rfl⟩)
  | overCurrentTrip a => exact absurd rfl (ho a)
  | retryTimerExpiry => exact run (fun s => s.retryExpiry.settle) (calm s.retryExpiry_calms)
  | updateEvent => exact run State.update (.quiet s.update_calms s.update_rest)
  | displayTransferEnd =>
    exact run (fun s => s.onDisplay fun d => { d with transfer := .idle })
      (.quiet (State.onDisplay_calms fun h => h) ⟨rfl, rfl, rfl, rfl⟩)
  | pwmPeriod => exact run State.pwm (.quiet s.pwm_calms s.pwm_rest)
  | backlightIdleExpiry =>
    refine run State.idleExpiry (.quiet s.idleExpiry_calms ?_)
    unfold State.idleExpiry
    split <;> exact ⟨rfl, rfl, rfl, rfl⟩
  | inputSample levels order => exact run (fun s => s.inputSample levels order) (.sample s levels order)
  | longPressExpiry k => exact run (fun s => (s.longPressExpiry k).settle) (calm (s.longPressExpiry_calms k))

/-- Every effect is a run of moves. -/
theorem State.Effect.moves (h : s.Effect t) : s.Moves t := by
  cases h with
  | event h => exact (State.Moves.of_calms h).trans (State.settle_moves _)
  | request m k note p => exact (s.submit_moves m k note p).trans (State.settle_moves _)
  | dispatch m => exact (s.dispatchHead_moves m).trans (State.settle_moves _)
  | sentFirst m => exact ((State.Moves.one (.sent s m)).trans (State.dispatchHead_moves _ m)).trans (State.settle_moves _)
  | chosenFirst m => exact (State.Moves.one (.sent s m)).trans (.of_calms (State.txChoose_calms _ m))
  | checkEnd f => exact (s.endCheck_moves f).trans (State.settle_moves _)
  | burstEnd f => exact (s.endBurst_moves f).trans (State.settle_moves _)
  | checkBegin => exact s.tryBeginCheck_moves
  | sample levels order => exact s.inputSample_moves levels order
  | receive h inService reply _ _ => exact .of_calms (.one (.link h inService reply))
  | quiet h _ => exact .of_calms h

/-! ### Every step -/

/-- The state a power reset leaves: that of `State.reset` with the waiting commands and the level of the sense pin (logs 16, 17). -/
def State.powerReset (s : State) (b : Bool) : State :=
  { State.reset with
    resetHeld := b, pending := s.pending, mixer := { State.reset.mixer with sense := s.mixer.sense } }

theorem exec_powerReset (s : State) (b : Bool) : exec (.powerReset b) s = .next (s.powerReset b) := rfl

/-- While the reset input is low a command leaves the part as it is (log 16). -/
theorem running_of_held (h : s.resetHeld = true) (f : State → State) : running s f = .next s := by simp [running, h]

/-- What an answered step can be: an effect while the reset input is high, a power reset, and while the reset input is low nothing but a new
level of the sense pin. -/
inductive State.Stepped (s : State) : State → Prop
  | moved {u t : State} (up : s.resetHeld = false) (hu : u = s ∨ ∃ c rest, s.pending = c :: rest ∧ u = { s with pending := rest })
      (h : u.Effect t) : s.Stepped t
  | reset {b : Bool} {rest : List Instr} (h : s.pending = .powerReset b :: rest) :
      s.Stepped ({ s with pending := rest }.powerReset b)
  | held {u t : State} (low : s.resetHeld = true)
      (hu : u = s ∨ ∃ c rest, s.pending = c :: rest ∧ u = { s with pending := rest }) (h : t = u ∨ ∃ a, t = u.takeSense a) :
      s.Stepped t

theorem exec_stepped {u : State} {c : Instr} {rest : List Instr} (hp : s.pending = c :: rest) (hu : u = { s with pending := rest })
    (h : exec c u = .next t) : s.Stepped t := by
  have hl : u.resetHeld = s.resetHeld := by rw [hu]
  have taken : u = s ∨ ∃ c rest, s.pending = c :: rest ∧ u = { s with pending := rest } := .inr ⟨c, rest, hp, hu⟩
  by_cases hr : ∃ b, c = .powerReset b
  · obtain ⟨b, rfl⟩ := hr
    rw [exec_powerReset] at h
    cases h
    rw [hu]
    exact .reset hp
  by_cases ho : ∃ a, c = .overCurrentTrip a
  · obtain ⟨a, rfl⟩ := ho
    have e : exec (.overCurrentTrip a) u = .next (if u.resetHeld then u.takeSense a else (u.senseLevel a).settle) := rfl
    rw [e] at h
    cases h
    cases hs : u.resetHeld with
    | true => exact .held (hl ▸ hs) taken (.inr ⟨a, rfl⟩)
    | false =>
      exact .moved (hl ▸ hs) taken (.event (u.senseLevel_calms a))
  obtain ⟨f, e, hf⟩ := exec_effect u c (fun b e => hr ⟨b, e⟩) fun a e => ho ⟨a, e⟩
  rw [e] at h
  cases hs : u.resetHeld with
  | true =>
    rw [running_of_held hs] at h
    cases h
    exact .held (hl ▸ hs) taken (.inl rfl)
  | false =>
    rw [running_of_up hs] at h
    cases h
    exact .moved (hl ▸ hs) taken hf

/-- What a step of the part does. -/
theorem step_stepped (h : step s = .next t) : s.Stepped t := by
  unfold step at h
  split at h
  next =>
    unfold idleStep at h
    cases hl : s.resetHeld with
    | true =>
      have e : s = t := by
        split at h
        next v _ =>
          have : execStepEnd v s = running s fun s => (s.stepEnd v).settle := rfl
          rw [this, running_of_held hl] at h
          cases h
          rfl
        next =>
          cases h
          simp [State.tick, hl]
      exact .held hl (.inl rfl) (.inl e.symm)
    | false =>
      refine .moved hl (.inl rfl) ?_
      split at h
      next v _ =>
        have : execStepEnd v s = running s fun s => (s.stepEnd v).settle := rfl
        rw [this, running_of_up hl] at h
        cases h
        exact .event (s.stepEnd_calms v)
      next =>
        cases h
        refine .quiet (s.tick_calms hl) ?_
        rw [State.tick, if_neg (by simp [hl])]
        exact ⟨rfl, rfl, rfl, rfl⟩
  next hp => exact exec_stepped hp rfl h

/-- What holds through every step: what the effects keep, a power reset establishes, and neither the waiting commands nor, while the reset
input is low, the level of the sense pin touch. -/
theorem step_keeps_effect {P : State → Prop} (heffect : ∀ {s t : State}, s.Effect t → s.resetHeld = false → P s → P t)
    (hreset : ∀ (s : State) b, P (s.powerReset b)) (hsense : ∀ (s : State) a, s.resetHeld = true → P s → P (s.takeSense a))
    (hpending : ∀ s q, P s → P { s with pending := q }) {s t : State} (hs : P s) (h : step s = .next t) : P t := by
  have taken {u : State} (hu : u = s ∨ ∃ c rest, s.pending = c :: rest ∧ u = { s with pending := rest }) : P u := by
    obtain rfl | ⟨c, rest, -, rfl⟩ := hu
    · exact hs
    · exact hpending _ _ hs
  have same {u : State} (hu : u = s ∨ ∃ c rest, s.pending = c :: rest ∧ u = { s with pending := rest }) :
      u.resetHeld = s.resetHeld := by
    obtain rfl | ⟨c, rest, -, rfl⟩ := hu <;> rfl
  cases step_stepped h with
  | moved up hu h => exact heffect h ((same hu).trans up) (taken hu)
  | reset h => exact hreset _ _
  | @held u t low hu h =>
    obtain rfl | ⟨a, rfl⟩ := h
    · exact taken hu
    · exact hsense _ a ((same hu).trans low) (taken hu)

/-- The same of what each move keeps. -/
theorem step_keeps {P : State → Prop} (hmove : ∀ {s t : State}, s.Move t → P s → P t)
    (hreset : ∀ (s : State) b, P (s.powerReset b)) (hsense : ∀ (s : State) a, s.resetHeld = true → P s → P (s.takeSense a))
    (hpending : ∀ s q, P s → P { s with pending := q }) {s t : State} (hs : P s) (h : step s = .next t) : P t :=
  step_keeps_effect (fun h _ => h.moves.keeps hmove) hreset hsense hpending hs h

end Sys2Proof.Machine
end

section
/-! SUPPORT. What a move leaves alone, and the laws that follow: the stage, the contexts and the focus. -/

namespace Sys2Proof.Machine

variable {s t : State}

/-! ### What a turn of the scheduler leaves alone -/

theorem State.placed_frame (s : State) (r : CueRef) (v : Option (Fin 4)) (c : Cue) : s.SameOutside (s.placed r v c) := by
  unfold State.placed
  dsimp only
  have path : s.SameOutside (if s.needsPath c then s.onPath fun x => { x with holder := some r } else s) := by
    split
    · exact s.onPath_frame _
    · exact .refl s
  refine (path.trans ?_).trans ((State.dropReservations_frame _ r).trans (State.onSched_frame _ _))
  cases v with
  | none => exact .refl _
  | some v => exact State.onVoiceRes_frame _ v _

/-- A turn leaves everything outside the scheduler's reach (R36 to R82). -/
theorem State.Turn.frame (h : s.Turn t) : s.SameOutside t := by
  cases h with
  | around _ _ frame => exact frame
  | quiet f _ => exact s.onSched_frame f
  | cue _ _ _ => exact s.setCue_frame _ _
  | leave hx _ => exact hx.frame.trans (State.setCue_frame _ _ _)
  | drop hx _ => exact hx.frame.trans (State.setCue_frame _ _ _)
  | report o hx _ _ _ => exact (hx.frame.trans (State.setCue_frame _ _ _)).trans (State.joinDone_frame _ _ _ _ _ _ _)
  | freed v _ => exact s.onSched_frame _
  | start _ => exact s.placed_frame _ _ _
  | narrate _ => exact s.onSched_frame _
  | feed _ => exact s.onSched_frame _

/-! ### What the end of a check leaves alone (R95) -/

/-- A link keeps its reports, its bounds and its transmitter. -/
structure Link.Kept (l k : Link) : Prop where
  bounded : l.Bounded → k.Bounded
  done : k.done = l.done
  nextOrder : l.nextOrder ≤ k.nextOrder
  tx : k.tx = l.tx

theorem Link.Kept.refl (l : Link) : l.Kept l := ⟨id, rfl, le_refl _, rfl⟩

theorem Link.Kept.trans {l k j : Link} (h : l.Kept k) (g : k.Kept j) : l.Kept j :=
  ⟨g.bounded ∘ h.bounded, g.done.trans h.done, h.nextOrder.trans g.nextOrder, g.tx.trans h.tx⟩

theorem Link.storeFault_kept (l : Link) : l.Kept l.storeFault := by
  have h : l.storeFault.queue = l.queue ∧ l.storeFault.inputs = l.inputs ∧ l.storeFault.asm = l.asm ∧
      l.storeFault.done = l.done ∧ l.storeFault.tx = l.tx := by
    unfold Link.storeFault Link.setFaultMark
    split <;> exact ⟨rfl, rfl, rfl, rfl, rfl⟩
  obtain ⟨hq, hi, ha, hd, ht⟩ := h
  exact ⟨l.storeFault_turn.bounded, hd, l.storeFault_turn.nextOrder, ht⟩

/-- The contexts once the languages are clamped to the count that a check's result gives (R28). -/
def State.clampedCtx (s : State) (f : Flash) : PerSide Context :=
  s.ctx.mapBoth fun c => { c with language := min c.language ((match runCheck f with
    | some cat => cat.languages.length
    | none => 1) - 1) }

theorem Store.takeResult_eq (st : Store) (r : Option Catalog) : st.takeResult r =
    { st with state := (st.takeResult r).state, catalog := r, port := .idle } := by
  cases r <;> rfl

/-- The links kept, and nothing else changed. -/
def State.KeptLinks (s t : State) : Prop :=
  ∃ L, t = { s with links := L } ∧ ∀ m, (s.link m).Kept (L.get m)

theorem State.KeptLinks.onLink {m : Side} {f : Link → Link} (h : (s.link m).Kept (f (s.link m))) : s.KeptLinks (s.onLink m f) := by
  refine ⟨_, rfl, fun n => ?_⟩
  rw [PerSide.get_modify]
  split
  next e => subst e; exact h
  next => exact .refl _

theorem State.KeptLinks.trans {u : State} (h : s.KeptLinks t) (g : t.KeptLinks u) : s.KeptLinks u := by
  obtain ⟨L, rfl, hL⟩ := h
  obtain ⟨K, rfl, hK⟩ := g
  exact ⟨K, rfl, fun m => (hL m).trans (hK m)⟩

theorem State.storeFault_keptLinks (s : State) : s.KeptLinks s.storeFault := by
  refine ⟨_, rfl, fun m => ?_⟩
  cases m
  all_goals
    dsimp only [PerSide.get]
    split
    · exact Link.storeFault_kept _
    · exact .refl _

theorem State.finishDeferred_keptLinks (s : State) (m : Side) (b : List Byte) : s.KeptLinks (s.finishDeferred m b) := by
  unfold State.finishDeferred
  split
  · exact ⟨s.links, rfl, fun _ => .refl _⟩
  · exact (State.KeptLinks.onLink ⟨id, rfl, le_refl _, rfl⟩).trans (State.KeptLinks.onLink ⟨id, rfl, le_refl _, rfl⟩)

theorem State.answerWaiter_keptLinks (s : State) (m : Side) : s.KeptLinks (s.answerWaiter m) := by
  unfold State.answerWaiter
  split
  · exact s.finishDeferred_keptLinks m _
  · exact ⟨s.links, rfl, fun _ => .refl _⟩

/-- The hand-offs of a check's end change the part state, the contexts' languages, the links and what the check found (R95). -/
theorem State.handOff_keptLinks (s : State) (f : Flash) :
    State.KeptLinks { s with partState := .ready, ctx := s.clampedCtx f, store := s.store.takeResult (runCheck f) } (s.handOff f) := by
  have answer (t : State) : t.KeptLinks ((t.answerWaiter .w).answerWaiter .d) :=
    (t.answerWaiter_keptLinks .w).trans (State.answerWaiter_keptLinks _ .d)
  have clamp (t : State) (h : t.store = s.store.takeResult (runCheck f)) (hc : t.ctx = s.ctx) :
      { t.clampLanguages with partState := .ready } = { t with partState := .ready, ctx := s.clampedCtx f } := by
    have hl : t.languageCount = match runCheck f with
        | some cat => cat.languages.length
        | none => 1 := by
      unfold State.languageCount
      rw [h]
      cases runCheck f <;> rfl
    unfold State.clampLanguages State.clampedCtx
    rw [hl, hc]
  dsimp only at clamp
  unfold State.handOff
  dsimp only
  split
  next =>
    obtain ⟨L, e, hL⟩ := State.storeFault_keptLinks (s.onStore fun st => st.takeResult (runCheck f))
    rw [clamp _ (by rw [e]; rfl) (by rw [e]; rfl), e]
    exact State.KeptLinks.trans ⟨L, rfl, hL⟩ (answer _)
  next =>
    rw [clamp (s.onStore fun st => st.takeResult (runCheck f)) rfl rfl]
    exact answer _

/-- The end of a check, said as what may change. -/
theorem State.checkDone_eq (s : State) (f : Flash) : ∃ L st, s.checkDone f =
    { s with partState := .ready, ctx := s.clampedCtx f, store := st, links := L } ∧
      st.state = (s.store.takeResult (runCheck f)).state ∧ st.catalog = runCheck f ∧ st.port = .idle ∧
      ∀ m, (s.link m).Kept (L.get m) := by
  obtain ⟨L, e, hL⟩ := s.handOff_keptLinks f
  have hc : (s.store.takeResult (runCheck f)).catalog = runCheck f ∧ (s.store.takeResult (runCheck f)).port = .idle := by
    rw [Store.takeResult_eq]
    exact ⟨rfl, rfl⟩
  obtain ⟨hcat, hport⟩ := hc
  refine ⟨L, (s.checkDone f).store, ?_, ?_⟩
  · unfold State.checkDone
    rw [e]
    rfl
  · unfold State.checkDone
    rw [e]
    dsimp only [State.onStore]
    split
    · exact ⟨rfl, hcat, hport, hL⟩
    · exact ⟨rfl, hcat, hport, hL⟩

/-! ### What the end of a frame leaves alone (R15, R52) -/

theorem Link.sent_bounded (l : Link) (f : TxFrame) (h : l.Bounded) : (l.sent f).Bounded := by
  obtain ⟨h1, h2, h3⟩ := h
  cases f with
  | input r => exact ⟨h1, (List.length_filter_le _ _).trans h2, h3⟩
  | _ => exact ⟨h1, h2, h3⟩

/-- A frame's end changes its link and may empty the slot of a cue in REPORTING. -/
theorem State.frameSent_eq (s : State) (m : Side) : ∃ f : Link → Link, ∃ v, s.frameSent m =
    (s.onLink m f).onSched (fun sc => { sc with table := v }) ∧ ((s.link m).Bounded → (f (s.link m)).Bounded) ∧
      ∀ i : Fin 24, v[i] = s.sched.table[i] ∨
        (v[i] = none ∧ ∃ c, s.sched.table[i] = some c ∧ c.state = .reporting) := by
  unfold State.frameSent
  split
  next => exact ⟨id, s.sched.table, by cases m <;> rfl, id, fun i => .inl rfl⟩
  next f _ =>
    dsimp only
    split
    next r _ =>
      unfold State.releaseReported
      split
      next => exact ⟨fun l => l.sent (.done r), s.sched.table, rfl, Link.sent_bounded _ _, fun i => .inl rfl⟩
      next p hp =>
        have hm := List.mem_of_find?_eq_some hp
        have hr := List.find?_some hp
        simp only [Bool.and_eq_true, decide_eq_true_eq] at hr
        have hc : s.sched.table[p.1] = some p.2 := (State.mem_tableCues (s.onLink m fun l => l.sent (.done r)) p.1 p.2).1 hm
        refine ⟨fun l => l.sent (.done r), s.sched.table.set p.1 none, rfl, Link.sent_bounded _ _, fun i => ?_⟩
        by_cases h : p.1 = i
        · subst h
          exact .inr ⟨by simp, p.2, hc, hr.2⟩
        · exact .inl (by simp [Vector.getElem_set_ne, Fin.val_ne_of_ne h])
    next => exact ⟨fun l => l.sent f, s.sched.table, rfl, Link.sent_bounded _ _, fun i => .inl rfl⟩

/-! ### The speaker stage (O58) -/

theorem State.Move.resetHeld (h : s.Move t) : t.resetHeld = s.resetHeld := by
  cases h with
  | calm h =>
    cases h with
    | turn h => exact h.frame.resetHeld
    | _ => rfl
  | check f h =>
    obtain ⟨L, st, e, -⟩ := s.checkDone_eq f
    rw [e]
  | sent m =>
    obtain ⟨f, v, e, -⟩ := s.frameSent_eq m
    rw [e]
    rfl
  | _ => rfl

theorem State.Move.stageOk (h : s.Move t) (hs : s.mixer.StageOk) : t.mixer.StageOk := by
  cases h with
  | calm h =>
    cases h with
    | turn h => rw [h.frame.mixer]; exact hs
    | mixer stage _ => exact stage hs
    | _ => exact hs
  | check f h =>
    obtain ⟨L, st, e, -⟩ := s.checkDone_eq f
    rw [e]
    exact hs
  | sent m =>
    obtain ⟨f, v, e, -⟩ := s.frameSent_eq m
    rw [e]
    exact hs
  | _ => exact hs

theorem State.powerReset_stageOk (s : State) (b : Bool) : (s.powerReset b).StageLaws := by
  refine ⟨?_, fun _ => rfl⟩
  simp [Mixer.StageOk, State.powerReset, State.reset, resetMixer]

/-- Settles O58: every move keeps the laws of the stage, and while the reset input is low nothing but the sense pin moves. -/
theorem stepKeepsStage : Obligations.StepKeepsStage := by
  intro s t hs h
  obtain ⟨hok, hlow⟩ := hs
  have taken {u : State} (hu : u = s ∨ ∃ c rest, s.pending = c :: rest ∧ u = { s with pending := rest }) :
      u.mixer = s.mixer ∧ u.resetHeld = s.resetHeld := by
    obtain rfl | ⟨c, rest, -, rfl⟩ := hu <;> exact ⟨rfl, rfl⟩
  cases step_stepped h with
  | @moved u t up hu h =>
    obtain ⟨hm, hr⟩ := taken hu
    have hup : t.resetHeld = false := h.moves.keeps (P := fun x => x.resetHeld = false) (fun h e => h.resetHeld.trans e) (hr.trans up)
    refine ⟨h.moves.keeps (fun h => h.stageOk) (by rw [hm]; exact hok), fun e => ?_⟩
    simp [hup] at e
  | reset h => exact State.powerReset_stageOk _ _
  | @held u t low hu h =>
    obtain ⟨hm, hr⟩ := taken hu
    have hd := hlow low
    have quiet (x : Bool) : { s.mixer with sense := x }.StageOk := by
      obtain ⟨h1, h2, h3, h4, h5, h6, h7⟩ := hok
      exact ⟨h1, h2, h3, h4, h5, fun e => absurd (hd.symm.trans e) (by decide), h7⟩
    obtain rfl | ⟨a, rfl⟩ := h
    · exact ⟨by rw [hm]; exact hok, fun _ => by rw [hm]; exact hd⟩
    · refine ⟨?_, fun _ => by rw [State.takeSense_stage, hm]; exact hd⟩
      have := quiet a
      rw [← hm] at this
      exact this

/-! ### Contexts, catalog and focus (O55) -/

theorem runCheck_catalogOk (f : Flash) (st : Store) : (st.takeResult (runCheck f)).CatalogOk := by
  cases h : runCheck f with
  | none => exact trivial
  | some c =>
    obtain ⟨⟨⟨-, ⟨-, hsize⟩, ⟨hl1, hl4⟩, himages, -⟩, -⟩, rfl⟩ := (runCheck_eq_some_iff f c).1 h
    refine ⟨by simpa [storeCatalog] using hl1, by simpa [storeCatalog] using hl4, by simpa [storeCatalog] using himages, ?_, ?_⟩
    · simp only [storeCatalog, storeSize]
      omega
    · intro l hl
      simp only [storeCatalog, List.mem_map] at hl
      obtain ⟨k, -, rfl⟩ := hl
      simp [storeLanguage]

/-- The ranges of the contexts speak of the catalog, the store state and the contexts alone. -/
theorem State.contextsInRange_iff (s : State) : s.ContextsInRange ↔
    s.store.CatalogOk ∧ ∀ m, (s.context m).InRange ∧ (s.context m).language < s.languageCount := by
  constructor
  · rintro ⟨h1, h2, h3, h4, h5⟩
    exact ⟨h1, fun m => by cases m <;> exact ⟨by assumption, by assumption⟩⟩
  · rintro ⟨h1, h⟩
    exact ⟨h1, (h .w).1, (h .d).1, (h .w).2, (h .d).2⟩

/-- The contexts keep their ranges while the store and the contexts stand. -/
theorem State.ContextsInRange.congr (h : s.ContextsInRange) (hs : t.store.state = s.store.state)
    (hc : t.store.catalog = s.store.catalog) (hx : t.ctx = s.ctx) : t.ContextsInRange := by
  unfold State.ContextsInRange Store.CatalogOk State.languageCount at *
  rw [hs, hc, hx]
  exact h

theorem attachedContext_inRange : attachedContext.InRange := by simp [attachedContext, resetContext, Context.InRange]

theorem resetContext_inRange : resetContext.InRange := by simp [resetContext, Context.InRange]

theorem State.languageCount_pos (h : s.store.CatalogOk) : 0 < s.languageCount := by
  unfold Store.CatalogOk at h
  unfold State.languageCount
  revert h
  cases s.store.state <;> cases s.store.catalog
  all_goals
    intro h
    first
      | exact Nat.zero_lt_one
      | exact h.elim
      | exact h.1

/-- One context written. -/
theorem State.ContextsInRange.onCtx (hs : s.ContextsInRange) {m : Side} {f : Context → Context}
    (range : (f (s.context m)).InRange) (language : (f (s.context m)).language < s.languageCount) :
    (s.onCtx m f).ContextsInRange := by
  rw [State.contextsInRange_iff] at hs ⊢
  refine ⟨hs.1, fun n => ?_⟩
  show ((s.ctx.modify m f).get n).InRange ∧ ((s.ctx.modify m f).get n).language < s.languageCount
  rw [PerSide.get_modify]
  split
  next e => subst e; exact ⟨range, language⟩
  next => exact hs.2 n

theorem State.ContextsInRange.context (hs : s.ContextsInRange) (m : Side) :
    (s.context m).InRange ∧ (s.context m).language < s.languageCount := ((s.contextsInRange_iff).1 hs).2 m

theorem State.Move.contextsInRange (h : s.Move t) (hs : s.ContextsInRange) : t.ContextsInRange := by
  cases h with
  | calm h =>
    cases h with
    | turn h => exact hs.congr h.frame.storeState h.frame.catalog h.frame.ctx
    | @ctx m f range language _ => exact hs.onCtx (range (hs.context m).1) (language (hs.context m).2)
    | attach m =>
      exact (hs.onCtx (m := m) (f := fun _ => attachedContext) attachedContext_inRange (State.languageCount_pos hs.1)).congr rfl rfl rfl
    | _ => exact hs
  | store state catalog _ => exact hs.congr state catalog rfl
  | check f h =>
    obtain ⟨L, st, e, hst, hcat, -⟩ := s.checkDone_eq f
    have hok := runCheck_catalogOk f s.store
    rw [e]
    have heq : (s.store.takeResult (runCheck f)).catalog = runCheck f := by rw [Store.takeResult_eq]
    rw [State.contextsInRange_iff] at hs ⊢
    have hcatalog : st.CatalogOk := by
      unfold Store.CatalogOk at hok ⊢
      rw [heq] at hok
      rw [hst, hcat]
      exact hok
    have hcount : State.languageCount { s with partState := .ready, ctx := s.clampedCtx f, store := st, links := L } =
        match runCheck f with
        | some cat => cat.languages.length
        | none => 1 := by
      unfold State.languageCount
      dsimp only
      rw [hst, hcat]
      cases runCheck f <;> rfl
    refine ⟨hcatalog, fun m => ?_⟩
    have hpos := State.languageCount_pos (s := { s with partState := .ready, ctx := s.clampedCtx f, store := st, links := L }) hcatalog
    rw [hcount] at hpos ⊢
    simp only [State.context, State.clampedCtx, PerSide.get_mapBoth]
    exact ⟨(hs.2 m).1, by omega⟩
  | sent m =>
    obtain ⟨f, v, e, -⟩ := s.frameSent_eq m
    rw [e]
    exact hs
  | _ => exact hs

/-- What a move does not take back: focus stays held and a machine attached, and the holder is attached (R23, R31, R34). -/
def State.FocusGoesOn (s t : State) : Prop :=
  (s.focus ≠ none → t.focus ≠ none) ∧ (∀ m, s.attached m = true → t.attached m = true) ∧ (s.FocusAttached → t.FocusAttached)

theorem State.FocusGoesOn.refl (s : State) : s.FocusGoesOn s := ⟨id, fun _ => id, id⟩

theorem State.FocusGoesOn.trans {u : State} (h : s.FocusGoesOn t) (g : t.FocusGoesOn u) : s.FocusGoesOn u :=
  ⟨g.1 ∘ h.1, fun m => g.2.1 m ∘ h.2.1 m, g.2.2 ∘ h.2.2⟩

theorem State.FocusGoesOn.of_same (hf : t.focus = s.focus) (ha : ∀ m, t.attached m = s.attached m) : s.FocusGoesOn t := by
  unfold State.FocusGoesOn State.FocusAttached
  simp only [hf, ha]
  exact ⟨id, fun _ => id, id⟩

theorem State.FocusGoesOn.attachAt (s : State) (m : Side) : s.FocusGoesOn (s.attachAt m) := by
  have hat (n : Side) : (s.attachAt m).attached n = if n = m then true else s.attached n := by
    simp only [State.attachAt, State.attached, State.context, State.onCtx, PerSide.get_modify]
    split <;> rfl
  have hfocus : (s.attachAt m).focus = some (s.focus.getD m) := rfl
  refine ⟨fun _ => by simp [hfocus], fun n hn => by rw [hat]; simp [hn], fun ⟨h1, _⟩ => ⟨fun n hn => ?_, fun e => ?_⟩⟩
  · rw [hat]
    split
    · rfl
    next hne =>
      cases hf : s.focus with
      | none => rw [hfocus, hf] at hn; exact absurd (Option.some.inj hn).symm hne
      | some k =>
        rw [hfocus, hf] at hn
        cases hn
        exact h1 _ hf
  · simp [hfocus] at e

theorem State.Move.focusGoesOn (h : s.Move t) : s.FocusGoesOn t := by
  cases h with
  | calm h =>
    cases h with
    | turn h => exact .of_same h.frame.focus h.frame.attached
    | @ctx m f _ _ attached =>
      refine .of_same rfl fun n => ?_
      show ((s.ctx.modify m f).get n).attached = (s.ctx.get n).attached
      rw [PerSide.get_modify]
      split
      next e => subst e; exact attached
      next => rfl
    | @focus m h => exact ⟨fun _ e => (nomatch e), fun _ => id, fun _ => ⟨fun n e => by cases e; exact h, fun e => (nomatch e)⟩⟩
    | attach m => exact .attachAt s m
    | _ => exact .refl s
  | check f h =>
    obtain ⟨L, st, e, -⟩ := s.checkDone_eq f
    rw [e]
    exact .of_same rfl fun n => by simp only [State.attached, State.context, State.clampedCtx, PerSide.get_mapBoth]
  | sent m =>
    obtain ⟨f, v, e, -⟩ := s.frameSent_eq m
    rw [e]
    exact .of_same rfl fun _ => rfl
  | _ => exact .refl s

theorem State.powerReset_focusAttached (s : State) (b : Bool) : (s.powerReset b).FocusAttached :=
  ⟨fun _ h => (nomatch h), fun _ m => by cases m <;> rfl⟩

/-- Settles O55: each move keeps the ranges, and none but a power reset detaches a machine or takes focus from both. -/
theorem stepKeepsContextsAndFocus : Obligations.StepKeepsContextsAndFocus := by
  refine ⟨fun s t hs h => step_keeps (P := State.ContextsInRange) (fun h => h.contextsInRange) (fun s b => ?_)
    (fun _ _ _ h => h) (fun _ _ h => h) hs h, fun s t hs h => ?_⟩
  · have : State.reset.ContextsInRange := ⟨trivial, resetContext_inRange, resetContext_inRange, by decide, by decide⟩
    exact this.congr rfl rfl rfl
  · have taken {u : State} (hu : u = s ∨ ∃ c rest, s.pending = c :: rest ∧ u = { s with pending := rest }) : s.FocusGoesOn u := by
      obtain rfl | ⟨c, rest, -, rfl⟩ := hu <;> exact .refl _
    have goesOn : (∃ b, s.pending.head? = some (.powerReset b)) ∧ t.FocusAttached ∨ s.FocusGoesOn t := by
      cases step_stepped h with
      | @moved u t up hu h =>
        have := h.moves.keeps (P := fun x => u.FocusGoesOn x) (fun h g => g.trans h.focusGoesOn) (.refl u)
        exact .inr ((taken hu).trans this)
      | reset hp => exact .inl ⟨⟨_, by rw [hp]; rfl⟩, State.powerReset_focusAttached _ _⟩
      | @held u t low hu h =>
        obtain rfl | ⟨a, rfl⟩ := h
        · exact .inr (taken hu)
        · exact .inr ((taken hu).trans (.of_same rfl fun _ => rfl))
    obtain ⟨⟨b, hb⟩, hat⟩ | ⟨hf, ha, hat⟩ := goesOn
    · exact ⟨hat, fun hno => absurd hb (hno b)⟩
    · exact ⟨hat hs, fun _ => ⟨hf, ha⟩⟩

end Sys2Proof.Machine
end

section
/-! SUPPORT. What a turn of the scheduler makes of the cue table, and the laws that follow: the bounds, the resources, the reports. -/

namespace Sys2Proof.Machine

variable {s t : State}

/-! ### The cue table after a turn -/

/-- Every cue of the later table was in its slot of the earlier one, and its record only turned. -/
def State.TableFollows (s t : State) : Prop :=
  ∀ (i : Fin 24) d, t.sched.table[i] = some d → ∃ c, s.sched.table[i] = some c ∧ c.Turn d

theorem State.TableFollows.of_eq (h : t.sched.table = s.sched.table) : s.TableFollows t := by
  intro i d hd
  rw [h] at hd
  exact ⟨d, hd, .refl d⟩

theorem Cue.Turn.ofMachine {c d : Cue} (h : c.Turn d) {m : Side} (hd : d.ofMachine m = true) : c.ofMachine m = true := by
  simp only [Cue.ofMachine, Bool.and_eq_true, decide_eq_true_eq, Bool.not_eq_true'] at hd ⊢
  refine ⟨h.origin ▸ hd.1, Bool.eq_false_iff.2 fun hp => ?_⟩
  simp [h.purged hp] at hd

/-- One cue is replaced by its turned record, or removed. -/
theorem State.TableFollows.setCue {x : State} {r : CueRef} {c : Cue} {o : Option Cue} (hx : x.sched.table = s.sched.table)
    (hc : s.cue? r = some c) (ho : ∀ d, o = some d → c.Turn d) : s.TableFollows (x.setCue r o) := by
  intro i d hd
  rw [State.setCue_table] at hd
  split at hd
  next e => subst e; exact ⟨c, hc, ho d hd⟩
  next => exact ⟨d, hx ▸ hd, .refl d⟩

theorem State.Leaves.table {x : State} {r : CueRef} {c : Cue} (h : s.Leaves r c x) : x.sched.table = s.sched.table := by
  rw [h.sched]

theorem Cue.started_turn (c : Cue) (h : c.state = .waiting) (b : Bool) (n m : Nat) : c.Turn (c.started b n m) := by
  have hs : (c.started b n m).uid = c.uid ∧ (c.started b n m).origin = c.origin := by
    unfold Cue.started
    dsimp only
    split <;> exact ⟨rfl, rfl⟩
  exact .of_free hs.1 hs.2 (Cue.not_purged (by simp [h])) (by simp [h])

theorem Cue.started_state (c : Cue) (b : Bool) (n m : Nat) : (c.started b n m).state = .playing := by
  unfold Cue.started
  dsimp only
  split <;> rfl

theorem Sched.serveMarker_eq (sc : Sched) (c : Cue) : sc.serveMarker c = { sc with
    lastAlarm := (sc.serveMarker c).lastAlarm, lastPrompt := (sc.serveMarker c).lastPrompt,
    lastChime := (sc.serveMarker c).lastChime } := by
  unfold Sched.serveMarker
  repeat' split
  all_goals rfl

/-- What a start gives its cue, before its reservations go (R66 step 1). -/
def State.given (s : State) (r : CueRef) (v : Option (Fin 4)) (c : Cue) : State :=
  let s := if s.needsPath c then s.onPath fun x => { x with holder := some r } else s
  match v with
  | some v => s.onVoiceRes v fun x => { x with holder := some r }
  | none => s

/-- The resources a cue is given are its own; everything else of the scheduler stands. -/
theorem State.given_sched (s : State) (r : CueRef) (v : Option (Fin 4)) (c : Cue) :
    (s.given r v c).sched = { s.sched with path := (s.given r v c).sched.path, voices := (s.given r v c).sched.voices } ∧
      (s.given r v c).sched.path.holder = (if s.needsPath c then some r else s.sched.path.holder) ∧
      ∀ w : Fin 4, (s.given r v c).sched.voices[w] =
        { s.sched.voices[w] with holder := if v = some w then some r else (s.sched.voices[w]).holder } := by
  have path : (s.given r none c).sched = { s.sched with path := (s.given r none c).sched.path } ∧
      (s.given r none c).sched.path.holder = (if s.needsPath c then some r else s.sched.path.holder) := by
    unfold State.given
    dsimp only
    split <;> exact ⟨rfl, rfl⟩
  obtain ⟨hs, hp⟩ := path
  cases v with
  | none => exact ⟨by rw [hs], hp, fun w => by rw [hs]; rfl⟩
  | some v =>
    have e : s.given r (some v) c = (s.given r none c).onVoiceRes v fun x => { x with holder := some r } := rfl
    generalize s.given r none c = t at *
    rw [e]
    refine ⟨by simp only [State.onVoiceRes, State.onSched]; rw [hs], hp, fun w => ?_⟩
    have hv : t.sched.voices = s.sched.voices := by rw [hs]
    by_cases h : v = w
    · subst h
      simp [State.onVoiceRes, State.onSched, hv]
    · simp [State.onVoiceRes, State.onSched, hv, h, Vector.getElem_set_ne, Fin.val_ne_of_ne h]

theorem State.placed_links (s : State) (r : CueRef) (v : Option (Fin 4)) (c : Cue) : (s.placed r v c).links = s.links := by
  have given : (s.given r v c).links = s.links := by
    unfold State.given
    cases v <;> dsimp only <;> split <;> rfl
  exact given

/-- The scheduler as a start leaves it: the cue in its place, the holders, the reservations dropped. -/
theorem State.placed_sched (s : State) (r : CueRef) (v : Option (Fin 4)) (c : Cue) :
    let t := s.placed r v c
    (∀ q, t.cue? q = if r = q then some (c.started (s.needsPath c) s.sched.nextStart s.now) else s.cue? q) ∧
      (∀ q, r ≠ q → t.candidate? q = s.candidate? q) ∧
      (r = .narration → t.sched.narration.pending = none) ∧ (r = .feedback → t.sched.feedback.pending = none) ∧
      t.sched.path.holder = (if s.needsPath c then some r else s.sched.path.holder) ∧
      (∀ w : Fin 4, (t.sched.voices[w]).holder = if v = some w then some r else (s.sched.voices[w]).holder) ∧
      ((s.sched.voices[(0 : Fin 4)]).reservation = none → (t.sched.voices[(0 : Fin 4)]).reservation = none) ∧
      t.sched.nextUid = s.sched.nextUid ∧ t.sched.markers = s.sched.markers := by
  have e : (s.placed r v c).sched = { ({ s.sched with
      path := (s.given r v c).sched.path.unreserve r,
      voices := Vector.ofFn fun w => ((s.given r v c).sched.voices[w]).unreserve r,
      lastAlarm := (((s.given r v c).dropReservations r).sched.serveMarker c).lastAlarm,
      lastPrompt := (((s.given r v c).dropReservations r).sched.serveMarker c).lastPrompt,
      lastChime := (((s.given r v c).dropReservations r).sched.serveMarker c).lastChime }).placeStarted r
        (c.started (s.needsPath c) s.sched.nextStart s.now) with nextStart := s.sched.nextStart + 1 } := by
    have e0 : (s.placed r v c).sched =
        { (((s.given r v c).dropReservations r).sched.serveMarker c).placeStarted r
          (c.started (s.needsPath c) s.sched.nextStart s.now) with
          nextStart := (((s.given r v c).dropReservations r).sched).nextStart + 1 } := rfl
    rw [e0, Sched.serveMarker_eq]
    simp only [State.dropReservations, State.onSched]
    rw [(s.given_sched r v c).1]
  obtain ⟨-, hpath, hvoices⟩ := s.given_sched r v c
  dsimp only [State.cue?]
  rw [e]
  have unres (w : Fin 4) : ((Vector.ofFn fun w => ((s.given r v c).sched.voices[w]).unreserve r)[w]).holder =
      if v = some w then some r else (s.sched.voices[w]).holder := by
    simp only [Fin.getElem_fin, Vector.getElem_ofFn, Resource.unreserve_holder]
    have := hvoices w
    simp only [Fin.getElem_fin] at this
    rw [this]
  have zero : (s.sched.voices[(0 : Fin 4)]).reservation = none →
      ((Vector.ofFn fun w => ((s.given r v c).sched.voices[w]).unreserve r)[(0 : Fin 4)]).reservation = none := by
    intro h
    have h0 := hvoices 0
    simp only [Fin.getElem_fin, Vector.getElem_ofFn, Resource.unreserve_reservation] at h h0 ⊢
    rw [h0]
    simp only [h]
    simp
  have hp : ((s.given r v c).sched.path.unreserve r).holder = if s.needsPath c then some r else s.sched.path.holder := by
    rw [Resource.unreserve_holder, hpath]
  cases r with
  | slot i =>
    refine ⟨fun q => ?_, fun q h => ?_, (nomatch ·), (nomatch ·), hp, unres, zero, rfl, rfl⟩
    · cases q with
      | slot j => exact (Sched.setCue_cue? _ (.slot i) (.slot j) _)
      | _ => rfl
    · cases q with
      | slot j =>
        have := Sched.setCue_cue? s.sched (.slot i) (.slot j) (some (c.started (s.needsPath c) s.sched.nextStart s.now))
        rw [if_neg h] at this
        simp only [State.candidate?, e]
        exact this
      | _ => simp only [State.candidate?, e]; rfl
  | narration =>
    refine ⟨fun q => ?_, fun q h => ?_, fun _ => rfl, (nomatch ·), hp, unres, zero, rfl, rfl⟩
    · cases q <;> rfl
    · cases q with
      | narration => exact absurd rfl h
      | _ => simp only [State.candidate?, e]; rfl
  | feedback =>
    refine ⟨fun q => ?_, fun q h => ?_, (nomatch ·), fun _ => rfl, hp, unres, zero, rfl, rfl⟩
    · cases q <;> rfl
    · cases q with
      | feedback => exact absurd rfl h
      | _ => simp only [State.candidate?, e]; rfl

theorem State.Turn.table (h : s.Turn t) : s.TableFollows t := by
  cases h with
  | around sched _ _ => exact .of_eq (by rw [sched])
  | quiet f h => exact .of_eq h.table
  | cue hc h _ => exact .setCue rfl hc fun d e => Option.some.inj e ▸ h
  | leave hx h => exact .setCue hx.table hx.1 fun d e => Option.some.inj e ▸ h
  | drop hx _ => exact .setCue hx.table hx.1 fun d e => (nomatch e)
  | @report x i c m o hx origin state purged =>
    exact State.TableFollows.setCue hx.table hx.1 fun d e => Option.some.inj e ▸ .of_free rfl rfl purged state
  | @freed v h =>
    intro i d hd
    rcases h i with e | ⟨c, hc, hs, e⟩
    · exact ⟨d, e ▸ hd, .refl d⟩
    · obtain rfl : { c with state := .waiting } = d := Option.some.inj (e ▸ hd)
      exact ⟨c, hc, .of_free rfl rfl (Cue.not_purged (by simp [hs])) (by simp [hs])⟩
  | @start r v c h =>
    intro i d hd
    have hq := (s.placed_sched r v c).1 (.slot i)
    rw [show (s.placed r v c).cue? (.slot i) = some d from hd] at hq
    split at hq
    next e =>
      subst e
      rw [Option.some.inj hq]
      exact ⟨c, h.candidate, c.started_turn (h.waiting i rfl) _ _ _⟩
    next => exact ⟨d, hq.symm, .refl d⟩
  | narrate _ => exact .of_eq rfl
  | feed _ => exact .of_eq rfl

/-! ### The machine count -/

/-- The slots of a machine's cues. -/
def State.machineSlots (s : State) (m : Side) : Finset (Fin 24) :=
  Finset.univ.filter fun i => (s.sched.table[i]).any fun c => c.ofMachine m

theorem State.mem_machineSlots {m : Side} {i : Fin 24} :
    i ∈ s.machineSlots m ↔ ∃ c, s.sched.table[i] = some c ∧ c.ofMachine m = true := by
  simp [State.machineSlots, Option.any_eq_true]

theorem State.machineCount_eq (s : State) (m : Side) : s.machineCount m = (s.machineSlots m).card := by
  have h (l : List (Fin 24)) : ((l.filterMap fun i => (s.sched.table[i]).map fun c => (i, c)).filter fun p =>
      p.2.ofMachine m).length = (l.filter fun i => (s.sched.table[i]).any fun c => c.ofMachine m).length := by
    induction l with
    | nil => rfl
    | cons i l ih =>
      rw [List.filterMap_cons, List.filter_cons]
      cases s.sched.table[i] with
      | none => simpa using ih
      | some c =>
        simp only [Option.map_some, Option.any_some, List.filter_cons]
        split
        · simpa using ih
        · exact ih
  have hslots : s.machineSlots m = ((List.finRange 24).filter fun i => (s.sched.table[i]).any fun c => c.ofMachine m).toFinset := by
    ext i
    simp [State.machineSlots]
  rw [hslots, List.toFinset_card_of_nodup ((List.nodup_finRange 24).filter _)]
  exact h (List.finRange 24)

/-- A table that follows another holds no more cues of a machine. -/
theorem State.TableFollows.machineCount_le (h : s.TableFollows t) (m : Side) : t.machineCount m ≤ s.machineCount m := by
  rw [State.machineCount_eq, State.machineCount_eq]
  refine Finset.card_le_card fun i hi => ?_
  obtain ⟨d, hd, hm⟩ := State.mem_machineSlots.1 hi
  obtain ⟨c, hc, hcd⟩ := h i d hd
  exact State.mem_machineSlots.2 ⟨c, hc, hcd.ofMachine hm⟩

/-- The end of a frame empties slots at most. -/
theorem State.frameSent_table (s : State) (m : Side) : s.TableFollows (s.frameSent m) := by
  obtain ⟨f, v, e, -, h⟩ := s.frameSent_eq m
  intro i d hd
  rw [e] at hd
  have hd : v[i] = some d := hd
  rcases h i with k | ⟨k, -⟩
  · exact ⟨d, k ▸ hd, .refl d⟩
  · rw [k] at hd
    cases hd

theorem State.checkDone_sched (s : State) (f : Flash) : (s.checkDone f).sched = s.sched := by
  obtain ⟨L, st, e, -⟩ := s.checkDone_eq f
  rw [e]

/-- The table after a move that posts nothing. -/
theorem State.Move.machineCount_le (h : s.Move t) (m : Side) (hs : s.machineCount m ≤ 16) : t.machineCount m ≤ 16 := by
  cases h with
  | calm h =>
    cases h with
    | turn h => exact (h.table.machineCount_le m).trans hs
    | @post n i c free few uid origin state =>
      rw [State.machineCount_eq] at *
      by_cases e : n = m
      · subst e
        refine (Finset.card_le_card (t := insert i (s.machineSlots n)) fun j hj => ?_).trans
          ((Finset.card_insert_le _ _).trans few)
        by_cases hij : i = j
        · simp [hij]
        · obtain ⟨d, hd, hm⟩ := State.mem_machineSlots.1 hj
          refine Finset.mem_insert_of_mem (State.mem_machineSlots.2 ⟨d, ?_, hm⟩)
          simpa [Vector.getElem_set_ne, Fin.val_ne_of_ne hij] using hd
      · refine (Finset.card_le_card fun j hj => ?_).trans hs
        obtain ⟨d, hd, hm⟩ := State.mem_machineSlots.1 hj
        by_cases hij : i = j
        · subst hij
          have : c = d := by simpa using hd
          subst this
          simp [Cue.ofMachine, origin, e] at hm
        · exact State.mem_machineSlots.2 ⟨d, by simpa [Vector.getElem_set_ne, Fin.val_ne_of_ne hij] using hd, hm⟩
    | _ => exact hs
  | check f h => exact ((State.TableFollows.of_eq (by rw [State.checkDone_sched])).machineCount_le m).trans hs
  | sent n => exact ((s.frameSent_table n).machineCount_le m).trans hs
  | _ => exact hs

/-! ### Links, mixer, levels, settings and ring (O56) -/

theorem State.linksBounded_iff (s : State) : s.LinksBounded ↔ ∀ m, (s.link m).Bounded :=
  ⟨fun h m => by cases m; exacts [h.1, h.2], fun h => ⟨h .w, h .d⟩⟩

theorem State.onLink_bounded (hs : ∀ m, (s.link m).Bounded) {m : Side} {f : Link → Link}
    (h : (s.link m).Bounded → (f (s.link m)).Bounded) (n : Side) : ((s.onLink m f).link n).Bounded := by
  show ((s.links.modify m f).get n).Bounded
  rw [PerSide.get_modify]
  split
  next e => subst e; exact h (hs _)
  next => exact hs n

theorem State.Move.linksBounded (h : s.Move t) (hs : ∀ m, (s.link m).Bounded) : ∀ m, (t.link m).Bounded := by
  cases h with
  | calm h =>
    cases h with
    | turn h =>
      intro m
      obtain ⟨d, n, e, -⟩ := h.frame.links m
      rw [e]
      exact hs m
    | link h => exact State.onLink_bounded hs h.bounded
    | _ => exact hs
  | link h => exact State.onLink_bounded hs h.bounded
  | check f h =>
    obtain ⟨L, st, e, -, -, -, hL⟩ := s.checkDone_eq f
    rw [e]
    exact fun m => (hL m).bounded (hs m)
  | sent n =>
    obtain ⟨f, v, e, h, -⟩ := s.frameSent_eq n
    rw [e]
    exact State.onLink_bounded hs h
  | _ => exact hs

/-- The bounds of the mixer, of the levels and of the panel's settings, together. -/
def State.UnitsOk (s : State) : Prop := s.mixer.MixOk ∧ s.display.LevelsOk ∧ s.panel.SettingsOk

theorem State.Move.unitsOk (h : s.Move t) (hs : s.UnitsOk) : t.UnitsOk := by
  obtain ⟨hm, hd, hp⟩ := hs
  cases h with
  | calm h =>
    cases h with
    | turn h =>
      refine ⟨h.frame.mixer ▸ hm, ?_, h.frame.panel ▸ hp⟩
      rw [h.frame.display]
      exact hd
    | mixer _ mix => exact ⟨mix hm, hd, hp⟩
    | display levels => exact ⟨hm, levels hd, hp⟩
    | panel settings => exact ⟨hm, hd, settings hp⟩
    | _ => exact ⟨hm, hd, hp⟩
  | check f h =>
    obtain ⟨L, st, e, -⟩ := s.checkDone_eq f
    rw [e]
    exact ⟨hm, hd, hp⟩
  | sent n =>
    obtain ⟨f, v, e, -⟩ := s.frameSent_eq n
    rw [e]
    exact ⟨hm, hd, hp⟩
  | _ => exact ⟨hm, hd, hp⟩

theorem State.Move.ringOk (h : s.Move t) (hs : s.RingOk) : t.RingOk := by
  obtain ⟨h512, hroom⟩ := hs
  cases h with
  | calm h =>
    cases h with
    | turn h =>
      have hport : t.store.port = .s → s.store.port = .s := by
        rcases h.frame.port with e | ⟨-, e⟩ <;> rw [e]
        · exact id
        · exact fun e => (nomatch e)
      unfold State.RingOk
      rcases h.frame.ring with e | e <;> rw [e]
      · exact ⟨h512, hroom ∘ hport⟩
      · exact ⟨by simp, fun _ => by simp⟩
    | stream ring =>
      exact ⟨ring.trans h512, fun e => (Nat.add_le_add_right ring 32).trans (hroom e)⟩
    | _ => exact ⟨h512, hroom⟩
  | store _ _ port => exact ⟨h512, fun e => (port e).elim hroom id⟩
  | check f h =>
    obtain ⟨L, st, e, -, -, hport, -⟩ := s.checkDone_eq f
    rw [e]
    exact ⟨h512, fun e => by rw [hport] at e; cases e⟩
  | fill c port ring => exact ⟨ring.trans (hroom port), fun e => (nomatch e)⟩
  | sent n =>
    obtain ⟨f, v, e, -⟩ := s.frameSent_eq n
    rw [e]
    exact ⟨h512, hroom⟩
  | _ => exact ⟨h512, hroom⟩

theorem State.reset_link_bounded (m : Side) : (State.reset.link m).Bounded := by
  cases m <;> exact ⟨by decide, by decide, trivial⟩

theorem State.reset_levelsOk : State.reset.display.LevelsOk := by
  refine ⟨fun m => ?_, by decide, by decide⟩
  cases m <;> exact ⟨by decide, by decide⟩

theorem State.reset_unitsOk : State.reset.UnitsOk := by
  refine ⟨⟨by decide, by decide, by decide⟩, State.reset_levelsOk, ?_⟩
  exact ⟨by decide, by decide, by decide, by decide, by decide, by decide, by decide⟩

theorem State.reset_ringOk : State.reset.RingOk := ⟨by decide, fun e => (nomatch e)⟩

theorem State.machineCount_powerReset (s : State) (b : Bool) (m : Side) : (s.powerReset b).machineCount m = 0 := by
  rw [State.machineCount_eq, Finset.card_eq_zero, Finset.eq_empty_iff_forall_notMem]
  intro i hi
  obtain ⟨c, hc, -⟩ := State.mem_machineSlots.1 hi
  have : (s.powerReset b).sched.table[i] = none := by simp [State.powerReset, State.reset, resetSched]
  rw [this] at hc
  cases hc

/-- Settles O56: each of the four bounds is kept by every move. -/
theorem stepKeepsBounds : Obligations.StepKeepsBounds := by
  refine ⟨fun s t hs h => ?_, fun s t hm hd hp h => ?_, fun s t hs h => ?_, fun s t m hs h => ?_⟩
  · rw [State.linksBounded_iff] at hs ⊢
    exact step_keeps (P := fun s => ∀ m, (s.link m).Bounded) (fun h => h.linksBounded) (fun _ _ => State.reset_link_bounded) (fun _ _ _ h => h)
      (fun _ _ h => h) hs h
  · exact step_keeps (P := State.UnitsOk) (fun h => h.unitsOk) (fun _ _ => State.reset_unitsOk) (fun _ _ _ h => h) (fun _ _ h => h)
      ⟨hm, hd, hp⟩ h
  · exact step_keeps (P := State.RingOk) (fun h => h.ringOk) (fun _ _ => State.reset_ringOk) (fun _ _ _ h => h)
      (fun _ _ h => h) hs h
  · exact step_keeps (P := fun s => s.machineCount m ≤ 16) (fun h => h.machineCount_le m)
      (fun s b => by rw [State.machineCount_powerReset]; omega) (fun _ _ _ h => h) (fun _ _ h => h) hs h

end Sys2Proof.Machine
end

section
/-! SUPPORT. The laws of the resources and of the report lists through every move (O57, O60). -/

namespace Sys2Proof.Machine

variable {s t : State}

/-! ### Resources (R53, R59) -/

/-- The laws of the resources speak of the holders, of the cues on the stage, of voice 0's reservation and of the pending panel cues. -/
theorem State.ResourceLaws.congr (hs : s.ResourceLaws) (hp : t.sched.path.holder = s.sched.path.holder)
    (hv : ∀ v : Fin 4, (t.sched.voices[v]).holder = (s.sched.voices[v]).holder)
    (h0 : (s.sched.voices[(0 : Fin 4)]).reservation = none → (t.sched.voices[(0 : Fin 4)]).reservation = none)
    (hheld : ∀ r, s.mayHold r → (s.sched.path.holder = some r ∨ ∃ v : Fin 4, (s.sched.voices[v]).holder = some r) → t.mayHold r)
    (hn : ∀ c, t.sched.narration.pending = some c → c.tone = none)
    (hf : ∀ c, t.sched.feedback.pending = some c → c.speech = none) : t.ResourceLaws := by
  obtain ⟨h1, h2, h3, h4, -, -⟩ := hs
  refine ⟨fun r hr => ?_, fun v r hr => ?_, fun v w r hr hw => ?_, h0 h4, hn, hf⟩
  · rw [hp] at hr
    exact ⟨hheld r (h1 r hr).1 (.inl hr), (h1 r hr).2⟩
  · rw [hv] at hr
    obtain ⟨k1, k2⟩ := h2 v r hr
    exact ⟨hheld r k1 (.inr ⟨v, hr⟩), k2⟩
  · rw [hv] at hr hw
    exact h3 v w r hr hw

/-- The resources of `r` are free once it has given them up. -/
theorem State.freeResources_holders (hs : s.ResourceLaws) (r : CueRef) :
    (s.freeResources r).sched.path.holder = (if s.sched.path.holder = some r then none else s.sched.path.holder) ∧
      ∀ v : Fin 4, ((s.freeResources r).sched.voices[v]).holder =
          (if (s.sched.voices[v]).holder = some r then none else (s.sched.voices[v]).holder) ∧
        ((s.freeResources r).sched.voices[v]).reservation = (s.sched.voices[v]).reservation := by
  have hpath : (s.freePath r).sched.voices = s.sched.voices ∧ (s.freePath r).sched.path.holder =
      if s.sched.path.holder = some r then none else s.sched.path.holder := by
    unfold State.freePath
    split
    next h => exact ⟨rfl, rfl⟩
    next h => exact ⟨rfl, rfl⟩
  obtain ⟨hv, hp⟩ := hpath
  unfold State.freeResources
  generalize s.freePath r = x at *
  have hvoice : (x.freeVoice r).sched.path = x.sched.path := by
    unfold State.freeVoice
    split <;> rfl
  refine ⟨by rw [hvoice, hp], fun v => ?_⟩
  cases hx : x.voiceOf r with
  | none =>
    have hno : (s.sched.voices[v]).holder ≠ some r := by
      have := List.find?_eq_none.1 hx v (by revert v; decide)
      simpa [hv] using this
    have : x.freeVoice r = x := by rw [State.freeVoice, hx]
    rw [this, hv, if_neg hno]
    exact ⟨rfl, rfl⟩
  | some w =>
    have hw : (s.sched.voices[w]).holder = some r := by simpa [hv] using List.find?_some hx
    have e : (x.freeVoice r).sched.voices = x.sched.voices.set w { x.sched.voices[w] with holder := none } := by
      rw [State.freeVoice, hx]
      rfl
    rw [e, hv]
    by_cases h : w = v
    · subst h
      simp only [Fin.getElem_fin, Vector.getElem_set_self]
      have : (s.sched.voices[w.val]).holder = some r := hw
      simp [this]
    · have hno : (s.sched.voices[v]).holder ≠ some r := fun hr => h (hs.2.2.1 w v r hw hr)
      rw [if_neg hno]
      simp [Vector.getElem_set_ne, Fin.val_ne_of_ne h]

/-- A cue that left the stage holds nothing, and the laws hold without it. -/
theorem State.Leaves.laws {x : State} {r : CueRef} {c : Cue} (h : s.Leaves r c x) (hs : s.ResourceLaws) :
    x.ResourceLaws ∧ x.sched.path.holder ≠ some r ∧ ∀ v : Fin 4, (x.sched.voices[v]).holder ≠ some r := by
  obtain ⟨hc, ⟨hoff, rfl⟩ | rfl⟩ := h
  · have hno : ¬ x.mayHold r := by
      rintro ⟨d, hd, hst⟩
      have : c = d := Option.some.inj (hc.symm.trans hd)
      subst this
      simp [(Cue.onStage_iff c).2 hst] at hoff
    exact ⟨hs, fun e => hno (hs.1 r e).1, fun v e => hno (hs.2.1 v r e).1⟩
  · have hsched := s.freeResources_sched r
    obtain ⟨hp, hv⟩ := State.freeResources_holders hs r
    obtain ⟨h1, h2, h3, h4, h5, h6⟩ := hs
    have hold (q : CueRef) (k : s.mayHold q) : (s.freeResources r).mayHold q := by
      obtain ⟨d, hd, hst⟩ := k
      exact ⟨d, by rw [State.freeResources_cue?]; exact hd, hst⟩
    have some_of {a : Option CueRef} {q : CueRef} (e : (if a = some r then none else a) = some q) : a = some q ∧ q ≠ r := by
      split at e
      next => cases e
      next ha => exact ⟨e, fun hq => ha (e.trans (congrArg some hq))⟩
    refine ⟨⟨fun q hq => ?_, fun v q hq => ?_, fun v w q hq hw => ?_, ?_, ?_, ?_⟩, fun e => ?_, fun v e => ?_⟩
    · obtain ⟨hq, -⟩ := some_of (hp.symm.trans hq)
      exact ⟨hold q (h1 q hq).1, (h1 q hq).2⟩
    · obtain ⟨hq, -⟩ := some_of ((hv v).1.symm.trans hq)
      exact ⟨hold q (h2 v q hq).1, (h2 v q hq).2⟩
    · exact h3 v w q (some_of ((hv v).1.symm.trans hq)).1 (some_of ((hv w).1.symm.trans hw)).1
    · rw [(hv 0).2]
      exact h4
    · rw [hsched]
      exact h5
    · rw [hsched]
      exact h6
    · exact (some_of (hp.symm.trans e)).2 rfl
    · exact (some_of ((hv v).1.symm.trans e)).2 rfl

/-- Whatever becomes of a cue that holds nothing, the laws hold. -/
theorem State.ResourceLaws.setCue {x : State} (hx : x.ResourceLaws) {r : CueRef} {o : Option Cue}
    (hp : x.sched.path.holder ≠ some r) (hv : ∀ v : Fin 4, (x.sched.voices[v]).holder ≠ some r) : (x.setCue r o).ResourceLaws := by
  have hsched : (x.setCue r o).sched.path = x.sched.path ∧ (x.setCue r o).sched.voices = x.sched.voices ∧
      (x.setCue r o).sched.narration.pending = x.sched.narration.pending ∧
      (x.setCue r o).sched.feedback.pending = x.sched.feedback.pending := by
    cases r <;> exact ⟨rfl, rfl, rfl, rfl⟩
  obtain ⟨e1, e2, e3, e4⟩ := hsched
  refine hx.congr (by rw [e1]) (fun v => by rw [e2]) (fun h => by rw [e2]; exact h) (fun q hq hheld => ?_)
    (by rw [e3]; exact hx.2.2.2.2.1) (by rw [e4]; exact hx.2.2.2.2.2)
  obtain ⟨d, hd, hst⟩ := hq
  have hne : r ≠ q := by
    rintro rfl
    rcases hheld with e | ⟨v, e⟩
    · exact hp e
    · exact hv v e
  exact ⟨d, by rw [State.setCue_cue?, if_neg hne]; exact hd, hst⟩

/-- A start keeps the laws: what it takes was free, and its cue held nothing else. -/
theorem State.MayStart.laws {r : CueRef} {v : Option (Fin 4)} {c : Cue} (h : s.MayStart r v c) (hs : s.ResourceLaws) :
    (s.placed r v c).ResourceLaws := by
  obtain ⟨kcue, kcand, kn, kf, kpath, kvoice, kzero, -, -⟩ := s.placed_sched r v c
  obtain ⟨h1, h2, h3, h4, h5, h6⟩ := hs
  have speech (e : r = .feedback) : s.needsPath c = false := by
    subst e
    simp [State.needsPath, h6 c h.candidate]
  have mine : (s.placed r v c).mayHold r := ⟨_, (kcue r).trans (if_pos rfl), .inl (Cue.started_state _ _ _ _)⟩
  have hold (q : CueRef) (k : s.mayHold q) : (s.placed r v c).mayHold q := by
    by_cases e : r = q
    · exact e ▸ mine
    · obtain ⟨d, hd, hst⟩ := k
      exact ⟨d, by rw [kcue, if_neg e]; exact hd, hst⟩
  -- the voice its cue holds already, if it holds one
  have only (w : Fin 4) (x : Fin 4) (hv : v = some x) (hw : (s.sched.voices[w]).holder = some r) : w = x := by
    have hwq := h2 w r hw
    cases r with
    | slot i =>
      obtain ⟨d, hd, hst⟩ := hwq.1
      have hcd : c = d := Option.some.inj ((show s.cue? (.slot i) = some c from h.candidate).symm.trans hd)
      subst hcd
      simp [h.waiting i rfl] at hst
    | narration => exact absurd rfl hwq.2.2
    | feedback => rw [hwq.2.1.2 rfl, ((h.voice x hv).2.2 rfl)]
  have taken {w : Fin 4} {q : CueRef} (e : (if v = some w then some r else (s.sched.voices[w]).holder) = some q) :
      (v = some w ∧ r = q) ∨ (s.sched.voices[w]).holder = some q := by
    split at e
    next hv => exact .inl ⟨hv, Option.some.inj e⟩
    next => exact .inr e
  refine ⟨fun q hq => ?_, fun w q hq => ?_, fun w x q hq hx => ?_, kzero h4, fun d hd => ?_, fun d hd => ?_⟩
  · rw [kpath] at hq
    split at hq
    next hneed =>
      cases hq
      exact ⟨mine, fun e => by simp [speech e] at hneed⟩
    next => exact ⟨hold q (h1 q hq).1, (h1 q hq).2⟩
  · rw [kvoice] at hq
    rcases taken hq with ⟨hv, rfl⟩ | hq
    · refine ⟨mine, (h.voice w hv).2, fun e => ?_⟩
      have := h.needed e (h5 c (by subst e; exact h.candidate))
      rw [this] at hv
      cases hv
    · exact ⟨hold q (h2 w q hq).1, (h2 w q hq).2⟩
  · rw [kvoice] at hq hx
    rcases taken hq with ⟨hv, rfl⟩ | hq <;> rcases taken hx with ⟨hv', e⟩ | hx
    · exact Option.some.inj (hv.symm.trans hv')
    · exact (only x w hv hx).symm
    · subst e
      exact only w x hv' hq
    · exact h3 w x q hq hx
  · by_cases e : r = .narration
    · rw [kn e] at hd
      cases hd
    · have := kcand .narration e
      rw [show (s.placed r v c).candidate? .narration = some d from hd] at this
      exact h5 d this.symm
  · by_cases e : r = .feedback
    · rw [kf e] at hd
      cases hd
    · have := kcand .feedback e
      rw [show (s.placed r v c).candidate? .feedback = some d from hd] at this
      exact h6 d this.symm

theorem State.Turn.resourceLaws (h : s.Turn t) (hs : s.ResourceLaws) : t.ResourceLaws := by
  have same (e : t.sched = s.sched) : t.ResourceLaws := by
    refine hs.congr (by rw [e]) (fun v => by rw [e]) (fun h => by rw [e]; exact h) (fun r ⟨c, hc, hst⟩ _ => ⟨c, ?_, hst⟩)
      (by rw [e]; exact hs.2.2.2.2.1) (by rw [e]; exact hs.2.2.2.2.2)
    rw [State.cue?, e]
    exact hc
  cases h with
  | around sched _ _ => exact same sched
  | quiet f h =>
    refine hs.congr h.path h.voices h.voice0 (fun r ⟨c, hc, hst⟩ _ => ⟨c, ?_, hst⟩) ?_ ?_
    · cases r with
      | slot i => exact (congrArg (fun v => v[i]) h.table).trans hc
      | narration => exact (congrArg PanelEntry.current h.narration).trans hc
      | feedback => exact (congrArg PanelEntry.current h.feedback).trans hc
    · rw [State.onSched_sched, h.narration]
      exact hs.2.2.2.2.1
    · rw [State.onSched_sched, h.feedback]
      exact hs.2.2.2.2.2
  | @cue r c d hc h stage =>
    have hsched : (s.setCue r (some d)).sched.path = s.sched.path ∧ (s.setCue r (some d)).sched.voices = s.sched.voices ∧
        (s.setCue r (some d)).sched.narration.pending = s.sched.narration.pending ∧
        (s.setCue r (some d)).sched.feedback.pending = s.sched.feedback.pending := by
      cases r <;> exact ⟨rfl, rfl, rfl, rfl⟩
    obtain ⟨e1, e2, e3, e4⟩ := hsched
    refine hs.congr (by rw [e1]) (fun v => by rw [e2]) (fun h => by rw [e2]; exact h) (fun q ⟨x, hx, hst⟩ _ => ?_)
      (by rw [e3]; exact hs.2.2.2.2.1) (by rw [e4]; exact hs.2.2.2.2.2)
    by_cases e : r = q
    · subst e
      have : c = x := Option.some.inj (hc.symm.trans hx)
      subst this
      exact ⟨d, State.setCue_cue?_same _ _ _, (Cue.onStage_iff d).1 (stage ((Cue.onStage_iff c).2 hst))⟩
    · exact ⟨x, by rw [State.setCue_cue?, if_neg e]; exact hx, hst⟩
  | leave hx h =>
    obtain ⟨hl, hp, hv⟩ := hx.laws hs
    exact hl.setCue hp hv
  | drop hx _ =>
    obtain ⟨hl, hp, hv⟩ := hx.laws hs
    exact hl.setCue hp hv
  | @report x i c m o hx _ _ _ =>
    obtain ⟨hl, hp, hv⟩ := hx.laws hs
    have := hl.setCue (o := some (c.toReporting o)) hp hv
    exact this
  | @freed v h =>
    refine hs.congr rfl (fun _ => rfl) id (fun r ⟨c, hc, hst⟩ _ => ⟨c, ?_, hst⟩) hs.2.2.2.2.1 hs.2.2.2.2.2
    cases r with
    | slot i =>
      rcases h i with e | ⟨d, hd, hheld, -⟩
      · exact e.trans hc
      · have : d = c := Option.some.inj (hd.symm.trans hc)
        subst this
        simp [hheld] at hst
    | narration => exact hc
    | feedback => exact hc
  | start h => exact h.laws hs
  | narrate items =>
    exact hs.congr rfl (fun _ => rfl) id (fun r ⟨c, hc, hst⟩ _ => ⟨c, by cases r <;> exact hc, hst⟩)
      (fun c e => by cases e; rfl) hs.2.2.2.2.2
  | feed p =>
    exact hs.congr rfl (fun _ => rfl) id (fun r ⟨c, hc, hst⟩ _ => ⟨c, by cases r <;> exact hc, hst⟩)
      hs.2.2.2.2.1 (fun c e => by cases e; rfl)

theorem State.Move.resourceLaws (h : s.Move t) (hs : s.ResourceLaws) : t.ResourceLaws := by
  cases h with
  | calm h =>
    cases h with
    | turn h => exact h.resourceLaws hs
    | @post m i c free _ _ _ _ =>
      refine hs.congr rfl (fun _ => rfl) id (fun r ⟨d, hd, hst⟩ _ => ⟨d, ?_, hst⟩) hs.2.2.2.2.1 hs.2.2.2.2.2
      cases r with
      | slot j =>
        have hne : i ≠ j := by
          rintro rfl
          have : s.sched.table[i] = some d := hd
          rw [free] at this
          cases this
        have := Sched.setCue_cue? s.sched (.slot i) (.slot j) (some c)
        rw [if_neg (by simpa using hne)] at this
        exact this.trans hd
      | narration => exact hd
      | feedback => exact hd
    | _ => exact hs
  | check f h =>
    have e := s.checkDone_sched f
    unfold State.ResourceLaws State.mayHold State.cue?
    rw [e]
    exact hs
  | sent n =>
    obtain ⟨f, v, e, -, h⟩ := s.frameSent_eq n
    rw [e]
    refine hs.congr rfl (fun _ => rfl) id (fun r ⟨d, hd, hst⟩ _ => ⟨d, ?_, hst⟩) hs.2.2.2.2.1 hs.2.2.2.2.2
    cases r with
    | slot i =>
      rcases h i with k | ⟨-, c, hc, hr⟩
      · exact k.trans hd
      · have : c = d := Option.some.inj (hc.symm.trans hd)
        subst this
        simp [hr] at hst
    | narration => exact hd
    | feedback => exact hd
  | _ => exact hs

theorem State.reset_resourceLaws : State.reset.ResourceLaws := by
  have hv (v : Fin 4) : (State.reset.sched.voices[v]).holder = none := by revert v; decide
  refine ⟨fun r h => (nomatch h), fun v r h => ?_, fun v w r h => ?_, by decide, fun c h => (nomatch h), fun c h => (nomatch h)⟩
  all_goals
    rw [hv] at h
    cases h

/-- Settles O60: each turn of the scheduler keeps the laws of the resources, and the other moves leave the scheduler alone. -/
theorem stepKeepsResources : Obligations.StepKeepsResources := fun _ _ hs h =>
  step_keeps (P := State.ResourceLaws) (fun h => h.resourceLaws) (fun _ _ => State.reset_resourceLaws) (fun _ _ _ h => h)
    (fun _ _ h => h) hs h

/-! ### Reports (R12, R49, R52) -/

/-- The serials of the table name one cue each, and none that is still to come. -/
def Sched.SerialsOk (sc : Sched) : Prop :=
  (∀ (i j : Fin 24) c d, sc.table[i] = some c → sc.table[j] = some d → c.uid = d.uid → i = j) ∧
    ∀ (i : Fin 24) c, sc.table[i] = some c → c.uid < sc.nextUid

/-- A link's reports are those of cues of its machine in REPORTING, in the order of their numbers. -/
def Sched.ListsReports (sc : Sched) (m : Side) (l : Link) : Prop :=
  (l.done.Pairwise fun a b => a.order < b.order ∧ a.uid ≠ b.uid) ∧
    ∀ r ∈ l.done, r.order < l.nextOrder ∧
      ∃ (i : Fin 24) (c : Cue), sc.table[i] = some c ∧ c.uid = r.uid ∧ c.origin = .machine m ∧ c.state = .reporting

/-- A report being sent is its list's entry of that number, or of a cue that is gone. -/
def Sched.SendsReport (sc : Sched) (m : Side) (l : Link) (f : DoneReport) : Prop :=
  f.order < l.nextOrder ∧ f.uid < sc.nextUid ∧ (∀ x ∈ l.done, x.order = f.order ↔ x.uid = f.uid) ∧
    ∀ (i : Fin 24) c, sc.table[i] = some c → c.uid = f.uid → c.state = .reporting ∧ c.origin = .machine m

/-- What the laws of the reports say of one link. -/
def Sched.LinkOk (sc : Sched) (m : Side) (l : Link) : Prop :=
  sc.ListsReports m l ∧ ∀ f, l.tx = .sending (.done f) → sc.SendsReport m l f

theorem State.reportsOk_iff (s : State) : s.ReportsOk ↔ s.sched.SerialsOk ∧ ∀ m, s.sched.LinkOk m (s.link m) := by
  constructor
  · rintro ⟨h1, h2, h3⟩
    exact ⟨⟨h1, h2⟩, fun m => ⟨⟨(h3 m).1, (h3 m).2.1⟩, (h3 m).2.2⟩⟩
  · rintro ⟨⟨h1, h2⟩, h3⟩
    exact ⟨h1, h2, fun m => ⟨(h3 m).1.1, (h3 m).1.2, (h3 m).2⟩⟩

variable {a b : Sched}

/-- The serials stay distinct while the table follows. -/
theorem State.TableFollows.serialsOk (h : s.TableFollows t) (hn : s.sched.nextUid ≤ t.sched.nextUid) (hs : s.sched.SerialsOk) :
    t.sched.SerialsOk := by
  obtain ⟨h1, h2⟩ := hs
  refine ⟨fun i j c d hc hd e => ?_, fun i c hc => ?_⟩
  · obtain ⟨c', hc', kc⟩ := h i c hc
    obtain ⟨d', hd', kd⟩ := h j d hd
    exact h1 i j c' d' hc' hd' (by rw [← kc.uid, ← kd.uid, e])
  · obtain ⟨c', hc', kc⟩ := h i c hc
    rw [kc.uid]
    exact (h2 i c' hc').trans_le hn

/-- A report goes on being sent while the table follows. -/
theorem State.TableFollows.sendsReport (h : s.TableFollows t) (hn : s.sched.nextUid ≤ t.sched.nextUid) {m : Side} {l : Link}
    {f : DoneReport} (hf : s.sched.SendsReport m l f) : t.sched.SendsReport m l f := by
  obtain ⟨h1, h2, h3, h4⟩ := hf
  refine ⟨h1, h2.trans_le hn, h3, fun i d hd e => ?_⟩
  obtain ⟨c, hc, k⟩ := h i d hd
  obtain ⟨hr, ho⟩ := h4 i c hc (k.uid ▸ e)
  exact ⟨k.reporting hr, k.origin.trans ho⟩

/-- A link's laws go on while the table follows and the cues of its reports stay. -/
theorem State.TableFollows.linkOk (h : s.TableFollows t) (hn : s.sched.nextUid ≤ t.sched.nextUid) {m : Side} {l : Link}
    (stay : ∀ (i : Fin 24) c, s.sched.table[i] = some c → c.origin = .machine m → c.state = .reporting → (∃ r ∈ l.done, r.uid = c.uid) →
      t.sched.table[i] ≠ none) (hl : s.sched.LinkOk m l) : t.sched.LinkOk m l := by
  obtain ⟨⟨h1, h2⟩, h3⟩ := hl
  refine ⟨⟨h1, fun r hr => ?_⟩, fun f hf => h.sendsReport hn (h3 f hf)⟩
  obtain ⟨ho, i, c, hc, hu, hm, hst⟩ := h2 r hr
  obtain ⟨d, hd⟩ := Option.ne_none_iff_exists'.1 (stay i c hc hm hst ⟨r, hr, hu.symm⟩)
  obtain ⟨c', hc', k⟩ := h i d hd
  have : c = c' := Option.some.inj (hc.symm.trans hc')
  subst this
  exact ⟨ho, i, d, hd, k.uid.trans hu, k.origin.trans hm, k.reporting hst⟩

/-- Two listed reports of one number, or of one cue, are the same. -/
theorem Sched.ListsReports.injective {sc : Sched} {m : Side} {l : Link} (h : sc.ListsReports m l) {x y : DoneReport}
    (hx : x ∈ l.done) (hy : y ∈ l.done) : x.order = y.order ↔ x.uid = y.uid := by
  by_cases e : x = y
  · subst e; simp
  · have : Std.Symm fun a b : DoneReport => a.order ≠ b.order ∧ a.uid ≠ b.uid := ⟨fun _ _ hab => ⟨hab.1.symm, hab.2.symm⟩⟩
    have hd := (h.1.imp fun hab => ⟨hab.1.ne, hab.2⟩ : l.done.Pairwise fun a b => a.order ≠ b.order ∧ a.uid ≠ b.uid).forall hx hy e
    exact ⟨fun k => absurd k hd.1, fun k => absurd k hd.2⟩

/-- A change of a link that lists no new reports and sends none but its own. -/
theorem Link.Turn.linkOk {sc : Sched} (hsc : sc.SerialsOk) {m : Side} {l k : Link} (h : l.Turn k) (hl : sc.LinkOk m l) :
    sc.LinkOk m k := by
  obtain ⟨hlist, hsend⟩ := hl
  have sends {f : DoneReport} (g : sc.SendsReport m l f) : sc.SendsReport m k f := by
    obtain ⟨h1, h2, h3, h4⟩ := g
    exact ⟨h1.trans_le h.nextOrder, h2, fun x hx => h3 x (h.done.subset hx), h4⟩
  refine ⟨⟨hlist.1.sublist h.done, fun r hr => ?_⟩, fun f hf => sends ?_⟩
  · obtain ⟨ho, k'⟩ := hlist.2 r (h.done.subset hr)
    exact ⟨ho.trans_le h.nextOrder, k'⟩
  · rcases h.tx f hf with e | e
    · exact hsend f e
    · obtain ⟨ho, i, c, hc, hu, hm, hst⟩ := hlist.2 f e
      refine ⟨ho, hu ▸ hsc.2 i c hc, fun x hx => hlist.injective hx e, fun j d hd hdu => ?_⟩
      have hij := hsc.1 i j c d hc hd (hu.trans hdu.symm)
      subst hij
      have : c = d := Option.some.inj (hc.symm.trans hd)
      subst this
      exact ⟨hst, hm⟩

/-! ### Reports through the turns of the scheduler -/

/-- Serials and posting numbers only rise, and a machine's markers stay within four (R42). -/
theorem State.Turn.counters (h : s.Turn t) : s.sched.nextUid ≤ t.sched.nextUid ∧
    ∀ m, (s.sched.markers.get m).length ≤ 4 → (t.sched.markers.get m).length ≤ 4 := by
  have leaves {x : State} {r : CueRef} {c : Cue} (hx : s.Leaves r c x) (o : Option Cue) :
      (x.setCue r o).sched.nextUid = s.sched.nextUid ∧ (x.setCue r o).sched.markers = s.sched.markers := by
    have e : (x.setCue r o).sched.nextUid = x.sched.nextUid ∧ (x.setCue r o).sched.markers = x.sched.markers := by
      cases r <;> exact ⟨rfl, rfl⟩
    rw [e.1, e.2, hx.sched]
    exact ⟨rfl, rfl⟩
  have of_eq (e : t.sched.nextUid = s.sched.nextUid ∧ t.sched.markers = s.sched.markers) : s.sched.nextUid ≤ t.sched.nextUid ∧
      ∀ m, (s.sched.markers.get m).length ≤ 4 → (t.sched.markers.get m).length ≤ 4 :=
    ⟨e.1.ge, fun m => by rw [e.2]; exact id⟩
  cases h with
  | around sched _ _ => exact of_eq (by rw [sched]; exact ⟨rfl, rfl⟩)
  | quiet f h => exact ⟨h.nextUid.ge, h.markers⟩
  | @cue r c d hc h _ => exact of_eq (by cases r <;> exact ⟨rfl, rfl⟩)
  | leave hx h => exact of_eq (leaves hx _)
  | drop hx _ => exact of_eq (leaves hx _)
  | report o hx _ _ _ => exact of_eq (leaves hx _)
  | freed v h => exact of_eq ⟨rfl, rfl⟩
  | @start r v c h =>
    obtain ⟨-, -, -, -, -, -, -, hu, hm⟩ := s.placed_sched r v c
    exact of_eq ⟨hu, hm⟩
  | narrate _ => exact ⟨Nat.le_succ _, fun _ => id⟩
  | feed _ => exact ⟨Nat.le_succ _, fun _ => id⟩

/-- A report joins the list of its link (R49). -/
theorem Sched.LinkOk.joinDone {x : State} {i : Fin 24} {c : Cue} {m : Side} {l : Link} (hs : s.sched.SerialsOk)
    (hl : s.sched.LinkOk m l) (h : s.sched.table[i] = some c) (hx : x.sched.table = s.sched.table)
    (hn : x.sched.nextUid = s.sched.nextUid) (state : c.state ≠ .reporting) (origin : c.origin = .machine m)
    (o : CueOutcome) (purged : c.purged = false) :
    (x.setCue (.slot i) (some (c.toReporting o))).sched.LinkOk m (l.joinDone c.uid c.id o c.flags c.preempts) := by
  have follows : s.TableFollows (x.setCue (.slot i) (some (c.toReporting o))) :=
    .setCue hx h fun d e => Option.some.inj e ▸ .of_free rfl rfl purged state
  have hi : (x.setCue (.slot i) (some (c.toReporting o))).sched.table[i] = some (c.toReporting o) :=
    (State.setCue_table _ _ _ _).trans (if_pos rfl)
  have stays (j : Fin 24) (hj : s.sched.table[j] ≠ none) : (x.setCue (.slot i) (some (c.toReporting o))).sched.table[j] ≠ none := by
    rw [State.setCue_table]
    split
    · exact fun e => (nomatch e)
    · rw [hx]
      exact hj
  have old := follows.linkOk hn.ge (fun j d hd _ _ _ => stays j (by rw [hd]; exact fun e => (nomatch e))) hl
  -- the cue of an old report is another cue
  have other (r : DoneReport) (hr : r ∈ l.done) : r.uid ≠ c.uid := by
    obtain ⟨-, j, d, hd, hu, -, hst⟩ := hl.1.2 r hr
    rintro e
    have hij := hs.1 j i d c hd h (hu.trans e)
    subst hij
    have : c = d := Option.some.inj (h.symm.trans hd)
    exact state (this ▸ hst)
  refine ⟨⟨List.pairwise_append.2 ⟨old.1.1, List.pairwise_singleton _ _, fun r hr y hy => ?_⟩, fun r hr => ?_⟩, fun f hf => ?_⟩
  · obtain rfl := List.mem_singleton.1 hy
    exact ⟨(hl.1.2 r hr).1, other r hr⟩
  · rcases List.mem_append.1 hr with hr | hr
    · obtain ⟨ho, k⟩ := old.1.2 r hr
      exact ⟨Nat.lt_succ_of_lt ho, k⟩
    · obtain rfl := List.mem_singleton.1 hr
      exact ⟨Nat.lt_succ_self _, i, c.toReporting o, hi, rfl, origin, rfl⟩
  · obtain ⟨h1, h2, h3, h4⟩ := old.2 f hf
    obtain ⟨-, -, -, k4⟩ := hl.2 f hf
    refine ⟨Nat.lt_succ_of_lt h1, h2, fun y hy => ?_, h4⟩
    rcases List.mem_append.1 hy with hy | hy
    · exact h3 y hy
    · obtain rfl := List.mem_singleton.1 hy
      exact ⟨fun e => absurd (show l.nextOrder = f.order from e) h1.ne', fun e => absurd (k4 i c h e).1 state⟩

theorem State.Turn.reportsOk (h : s.Turn t) (hs : s.ReportsOk) : t.ReportsOk := by
  rw [State.reportsOk_iff] at hs ⊢
  obtain ⟨hser, hlink⟩ := hs
  have hn := h.counters.1
  have follows := h.table
  refine ⟨follows.serialsOk hn hser, fun m => ?_⟩
  -- the links are as they were, and the cues of their reports stay
  have kept (hl : t.links = s.links) (stay : ∀ (i : Fin 24) c, s.sched.table[i] = some c → c.origin = .machine m →
      c.state = .reporting → (∃ r ∈ (s.link m).done, r.uid = c.uid) → t.sched.table[i] ≠ none) :
      t.sched.LinkOk m (t.link m) := by
    have : t.link m = s.link m := by rw [State.link, hl, State.link]
    rw [this]
    exact follows.linkOk hn stay (hlink m)
  have stays (ht : ∀ i : Fin 24, s.sched.table[i] ≠ none → t.sched.table[i] ≠ none) (i : Fin 24) (c : Cue)
      (hc : s.sched.table[i] = some c) (_ : c.origin = .machine m) (_ : c.state = .reporting)
      (_ : ∃ r ∈ (s.link m).done, r.uid = c.uid) : t.sched.table[i] ≠ none :=
    ht i (by rw [hc]; exact fun e => (nomatch e))
  cases h with
  | around sched links _ => exact kept links (stays fun i hi => by rw [sched]; exact hi)
  | quiet f h => exact kept rfl (stays fun i hi => by rw [State.onSched_sched, h.table]; exact hi)
  | @cue r c d hc h _ =>
    refine kept rfl (stays fun i hi => ?_)
    rw [State.setCue_table]
    split
    · exact fun e => (nomatch e)
    · exact hi
  | @leave x r c d hx h =>
    refine kept hx.links (stays fun i hi => ?_)
    rw [State.setCue_table, hx.table]
    split
    · exact fun e => (nomatch e)
    · exact hi
  | @drop x r c hx h =>
    refine kept hx.links fun i d hd hm hst ⟨rep, hrep, hu⟩ => ?_
    rw [State.setCue_table, hx.table]
    split
    next e =>
      have hc : c = d := Option.some.inj ((show s.cue? (.slot i) = some c from e ▸ hx.1).symm.trans hd)
      subst hc
      obtain ⟨n, hn, hdone⟩ := h i e hst
      have : m = n := by
        rw [hm] at hn
        exact Origin.machine.inj hn
      subst this
      rw [hdone] at hrep
      cases hrep
    next => rw [hd]; exact fun e => (nomatch e)
  | @report x i c n o hx origin state purged =>
    have hu : x.sched.nextUid = s.sched.nextUid := by rw [hx.sched]
    have hlinks : x.link m = s.link m := by rw [State.link, hx.links, State.link]
    show (x.setCue (.slot i) (some (c.toReporting o))).sched.LinkOk m
      ((x.links.modify n fun l => l.joinDone c.uid c.id o c.flags c.preempts).get m)
    rw [PerSide.get_modify]
    split
    next e =>
      subst e
      rw [show x.links.get m = s.link m from hlinks]
      exact (hlink m).joinDone hser hx.1 hx.table hu state origin o purged
    next e =>
      rw [show x.links.get m = s.link m from hlinks]
      refine follows.linkOk hn (stays fun j hj => ?_) (hlink m)
      show (x.setCue (.slot i) (some (c.toReporting o))).sched.table[j] ≠ none
      rw [State.setCue_table, hx.table]
      split
      · exact fun e => (nomatch e)
      · exact hj
  | @freed v h =>
    refine kept rfl (stays fun i hi => ?_)
    rcases h i with e | ⟨c, -, -, e⟩
    · exact fun k => hi (e.symm.trans k)
    · exact fun k => by cases e.symm.trans k
  | @start r v c h =>
    refine kept (s.placed_links r v c) (stays fun i hi => ?_)
    have := (s.placed_sched r v c).1 (.slot i)
    rw [show (s.placed r v c).sched.table[i] = (s.placed r v c).cue? (.slot i) from rfl, this]
    split
    · exact fun e => (nomatch e)
    · exact hi
  | narrate _ => exact kept rfl (stays fun i hi => hi)
  | feed _ => exact kept rfl (stays fun i hi => hi)

/-! ### Reports through the other moves -/

/-- The links turn and the table stands. -/
theorem State.ReportsOk.of_links (hs : s.ReportsOk) (hsched : t.sched.table = s.sched.table)
    (hu : t.sched.nextUid = s.sched.nextUid) (hl : ∀ m, (s.link m).Turn (t.link m)) : t.ReportsOk := by
  rw [State.reportsOk_iff] at hs ⊢
  obtain ⟨hser, hlink⟩ := hs
  have follows : s.TableFollows t := .of_eq hsched
  exact ⟨follows.serialsOk hu.ge hser, fun m => follows.linkOk hu.ge
    (fun i c hc _ _ _ => by rw [hsched, hc]; exact fun e => (nomatch e)) ((hl m).linkOk hser (hlink m))⟩

theorem Link.Turn.refl (l : Link) : l.Turn l := .of_eq rfl (le_refl _)

theorem Link.Kept.turn {l k : Link} (h : l.Kept k) : l.Turn k := .of_same h.bounded h.done h.nextOrder h.tx

/-- A posted cue has a serial that no report names. -/
theorem State.ReportsOk.post (hs : s.ReportsOk) {i : Fin 24} {c : Cue} (free : s.sched.table[i] = none)
    (uid : c.uid = s.sched.nextUid) (f : Sched → Sched) (hf : f s.sched = { s.sched with
      table := s.sched.table.set i (some c), nextUid := s.sched.nextUid + 1, nextPosting := (f s.sched).nextPosting }) :
    (s.onSched f).ReportsOk := by
  rw [State.reportsOk_iff] at hs ⊢
  obtain ⟨⟨h1, h2⟩, hlink⟩ := hs
  have ht (j : Fin 24) : (s.onSched f).sched.table[j] = if i = j then some c else s.sched.table[j] := by
    rw [State.onSched_sched, hf]
    by_cases e : i = j
    · subst e; simp
    · simp [e, Vector.getElem_set_ne, Fin.val_ne_of_ne e]
  have hu : (s.onSched f).sched.nextUid = s.sched.nextUid + 1 := by rw [State.onSched_sched, hf]
  have cases_of {j : Fin 24} {d : Cue} (hd : (s.onSched f).sched.table[j] = some d) :
      (i = j ∧ d = c) ∨ s.sched.table[j] = some d := by
    rw [ht] at hd
    split at hd
    next e => exact .inl ⟨e, (Option.some.inj hd).symm⟩
    next => exact .inr hd
  refine ⟨⟨fun j k d e hd he huid => ?_, fun j d hd => ?_⟩, fun m => ⟨⟨(hlink m).1.1, fun r hr => ?_⟩, fun g hg => ?_⟩⟩
  · rcases cases_of hd with ⟨rfl, rfl⟩ | hd <;> rcases cases_of he with ⟨rfl, rfl⟩ | he
    · rfl
    · exact absurd (h2 k e he) (by omega)
    · exact absurd (h2 j d hd) (by omega)
    · exact h1 j k d e hd he huid
  · rw [hu]
    rcases cases_of hd with ⟨-, rfl⟩ | hd
    · omega
    · exact Nat.lt_succ_of_lt (h2 j d hd)
  · obtain ⟨ho, j, d, hd, k⟩ := (hlink m).1.2 r hr
    refine ⟨ho, j, d, ?_, k⟩
    rw [ht, if_neg]
    · exact hd
    · rintro rfl
      rw [free] at hd
      cases hd
  · obtain ⟨k1, k2, k3, k4⟩ := (hlink m).2 g hg
    refine ⟨k1, by rw [hu]; exact Nat.lt_succ_of_lt k2, k3, fun j d hd e => ?_⟩
    rcases cases_of hd with ⟨-, rfl⟩ | hd
    · omega
    · exact k4 j d hd e

/-- The notice of a sent report takes it from its list and frees its cue (R52). -/
theorem State.ReportsOk.frameSent (hs : s.ReportsOk) (m : Side) : (s.frameSent m).ReportsOk := by
  have quiet (f : TxFrame) (hf : ∀ r, f ≠ .done r) : (s.onLink m fun l => l.sent f).ReportsOk := by
    refine hs.of_links rfl rfl fun n => ?_
    rw [State.link_onLink]
    split
    · cases f with
      | done r => exact absurd rfl (hf r)
      | input r => exact ⟨Link.sent_bounded _ _, List.Sublist.refl _, le_refl _, fun g e => (nomatch e)⟩
      | _ => exact ⟨Link.sent_bounded _ _, List.Sublist.refl _, le_refl _, fun g e => (nomatch e)⟩
    · exact .refl _
  unfold State.frameSent
  split
  next => exact hs
  next f hf =>
    dsimp only
    split
    next _ r =>
      rw [State.reportsOk_iff] at hs ⊢
      obtain ⟨hser, hlink⟩ := hs
      have hr := (hlink m).2 r hf
      have hturn (n : Side) : (s.link n).Turn ((s.onLink m fun l => l.sent (.done r)).link n) := by
        rw [State.link_onLink]
        split
        · exact ⟨Link.sent_bounded _ _, List.filter_sublist, le_refl _, fun g e => (nomatch e)⟩
        · exact .refl _
      have mid (n : Side) := (hturn n).linkOk hser (hlink n)
      generalize hx : s.onLink m (fun l => l.sent (.done r)) = x at mid
      have hxs : x.sched = s.sched := by rw [← hx]; rfl
      rw [← hxs] at mid hser
      unfold State.releaseReported
      split
      next => exact ⟨hser, mid⟩
      next p hp =>
        have hc : x.sched.table[p.1] = some p.2 := (x.mem_tableCues p.1 p.2).1 (List.mem_of_find?_eq_some hp)
        have hpr := List.find?_some hp
        simp only [Bool.and_eq_true, decide_eq_true_eq] at hpr
        have follows : x.TableFollows (x.setCue (.slot p.1) none) := .setCue rfl hc fun d e => (nomatch e)
        refine ⟨follows.serialsOk (le_refl _) hser, fun n => follows.linkOk (le_refl _) (fun i c hic hor hst ⟨q, hq, hqu⟩ => ?_) (mid n)⟩
        rw [State.setCue_table]
        split
        next e =>
          exfalso
          cases e
          have hpc : c = p.2 := Option.some.inj (hic.symm.trans hc)
          subst hpc
          have hm : p.2.origin = .machine m := by
            rw [hxs] at hc
            exact (hr.2.2.2 p.1 p.2 hc hpr.1).2
          have hnm : n = m := by
            rw [hor] at hm
            exact Origin.machine.inj hm
          subst hnm
          have hq : q ∈ (x.link n).done := hq
          rw [← hx, State.link_onLink, if_pos rfl] at hq
          simp only [Link.sent, List.mem_filter, decide_eq_true_eq, ne_eq] at hq
          exact hq.2 ((hr.2.2.1 q hq.1).2 (hqu.trans hpr.1))
        next => rw [hic]; exact fun e => (nomatch e)
    next hne => exact quiet f fun r e => hne r e

theorem State.Move.reportsOk (h : s.Move t) (hs : s.ReportsOk) : t.ReportsOk := by
  have link {m : Side} {f : Link → Link} (h : (s.link m).Turn (f (s.link m))) : (s.onLink m f).ReportsOk := by
    refine hs.of_links rfl rfl fun n => ?_
    rw [State.link_onLink]
    split
    next e => subst e; exact h
    next => exact .refl _
  cases h with
  | calm h =>
    cases h with
    | turn h => exact h.reportsOk hs
    | post free _ uid _ _ => exact hs.post free uid _ rfl
    | link h => exact link h
    | _ => exact hs
  | link h => exact link h
  | check f h =>
    obtain ⟨L, st, e, -, -, -, hL⟩ := s.checkDone_eq f
    rw [e]
    exact hs.of_links rfl rfl fun m => (hL m).turn
  | sent m => exact hs.frameSent m
  | _ => exact hs

/-- A link's reports are of different cues of its machine, so they are no more than those cues. -/
theorem State.ReportsOk.done_le (hs : s.ReportsOk) (m : Side) : (s.link m).done.length ≤ s.machineCount m := by
  rw [State.reportsOk_iff] at hs
  obtain ⟨hlist, hmem⟩ := (hs.2 m).1
  have hnodup : ((s.link m).done.map DoneReport.uid).Nodup := by
    rw [List.Nodup, List.pairwise_map]
    exact hlist.imp fun h => h.2
  have hsub : (s.link m).done.map DoneReport.uid ⊆ (s.tableCues.filter fun p => p.2.ofMachine m).map fun p => p.2.uid := by
    intro u hu
    obtain ⟨r, hr, rfl⟩ := List.mem_map.1 hu
    obtain ⟨-, i, c, hc, hcu, ho, hst⟩ := hmem r hr
    refine List.mem_map.2 ⟨(i, c), List.mem_filter.2 ⟨(s.mem_tableCues i c).2 hc, ?_⟩, hcu⟩
    simp [Cue.ofMachine, ho, Cue.not_purged (c := c) (by simp [hst])]
  have := (List.subperm_of_subset hnodup hsub).length_le
  simpa [State.machineCount] using this

theorem State.Move.markers (h : s.Move t) (m : Side) (hs : (s.sched.markers.get m).length ≤ 4) :
    (t.sched.markers.get m).length ≤ 4 := by
  cases h with
  | calm h =>
    cases h with
    | turn h => exact h.counters.2 m hs
    | _ => exact hs
  | check f h => rw [State.checkDone_sched]; exact hs
  | sent n =>
    obtain ⟨f, v, e, -⟩ := s.frameSent_eq n
    rw [e]
    exact hs
  | _ => exact hs

theorem State.reset_reportsOk : State.reset.ReportsOk := by
  have ht (i : Fin 24) : State.reset.sched.table[i] = none := by simp [State.reset, resetSched]
  refine ⟨fun i j c d hc => ?_, fun i c hc => ?_, fun m => ?_⟩
  · rw [ht] at hc
    cases hc
  · rw [ht] at hc
    cases hc
  · cases m <;> exact ⟨.nil, fun r h => (nomatch h), fun f h => (nomatch h)⟩

/-- Settles O57: turns, posts and frames keep lists and table in agreement, and distinct serials bound the lists. -/
theorem stepKeepsReports : Obligations.StepKeepsReports := by
  refine ⟨fun s t hs h => ?_, fun s m hs h => (hs.done_le m).trans h, fun s t m hs h => ?_⟩
  · exact step_keeps (P := State.ReportsOk) (fun h => h.reportsOk) (fun _ _ => State.reset_reportsOk) (fun _ _ _ h => h)
      (fun _ _ h => h) hs h
  · exact step_keeps (P := fun s => (s.sched.markers.get m).length ≤ 4) (fun h => h.markers m)
      (fun _ _ => by cases m <;> exact Nat.zero_le _) (fun _ _ _ h => h) (fun _ _ h => h) hs h

end Sys2Proof.Machine
end

section
/-! SUPPORT. Deferred requests and their work in the Store Interface through every effect (O59). -/

namespace Sys2Proof.Machine

variable {s t u : State}

/-! ### The law, said of one link and of the Store Interface -/

/-- A link's request in service agrees with the transfers and the waiters (R9, R90, R121). -/
def Store.Serves (st : Store) (m : Side) (service : Option InService) (replied : Bool) : Prop :=
  let own := st.chanG.filter fun t => t.link = m
  match service with
  | none => own = [] ∧ st.currentWaiters.get m = false ∧ st.nextWaiters.get m = false
  | some r =>
    replied = false ∧
      match r.kind with
      | .sceneFromStore => own.length = 1 ∧ st.currentWaiters.get m = false ∧ st.nextWaiters.get m = false
      | .storeCheck => own = [] ∧ (st.currentWaiters.get m ≠ st.nextWaiters.get m)

/-- What a link shows the Store Interface. -/
def Link.serviceView (l : Link) : Option InService × Bool := (l.inService, l.reply.isSome)

def State.ServesAt (s : State) (m : Side) : Prop := s.store.Serves m (s.link m).serviceView.1 (s.link m).serviceView.2

/-- The Store Interface's own bookkeeping. -/
def Store.Consistent (st : Store) : Prop :=
  (st.port = .check ↔ st.check = .running) ∧ (st.check = .idle → st.currentWaiters = .both false) ∧
    (st.nextWaiters ≠ .both false → st.check = .running) ∧ (st.grantedFirst = true → st.check = .pending) ∧
    (st.port = .g → st.chanG ≠ []) ∧
    ∀ t ∈ st.chanG, t.bytesDone % 32 = 0 ∧ t.bytesDone < 256 ∧ (t.slot.val < 8 ↔ t.link = .w)

theorem State.serviceOk_iff (s : State) : s.ServiceOk ↔ (∀ m, s.ServesAt m) ∧ s.store.Consistent := by
  have h (m : Side) : s.ServiceOkAt m ↔ s.ServesAt m := by
    unfold State.ServiceOkAt State.ServesAt Store.Serves Link.serviceView
    dsimp only
    cases (s.link m).inService with
    | none => rfl
    | some r =>
      dsimp only
      refine and_congr (by rw [Option.isSome_eq_false_iff, Option.isNone_iff_eq_none]) ?_
      cases r.kind <;> rfl
  constructor
  · rintro ⟨h1, h2, h3⟩
    exact ⟨fun m => by cases m; exacts [(h .w).1 h1, (h .d).1 h2], h3⟩
  · rintro ⟨h1, h2⟩
    exact ⟨(h .w).2 (h1 .w), (h .d).2 (h1 .d), h2⟩

/-- The fields of the Store Interface that the law speaks of, but for the port, stand. -/
structure Store.SameWork (a b : Store) : Prop where
  chanG : b.chanG = a.chanG
  current : b.currentWaiters = a.currentWaiters
  next : b.nextWaiters = a.nextWaiters
  check : b.check = a.check
  granted : b.grantedFirst = a.grantedFirst

/-- The law of a link looks at its own transfers and its own waiting. -/
theorem Store.Serves.of_own {a b : Store} {m : Side} {service : Option InService} {replied : Bool}
    (own : (b.chanG.filter fun t => t.link = m) = a.chanG.filter fun t => t.link = m)
    (cur : b.currentWaiters.get m = a.currentWaiters.get m) (next : b.nextWaiters.get m = a.nextWaiters.get m)
    (hs : a.Serves m service replied) : b.Serves m service replied := by
  unfold Store.Serves at *
  rw [own, cur, next]
  exact hs

theorem Store.Serves.congr {a b : Store} (h : a.SameWork b) {m : Side} {service : Option InService} {replied : Bool}
    (hs : a.Serves m service replied) : b.Serves m service replied :=
  hs.of_own (by rw [h.chanG]) (by rw [h.current]) (by rw [h.next])

theorem Store.Consistent.congr {a b : Store} (h : a.SameWork b)
    (port : b.port = a.port ∨ (a.port ≠ .check ∧ b.port ≠ .check ∧ (b.port = .g → a.chanG ≠ []))) (ha : a.Consistent) :
    b.Consistent := by
  obtain ⟨h1, h2, h3, h4, h5, h6⟩ := ha
  unfold Store.Consistent
  rw [h.chanG, h.current, h.next, h.check, h.granted]
  rcases port with e | ⟨ha, hb, hg⟩
  · rw [e]
    exact ⟨h1, h2, h3, h4, h5, h6⟩
  · exact ⟨⟨fun e => absurd e hb, fun e => absurd (h1.2 e) ha⟩, h2, h3, h4, hg, h6⟩

/-- Requests in service, replies and the Store Interface's work stand; an S burst may be cut off (R120). -/
structure State.SameService (s t : State) : Prop where
  link : ∀ m, (t.link m).serviceView = (s.link m).serviceView
  work : s.store.SameWork t.store
  port : t.store.port = s.store.port ∨ (s.store.port = .s ∧ t.store.port = .idle)

theorem State.SameService.refl (s : State) : s.SameService s := ⟨fun _ => rfl, ⟨rfl, rfl, rfl, rfl, rfl⟩, .inl rfl⟩

theorem State.SameService.trans (h : s.SameService t) (g : t.SameService u) : s.SameService u where
  link m := (g.link m).trans (h.link m)
  work := ⟨g.work.chanG.trans h.work.chanG, g.work.current.trans h.work.current, g.work.next.trans h.work.next,
    g.work.check.trans h.work.check, g.work.granted.trans h.work.granted⟩
  port := by
    rcases g.port with e | ⟨e1, e2⟩
    · rcases h.port with k | ⟨k1, k2⟩
      · exact .inl (e.trans k)
      · exact .inr ⟨k1, e.trans k2⟩
    · rcases h.port with k | ⟨k1, k2⟩
      · exact .inr ⟨k.symm.trans e1, e2⟩
      · rw [k2] at e1
        cases e1

theorem State.SameService.serviceOk (h : s.SameService t) (hs : s.ServiceOk) : t.ServiceOk := by
  rw [State.serviceOk_iff] at *
  refine ⟨fun m => ?_, hs.2.congr h.work ?_⟩
  · have := (hs.1 m).congr h.work
    unfold State.ServesAt
    rw [h.link m]
    exact this
  · rcases h.port with e | ⟨e1, e2⟩
    · exact .inl e
    · exact .inr ⟨by simp [e1], by simp [e2], by simp [e2]⟩

theorem State.SameService.onLink {m : Side} {f : Link → Link} (h : (f (s.link m)).serviceView = (s.link m).serviceView) :
    s.SameService (s.onLink m f) := by
  refine ⟨fun n => ?_, ⟨rfl, rfl, rfl, rfl, rfl⟩, .inl rfl⟩
  rw [State.link_onLink]
  split
  next e => subst e; exact h
  next => rfl

theorem State.SameService.of_outside (h : s.SameOutside t) : s.SameService t := by
  refine ⟨fun m => ?_, ?_, h.port⟩
  · unfold Link.serviceView
    rw [h.inService, h.reply]
  · rw [h.store]
    exact ⟨rfl, rfl, rfl, rfl, rfl⟩

/-- A calm run serves nothing and ends no work. -/
theorem State.Calms.sameService (h : s.Calms t) : s.SameService t := by
  refine h.keeps (P := fun x => s.SameService x) (fun {x y} h g => g.trans ?_) (.refl s)
  cases h with
  | turn h => exact .of_outside h.frame
  | link _ inService reply => exact .onLink (by unfold Link.serviceView; rw [inService, reply])
  | _ => exact ⟨fun _ => rfl, ⟨rfl, rfl, rfl, rfl, rfl⟩, .inl rfl⟩

/-! ### The port and the check (R91, R116) -/

theorem State.onStore_serviceOk {f : Store → Store} (hs : s.ServiceOk) (serves : ∀ m x y, s.store.Serves m x y → (f s.store).Serves m x y)
    (h : s.store.Consistent → (f s.store).Consistent) : (s.onStore f).ServiceOk := by
  rw [State.serviceOk_iff] at *
  exact ⟨fun m => serves m _ _ (hs.1 m), h hs.2⟩

theorem State.eligibleG_chanG (h : s.eligibleG = true) : s.store.chanG ≠ [] ∧ s.store.check ≠ .running := by
  simp only [State.eligibleG, Bool.and_eq_true, Bool.not_eq_true', List.isEmpty_eq_false_iff, decide_eq_true_eq] at h
  exact h

theorem State.checkCanBegin_pending (h : s.checkCanBegin = true) : s.store.check = .pending ∧ s.store.port ≠ .g := by
  simp only [State.checkCanBegin, Bool.and_eq_true, decide_eq_true_eq] at h
  exact ⟨h.1.1.1, h.2⟩

theorem State.grantRace_serviceOk (hs : s.ServiceOk) : s.grantRace.ServiceOk := by
  unfold State.grantRace
  split
  next h =>
    simp only [Bool.and_eq_true, decide_eq_true_eq] at h
    obtain ⟨⟨⟨⟨hc, -⟩, hp⟩, -⟩, hg⟩ := h
    obtain ⟨hpend, -⟩ := State.checkCanBegin_pending hc
    refine State.onStore_serviceOk hs (fun m x y h => h) fun ⟨h1, h2, h3, _, _, h6⟩ => ?_
    refine ⟨?_, h2, h3, fun _ => hpend, fun _ => (State.eligibleG_chanG hg).1, h6⟩
    rw [racePort]
    split <;> simp [hpend, hp]
  next => exact hs

theorem State.tryBeginCheck_serviceOk (hs : s.ServiceOk) : s.tryBeginCheck.ServiceOk := by
  unfold State.tryBeginCheck
  split
  next h =>
    exact State.onStore_serviceOk hs (fun m x y h => h) fun ⟨_, _, _, _, _, h6⟩ =>
      ⟨by simp, by simp, by simp, by simp, by simp, h6⟩
  next => exact hs

theorem State.portDecide_serviceOk (hs : s.ServiceOk) : s.portDecide.ServiceOk := by
  have grant (p : PortUser) (hi : s.store.port = .idle) (hp : p ≠ .check) (hg : p = .g → s.store.chanG ≠ []) :
      (s.onStore fun st => { st with port := p }).ServiceOk :=
    State.onStore_serviceOk hs (fun m x y h => h) fun h =>
      Store.Consistent.congr (a := s.store) ⟨rfl, rfl, rfl, rfl, rfl⟩ (.inr ⟨by simp [hi], hp, hg⟩) h
  unfold State.portDecide
  split
  next hi =>
    split
    · exact grant .s hi (by simp) (by simp)
    · split
      next hg => exact grant .g hi (by simp) fun _ => (State.eligibleG_chanG hg).1
      next => exact hs
  next => exact hs

theorem State.settle_serviceOk (hs : s.ServiceOk) : s.settle.ServiceOk := by
  have h1 : s.settleArb.ServiceOk := (State.SameService.of_outside s.settleArb_frame).serviceOk hs
  have h2 := State.portDecide_serviceOk (State.tryBeginCheck_serviceOk (State.grantRace_serviceOk h1))
  exact ((State.txChoose_calms _ .w).trans (State.txChoose_calms _ .d)).sameService.serviceOk h2

/-! ### Requests (R6 to R10, R90, R121) -/

/-- A reply at a link with nothing in service. -/
theorem State.formReply_serviceOk (hs : s.ServiceOk) {m : Side} (h : (s.link m).inService = none) (e : BitVec 7) (b : ReplyBody)
    (n : Bool) : (s.formReply m e b n).ServiceOk := by
  rw [State.serviceOk_iff] at *
  refine ⟨fun k => ?_, hs.2⟩
  unfold State.ServesAt State.formReply
  rw [State.link_onLink]
  by_cases ek : k = m
  · subst ek
    have := hs.1 k
    simp only [State.ServesAt, Link.serviceView, h, if_true] at this ⊢
    exact this
  · rw [if_neg ek]
    exact hs.1 k

/-- A link with nothing in service has no transfer and no check. -/
theorem State.ServesAt.none {m : Side} (h : s.ServesAt m) (hm : (s.link m).inService = none) :
    (s.store.chanG.filter fun t => t.link = m) = [] ∧ s.store.currentWaiters.get m = false ∧ s.store.nextWaiters.get m = false := by
  simpa [State.ServesAt, Store.Serves, Link.serviceView, hm] using h

/-- A request enters service with its work under way: the other link is not touched. -/
theorem State.deferred_serviceOk {x : State} (hs : s.ServiceOk) {m : Side} (hr : (s.link m).reply = none) {kind : DeferredKind}
    (note : Bool) (f : Store → Store) (hx : State.SameService (s.onStore f) x)
    (other : ∀ n, n ≠ m → ∀ a b, s.store.Serves n a b → (f s.store).Serves n a b)
    (own : (f s.store).Serves m (some { kind, note }) false) (h : s.store.Consistent → (f s.store).Consistent) :
    (x.onLink m fun l => { l with inService := some { kind, note } }).ServiceOk := by
  have hmid : State.SameService ((s.onStore f).onLink m fun l => { l with inService := some { kind, note } })
      (x.onLink m fun l => { l with inService := some { kind, note } }) := by
    refine ⟨fun n => ?_, hx.work, hx.port⟩
    have hn := hx.link n
    rw [State.link_onLink, State.link_onLink]
    split
    · simp only [Link.serviceView, Prod.mk.injEq] at hn ⊢
      exact ⟨trivial, hn.2⟩
    · exact hn
  refine hmid.serviceOk ?_
  rw [State.serviceOk_iff] at *
  refine ⟨fun n => ?_, h hs.2⟩
  unfold State.ServesAt
  rw [State.link_onLink]
  split
  next e =>
    subst e
    have : ((s.onStore f).link n).reply = none := hr
    simp only [Link.serviceView, this]
    exact own
  next e => exact other n e _ _ (hs.1 n)

theorem sceneSlot_side (m : Side) (k : Fin 8) : (sceneSlot m k).val < 8 ↔ m = .w := by
  cases m <;> simp [sceneSlot]

/-- SCENE_FROM_STORE: the transfer joins the list as its request enters service (R121). -/
theorem State.startTransfer_serviceOk {x : State} (hs : s.ServiceOk) {m : Side} (hm : (s.link m).inService = none)
    (hr : (s.link m).reply = none) (k : Fin 8) (a : Nat) (note : Bool) (hx : (s.startTransfer m k a).SameService x) :
    (x.onLink m fun l => { l with inService := some { kind := .sceneFromStore, note } }).ServiceOk := by
  have hserves := ((State.serviceOk_iff s).1 hs).1 m
  obtain ⟨hown, hcur, hnext⟩ := hserves.none hm
  refine State.deferred_serviceOk (s := s) hs hr note (fun st =>
    { st with chanG := st.chanG ++ [{ link := m, slot := sceneSlot m k, start := a, bytesDone := 0 }] }) ?_ ?_ ?_ ?_
  · exact State.SameService.trans (t := s.startTransfer m k a) ⟨fun _ => rfl, ⟨rfl, rfl, rfl, rfl, rfl⟩, .inl rfl⟩ hx
  · intro n hn y z h
    refine Store.Serves.of_own (a := s.store) ?_ rfl rfl h
    rw [List.filter_append, List.append_right_eq_self, List.filter_eq_nil_iff]
    intro t ht
    obtain rfl := List.mem_singleton.1 ht
    simpa using fun e : m = n => hn e.symm
  · refine ⟨rfl, ?_, hcur, hnext⟩
    rw [List.filter_append, hown]
    simp
  · rintro ⟨h1, h2, h3, h4, -, h6⟩
    refine ⟨h1, h2, h3, h4, fun _ => by simp, fun t ht => ?_⟩
    rcases List.mem_append.1 ht with ht | ht
    · exact h6 t ht
    · obtain rfl := List.mem_singleton.1 ht
      exact ⟨rfl, by simp, sceneSlot_side m k⟩

theorem PerSide.both_false_iff {p : PerSide Bool} : p = .both false ↔ ∀ m, p.get m = false := by
  constructor
  · rintro rfl m
    simp
  · exact fun h => PerSide.ext_get fun m => by rw [h m, PerSide.get_both]

/-- STORE_CHECK: its link waits for a check as it enters service (R90). -/
theorem State.takeStoreCheck_serviceOk {x : State} (hs : s.ServiceOk) {m : Side} (hm : (s.link m).inService = none)
    (hr : (s.link m).reply = none) (note : Bool) (hx : (s.takeStoreCheck m).SameService x) :
    (x.onLink m fun l => { l with inService := some { kind := .storeCheck, note } }).ServiceOk := by
  obtain ⟨hlinks, hst⟩ := (State.serviceOk_iff s).1 hs
  obtain ⟨hown, hcur, hnext⟩ := (hlinks m).none hm
  -- the waiters that a `join` of link `m` leaves to the other link
  have join (f : Store → Store) (hf : State.SameService (s.onStore f) (s.takeStoreCheck m))
      (hG : (f s.store).chanG = s.store.chanG)
      (hc : ∀ n, n ≠ m → (f s.store).currentWaiters.get n = s.store.currentWaiters.get n)
      (hn : ∀ n, n ≠ m → (f s.store).nextWaiters.get n = s.store.nextWaiters.get n)
      (hown' : (f s.store).currentWaiters.get m ≠ (f s.store).nextWaiters.get m)
      (h : s.store.Consistent → (f s.store).Consistent) :
      (x.onLink m fun l => { l with inService := some { kind := .storeCheck, note } }).ServiceOk := by
    refine State.deferred_serviceOk hs hr note f (hf.trans hx) (fun n hne a b k => ?_) ⟨rfl, by rw [hG]; exact hown, hown'⟩ h
    exact k.of_own (by rw [hG]) (hc n hne) (hn n hne)
  obtain ⟨h1, h2, h3, h4, h5, h6⟩ := hst
  cases hcheck : s.store.check with
  | idle =>
    have hcurrent := h2 hcheck
    have e : s.takeStoreCheck m = (s.onStore fun st => { st with
        currentWaiters := (PerSide.both false).set m true, askedAt := some s.now, check := .pending }).endPathReservation := by
      unfold State.takeStoreCheck
      rw [hcheck]
      rfl
    refine join (fun st => { st with
      currentWaiters := (PerSide.both false).set m true, askedAt := some s.now, check := .pending }) ?_ rfl ?_ ?_ ?_ ?_
    · rw [e]
      exact (State.Calms.of_turns (State.endPathReservation_turns _)).sameService
    · intro n hne
      simp [PerSide.get_set_of_ne _ _ hne, hcurrent]
    · exact fun _ _ => rfl
    · simp [hnext]
    · intro _
      refine ⟨?_, by simp, fun e => ?_, fun _ => rfl, h5, h6⟩
      · simp only [reduceCtorEq, iff_false]
        exact fun e => absurd (h1.1 e) (by simp [hcheck])
      · exact absurd (h3 e) (by simp [hcheck])
  | pending =>
    have e : s.takeStoreCheck m = s.onStore fun st => st.joinCurrent m := by
      unfold State.takeStoreCheck
      rw [hcheck]
    refine join (fun st => st.joinCurrent m) (by rw [e]; exact .refl _) rfl ?_ ?_ ?_ ?_
    · exact fun n hne => PerSide.get_set_of_ne _ _ hne
    · exact fun _ _ => rfl
    · simp [Store.joinCurrent, hnext]
    · exact fun _ => ⟨h1, fun e => by simp [Store.joinCurrent, hcheck] at e, h3, h4, h5, h6⟩
  | running =>
    have e : s.takeStoreCheck m = s.onStore fun st => if st.askedAt = some s.now then st.joinCurrent m else st.joinNext m := by
      unfold State.takeStoreCheck
      rw [hcheck]
    by_cases ha : s.store.askedAt = some s.now
    · refine join (fun st => if st.askedAt = some s.now then st.joinCurrent m else st.joinNext m) (by rw [e]; exact .refl _) ?_ ?_ ?_ ?_ ?_
      all_goals simp only [ha, if_true]
      · rfl
      · exact fun n hne => PerSide.get_set_of_ne _ _ hne
      · exact fun _ _ => rfl
      · simp [Store.joinCurrent, hnext]
      · exact fun _ => ⟨h1, fun e => by simp [Store.joinCurrent, hcheck] at e, h3, h4, h5, h6⟩
    · refine join (fun st => if st.askedAt = some s.now then st.joinCurrent m else st.joinNext m) (by rw [e]; exact .refl _) ?_ ?_ ?_ ?_ ?_
      all_goals simp only [ha, if_false]
      · rfl
      · exact fun _ _ => rfl
      · exact fun n hne => PerSide.get_set_of_ne _ _ hne
      · simp [Store.joinNext, hcur]
      · exact fun _ => ⟨h1, h2, fun _ => hcheck, h4, h5, h6⟩

/-- Only the Store Interface defers a request (R9). -/
theorem State.handle_not_deferred (s : State) (m : Side) (k : RequestKind) (p : List Byte) (hk : k ≠ .sceneFromStore)
    (hk' : k ≠ .storeCheck) (kind : DeferredKind) : (s.handle m k p).1 ≠ .deferred kind := by
  have fields {α : Type} (x : Option α) (f : α → Verdict × State) (h : ∀ a, (f a).1 ≠ .deferred kind) :
      (withFields s x f).1 ≠ .deferred kind := by
    cases x with
    | none => exact fun e => (nomatch e)
    | some a => exact h a
  cases k with
  | sceneFromStore => exact absurd rfl hk
  | storeCheck => exact absurd rfl hk'
  | attach | status | speakerReset => exact fun e => (nomatch e)
  | context | programs | bandText | profile | lampSet | inputMask | inputFilter | speakerSetup =>
    exact fields _ _ fun _ e => (nomatch e)
  | focusClaim =>
    simp only [State.handle, State.focusClaim]
    repeat' split
    all_goals exact fun e => (nomatch e)
  | cuePost =>
    refine fields _ _ fun r => ?_
    simp only [State.cuePost]
    repeat' split
    all_goals exact fun e => (nomatch e)
  | cueCancel =>
    refine fields _ _ fun r => ?_
    simp only [State.cueCancel]
    split
    all_goals exact fun e => (nomatch e)
  | cueQuery =>
    refine fields _ _ fun r => ?_
    simp only [State.cueQuery]
    split
    all_goals exact fun e => (nomatch e)
  | fence =>
    simp only [State.handle, State.fence]
    repeat' split
    all_goals exact fun e => (nomatch e)
  | toneDefine =>
    refine fields _ _ fun r => ?_
    simp only [State.toneDefine]
    repeat' split
    all_goals exact fun e => (nomatch e)
  | sceneWrite =>
    refine fields _ _ fun r => ?_
    simp only [State.sceneWrite]
    split
    all_goals exact fun e => (nomatch e)
  | inputForce =>
    refine fields _ _ fun r => ?_
    simp only [State.inputForce]
    split
    all_goals exact fun e => (nomatch e)

theorem State.serveRequest_serviceOk (hs : s.ServiceOk) {m : Side} (hm : (s.link m).inService = none)
    (hr : (s.link m).reply = none) (k : RequestKind) (note : Bool) (p : List Byte) (hl : lenAllowed k p = true)
    (ha : k = .focusClaim → s.attached m = true) : (s.serveRequest m k note p).ServiceOk := by
  -- a verdict that is answered at once
  have answered (x : State) (hx : s.SameService x) (body : ReplyBody) :
      (x.settleArb.formReply m k.code body note).ServiceOk := by
    have h := hx.trans (.of_outside x.settleArb_frame)
    refine State.formReply_serviceOk (h.serviceOk hs) ?_ _ _ _
    have := h.link m
    simp only [Link.serviceView, Prod.mk.injEq] at this
    exact this.1.trans hm
  have kinds : (∃ kind, (s.handle m k p).1 = .deferred kind ∧ ∀ x, (s.handle m k p).2.SameService x →
        (x.onLink m fun l => { l with inService := some { kind, note } }).ServiceOk) ∨
      ((∀ kind, (s.handle m k p).1 ≠ .deferred kind) ∧ s.SameService (s.handle m k p).2) := by
    by_cases h1 : k = .sceneFromStore
    · subst h1
      simp only [State.handle, withFields]
      split
      next r hf =>
        unfold State.sceneFromStore
        split
        · exact .inr ⟨fun _ e => (nomatch e), .refl s⟩
        · split
          · exact .inr ⟨fun _ e => (nomatch e), .refl s⟩
          · exact .inr ⟨fun _ e => (nomatch e), .refl s⟩
          · exact .inl ⟨_, rfl, fun x hx => State.startTransfer_serviceOk hs hm hr _ _ note hx⟩
      next => exact .inr ⟨fun _ e => (nomatch e), .refl s⟩
    · by_cases h2 : k = .storeCheck
      · subst h2
        exact .inl ⟨_, rfl, fun x hx => State.takeStoreCheck_serviceOk hs hm hr note hx⟩
      · exact .inr ⟨s.handle_not_deferred m k p h1 h2, (s.handle_calms m k p h1 h2 hl ha).sameService⟩
  unfold State.serveRequest
  dsimp only
  rcases kinds with ⟨kind, e, hx⟩ | ⟨hno, hx⟩
  · rw [e]
    exact hx _ (.of_outside (State.settleArb_frame _))
  · cases e : (s.handle m k p).1 with
    | deferred kind => exact absurd e (hno kind)
    | refused reason => exact answered _ hx _
    | done result =>
      dsimp only
      split
      · exact (State.clearStatus_calms _ m).sameService.serviceOk (answered _ hx _)
      · exact answered _ hx _

theorem State.dispatchHead_serviceOk (hs : s.ServiceOk) (m : Side) : (s.dispatchHead m).ServiceOk := by
  unfold State.dispatchHead
  split
  next hfree =>
    simp only [Link.free, Bool.and_eq_true, Option.isNone_iff_eq_none] at hfree
    split
    next => exact hs
    next e rest hq =>
      have hpop := (s.popQueue_calms m hq).sameService.serviceOk hs
      have hm : ((s.onLink m fun l => { l with queue := rest }).link m).inService = none := by
        rw [State.link_onLink_same]; exact hfree.1
      have hr : ((s.onLink m fun l => { l with queue := rest }).link m).reply = none := by
        rw [State.link_onLink_same]; exact hfree.2
      generalize s.onLink m (fun l => { l with queue := rest }) = x at *
      unfold State.dispatchEntry
      split
      next => exact State.formReply_serviceOk hpop hm _ _ _
      next =>
        split
        next => exact State.formReply_serviceOk hpop hm _ _ _
        next k _ =>
          unfold State.dispatchRequest
          split
          next => exact State.formReply_serviceOk hpop hm _ _ _
          next h =>
            obtain ⟨hl, ha⟩ := State.of_linkRefusal_none h
            exact State.serveRequest_serviceOk hpop hm hr k _ _ hl fun e => (ha (by subst e; rfl)).2
  next => exact hs

theorem State.submit_serviceOk (hs : s.ServiceOk) (m : Side) (k : RequestKind) (note : Bool) (p : List Byte) :
    (s.submit m k note p).ServiceOk := by
  have h : (s.onLink m fun l => l.offer (.request k.code note p)).ServiceOk :=
    (State.onLink_calms (fun l => l.offer_turn _) fun l => l.offer_service _).sameService.serviceOk hs
  unfold State.submit
  dsimp only
  split
  · exact State.dispatchHead_serviceOk h m
  · exact h

/-! ### The end of deferred work (R95, R122) -/

/-- What a link shows once its deferred work has ended, if it had any. -/
def Link.answeredView (l : Link) (ended : Bool) : Option InService × Bool :=
  if ended && l.inService.isSome then (none, true) else l.serviceView

@[simp] theorem Link.answeredView_false (l : Link) : l.answeredView false = l.serviceView := rfl

theorem Link.answeredView_congr {l k : Link} (h : l.serviceView = k.serviceView) (b : Bool) : l.answeredView b = k.answeredView b := by
  have : l.inService = k.inService := congrArg Prod.fst h
  rw [Link.answeredView, Link.answeredView, h, this]

theorem State.finishDeferred_view (s : State) (m n : Side) (b : List Byte) :
    (s.finishDeferred m b).store = s.store ∧
      ((s.finishDeferred m b).link n).serviceView = (s.link n).answeredView (decide (n = m)) := by
  unfold State.finishDeferred
  split
  next h =>
    refine ⟨rfl, ?_⟩
    by_cases e : n = m
    · subst e
      simp [Link.answeredView, h]
    · simp [e]
  next r h =>
    refine ⟨rfl, ?_⟩
    simp only [State.formReply, State.link_onLink]
    by_cases e : n = m
    · subst e
      simp [Link.serviceView, Link.answeredView, h]
    · simp [e]

/-- What the links have in service as a check hands off (R95 step 5). -/
theorem State.answerWaiter_view (s : State) (m n : Side) :
    (s.answerWaiter m).store = s.store ∧ ((s.answerWaiter m).link n).serviceView =
      (s.link n).answeredView (decide (n = m) && s.store.currentWaiters.get m) := by
  unfold State.answerWaiter
  split
  next h =>
    obtain ⟨h1, h2⟩ := s.finishDeferred_view m n [storeByte s.store.state]
    exact ⟨h1, by rw [h2, h, Bool.and_true]⟩
  next h =>
    rw [Bool.not_eq_true] at h
    exact ⟨rfl, by rw [h, Bool.and_false]; rfl⟩

theorem State.storeFault_view (s : State) (n : Side) : (s.storeFault.link n).serviceView = (s.link n).serviceView := by
  have h := (State.onAttachedLinks_calms (s := s) Link.storeFault_turn Link.storeFault_service).sameService.link n
  exact h

theorem State.answerWaiters_view (s : State) (m : Side) : (((s.answerWaiter .w).answerWaiter .d).link m).serviceView =
    (s.link m).answeredView (s.store.currentWaiters.get m) := by
  obtain ⟨-, hd⟩ := (s.answerWaiter .w).answerWaiter_view .d m
  obtain ⟨hst, hw⟩ := s.answerWaiter_view .w m
  rw [hd, hst]
  cases m with
  | w => exact hw
  | d => exact Link.answeredView_congr hw _

theorem State.handOff_view (s : State) (f : Flash) (m : Side) : ((s.handOff f).link m).serviceView =
    (s.link m).answeredView (s.store.currentWaiters.get m) := by
  have faulted (x : State) (p : Prop) [Decidable p] : ((if p then x.storeFault else x).link m).serviceView =
      (x.link m).serviceView ∧ (if p then x.storeFault else x).store = x.store := by
    split
    · exact ⟨x.storeFault_view m, rfl⟩
    · exact ⟨rfl, rfl⟩
  have hcur : (s.onStore fun st => st.takeResult (runCheck f)).store.currentWaiters = s.store.currentWaiters := by
    simp only [State.onStore]
    rw [Store.takeResult_eq]
  obtain ⟨h1, h2⟩ := faulted (s.onStore fun st => st.takeResult (runCheck f))
    (s.store.state = .ok ∧ (s.onStore fun st => st.takeResult (runCheck f)).store.state = .failed)
  unfold State.handOff
  dsimp only
  rw [State.answerWaiters_view]
  refine (Link.answeredView_congr h1 _).trans ?_
  refine congrArg (fun w : PerSide Bool => (s.link m).answeredView (w.get m)) ?_
  exact (congrArg Store.currentWaiters h2).trans hcur

/-- A link that waited for the check has nothing left in service, and the waiters move on (R95 steps 5 and 6). -/
theorem Store.Serves.checked {a b : Store} {m : Side} {l : Link}
    (hs : a.Serves m l.serviceView.1 l.serviceView.2) (hG : b.chanG = a.chanG)
    (hc : b.currentWaiters.get m = a.nextWaiters.get m) (hn : b.nextWaiters.get m = false) :
    b.Serves m (l.answeredView (a.currentWaiters.get m)).1 (l.answeredView (a.currentWaiters.get m)).2 := by
  unfold Store.Serves at *
  rw [hG, hc, hn]
  simp only [Link.answeredView, Link.serviceView] at *
  cases hi : l.inService with
  | none =>
    rw [hi] at hs
    obtain ⟨h1, h2, h3⟩ := hs
    rw [h2]
    exact ⟨h1, h3, trivial⟩
  | some r =>
    rw [hi] at hs
    obtain ⟨h1, h2⟩ := hs
    cases hk : r.kind with
    | sceneFromStore =>
      rw [hk] at h2
      obtain ⟨k1, k2, k3⟩ := h2
      rw [k2, k3]
      simp only [Bool.false_and, Bool.false_eq_true, if_false, hk]
      exact ⟨h1, k1, trivial, trivial⟩
    | storeCheck =>
      rw [hk] at h2
      obtain ⟨k1, k2⟩ := h2
      cases hcur : a.currentWaiters.get m with
      | true =>
        have : a.nextWaiters.get m = false := by
          rw [hcur] at k2
          simpa using k2.symm
        rw [this]
        exact ⟨k1, rfl, trivial⟩
      | false =>
        rw [hcur] at k2
        simp only [Bool.false_and, Bool.false_eq_true, if_false, hk]
        exact ⟨h1, k1, k2.symm⟩

theorem State.checkDone_serviceOk (hs : s.ServiceOk) (f : Flash) (hrun : s.store.check = .running) : (s.checkDone f).ServiceOk := by
  obtain ⟨L, e, -⟩ := s.handOff_keptLinks f
  have hstore : (s.handOff f).store = { s.store with
      state := (s.store.takeResult (runCheck f)).state, catalog := runCheck f, port := .idle } := by
    rw [e]
    exact Store.takeResult_eq _ _
  have hview := s.handOff_view f
  obtain ⟨hlink, hcons⟩ := (State.serviceOk_iff s).1 hs
  have ⟨h1, h2, h3, h4, h5, h6⟩ := hcons
  have hgranted : s.store.grantedFirst = false := by
    by_contra hg
    rw [hrun] at h4
    exact absurd (h4 (by simpa using hg)) (by simp)
  have view (m : Side) : ((s.checkDone f).link m).serviceView = (s.link m).answeredView (s.store.currentWaiters.get m) := hview m
  rw [State.serviceOk_iff]
  by_cases hnext : s.store.nextWaiters = .both false
  · have hst : (s.checkDone f).store = { (s.handOff f).store with
        check := .idle, currentWaiters := .both false, askedAt := none } := by
      unfold State.checkDone
      simp only [State.onStore, hstore, hnext, if_true]
    refine ⟨fun m => ?_, ?_⟩
    · unfold State.ServesAt
      rw [view, hst, hstore]
      refine (hlink m).checked rfl ?_ ?_ <;> simp [hnext]
    · rw [hst, hstore]
      exact ⟨by simp, fun _ => rfl, fun e => absurd hnext e, fun e => by simp [hgranted] at e, by simp, h6⟩
  · have hst : (s.checkDone f).store = { (s.handOff f).store with
        check := .pending, currentWaiters := s.store.nextWaiters, nextWaiters := .both false, askedAt := none } := by
      unfold State.checkDone
      simp only [State.onStore, hstore, hnext, if_false]
    refine ⟨fun m => ?_, ?_⟩
    · unfold State.ServesAt
      rw [view, hst, hstore]
      exact (hlink m).checked rfl rfl (by simp)
    · rw [hst, hstore]
      exact ⟨by simp, by simp, by simp, fun e => by simp [hgranted] at e, by simp, h6⟩

theorem State.endCheck_serviceOk (hs : s.ServiceOk) (f : Flash) : (s.endCheck f).ServiceOk := by
  cases h : s.store.check with
  | running =>
    rw [State.endCheck_eq s f h]
    have h1 := State.checkDone_serviceOk hs f h
    split
    · exact (State.Calms.of_turns (State.setArb_turns _)).sameService.serviceOk h1
    · exact (State.Calms.of_turns ((State.endPathReservation_turns _).trans (State.setArb_turns _))).sameService.serviceOk h1
  | idle | pending =>
    unfold State.endCheck
    rw [h]
    exact hs

/-- The end of a burst that is not a check leaves the port IDLE. -/
theorem Store.Consistent.idle {st : Store} (h : st.Consistent) (hp : st.port ≠ .check) (l : List Transfer)
    (hl : ∀ t ∈ l, t.bytesDone % 32 = 0 ∧ t.bytesDone < 256 ∧ (t.slot.val < 8 ↔ t.link = .w)) :
    ({ st with chanG := l, port := .idle } : Store).Consistent := by
  obtain ⟨h1, h2, h3, h4, -, -⟩ := h
  exact ⟨⟨fun e => (nomatch e), fun e => absurd (h1.2 e) hp⟩, h2, h3, h4, fun e => (nomatch e), hl⟩

/-- A link with a transfer has its image load in service, and no other transfer (R121). -/
theorem State.ServesAt.transferred {m : Side} (h : s.ServesAt m) {t : Transfer} {rest : List Transfer}
    (hown : (s.store.chanG.filter fun t => t.link = m) = t :: rest) : (s.link m).inService.isSome = true ∧ rest = [] ∧
      s.store.currentWaiters.get m = false ∧ s.store.nextWaiters.get m = false := by
  unfold State.ServesAt Store.Serves Link.serviceView at h
  rw [hown] at h
  dsimp only at h
  cases hi : (s.link m).inService with
  | none => simp [hi] at h
  | some r =>
    rw [hi] at h
    cases hk : r.kind with
    | sceneFromStore => simpa [hk] using h.2
    | storeCheck => simp [hk] at h

theorem State.endBurst_serviceOk (hs : s.ServiceOk) (f : Flash) : (s.endBurst f).ServiceOk := by
  unfold State.endBurst
  split
  · exact hs
  · exact hs
  next hp =>
    have hwork : s.store.SameWork { s.store with chanS := s.store.chanS.advance s.utt.entries s.store.chanS.burst, port := .idle } :=
      ⟨rfl, rfl, rfl, rfl, rfl⟩
    exact State.SameService.serviceOk (s := s) ⟨fun _ => rfl, hwork, .inr ⟨hp, rfl⟩⟩ hs
  next hp =>
    obtain ⟨hlink, hcons⟩ := (State.serviceOk_iff s).1 hs
    have h6 := hcons.2.2.2.2.2
    have hnc : s.store.port ≠ .check := by simp [hp]
    unfold State.endBurstG
    split
    next hG => exact absurd hG (hcons.2.2.2.2.1 hp)
    next t rest hG =>
      obtain ⟨t1, t2, t3⟩ := h6 t (by rw [hG]; exact List.mem_cons_self)
      have hrest : ∀ x ∈ rest, x.bytesDone % 32 = 0 ∧ x.bytesDone < 256 ∧ (x.slot.val < 8 ↔ x.link = .w) :=
        fun x hx => h6 x (by rw [hG]; exact List.mem_cons_of_mem _ hx)
      dsimp only
      split
      next hless =>
        rw [State.serviceOk_iff]
        refine ⟨fun m => ?_, ?_⟩
        · have := hlink m
          unfold State.ServesAt Store.Serves at *
          rw [hG] at this
          simp only [State.onStore, State.onSlot, State.onDisplay, List.filter_cons] at this ⊢
          by_cases e : t.link = m
          · simp only [e, decide_true, if_true, List.length_cons, reduceCtorEq, false_and] at this ⊢
            exact this
          · simp only [e, decide_false, Bool.false_eq_true, if_false] at this ⊢
            exact this
        · refine hcons.idle hnc _ fun x hx => ?_
          rcases List.mem_cons.1 hx with rfl | hx
          · exact ⟨by dsimp only; omega, hless, t3⟩
          · exact hrest x hx
      next hlast =>
        obtain ⟨x, hx⟩ : ∃ x, x = (s.onSlot t.slot fun y => { y with
            staged := y.staged.writeRows (t.bytesDone / 16) 2 (flashSpan f (t.start + t.bytesDone) 32) }).onSlot t.slot
              fun y => { y with marks := allMarks } := ⟨_, rfl⟩
        rw [← hx]
        have hxl (m : Side) : x.link m = s.link m := by rw [hx]; rfl
        have hxs : x.store = s.store := by rw [hx]; rfl
        have view (m : Side) : (((x.finishDeferred t.link []).onStore fun st => { st with chanG := rest }).onStore
            fun st => { st with port := .idle }).link m = (x.finishDeferred t.link []).link m := rfl
        have hstore : (((x.finishDeferred t.link []).onStore fun st => { st with chanG := rest }).onStore
            fun st => { st with port := .idle }).store = { s.store with chanG := rest, port := .idle } := by
          rw [← hxs, ← (x.finishDeferred_view t.link t.link []).1]
          rfl
        rw [State.serviceOk_iff]
        refine ⟨fun m => ?_, by rw [hstore]; exact hcons.idle hnc rest hrest⟩
        unfold State.ServesAt
        rw [view, (x.finishDeferred_view t.link m []).2, hstore, hxl]
        have hm := hlink m
        by_cases e : m = t.link
        · subst e
          obtain ⟨hr, hnil, hc, hn⟩ := hm.transferred (by rw [hG, List.filter_cons_of_pos (by simp)])
          simp only [decide_true, Link.answeredView, Bool.true_and, hr]
          exact ⟨hnil, hc, hn⟩
        · have hne : ¬ t.link = m := fun k => e k.symm
          simp only [e, decide_false, Link.answeredView_false]
          refine Store.Serves.of_own (a := s.store) ?_ rfl rfl hm
          rw [hG, List.filter_cons_of_neg (by simpa using hne)]


/-- The end of a frame forms no reply and serves no request (R15). -/
theorem State.frameSent_serviceOk (hs : s.ServiceOk) (m : Side) : (s.frameSent m).ServiceOk := by
  have sent (f : TxFrame) : (s.onLink m fun l => l.sent f).ServiceOk := by
    by_cases hr : ∃ r, f = .reply r
    · obtain ⟨r, rfl⟩ := hr
      rw [State.serviceOk_iff] at *
      refine ⟨fun n => ?_, hs.2⟩
      have hn := hs.1 n
      unfold State.ServesAt at *
      rw [State.link_onLink]
      by_cases e : n = m
      · subst e
        simp only [if_true, Link.sent, Link.serviceView, Store.Serves] at hn ⊢
        cases hi : (s.link n).inService with
        | none => simpa [hi] using hn
        | some q =>
          rw [hi] at hn
          exact ⟨rfl, hn.2⟩
      · rw [if_neg e]
        exact hn
    · refine (State.SameService.onLink ?_).serviceOk hs
      cases f with
      | reply r => exact absurd ⟨r, rfl⟩ hr
      | _ => rfl
  unfold State.frameSent
  split
  · exact hs
  · dsimp only
    split
    · unfold State.releaseReported
      split
      · exact sent _
      · exact sent _
    · exact sent _

/-! ### The input sample (R170 to R172) -/

theorem State.settleInput_serviceOk (before : Panel) (hs : s.ServiceOk) : (State.settleInput before s).ServiceOk := by
  unfold State.settleInput
  split
  · exact ((s.txChoose_calms .w).trans (State.txChoose_calms _ .d)).sameService.serviceOk hs
  · exact State.settle_serviceOk hs

theorem State.takeClass_serviceOk (before : Panel) (detent : Option Bool) (hs : s.ServiceOk) (c : InputClass) :
    (State.takeClass before detent s c).ServiceOk := by
  have taken {t : State} (h : s.Calms t) : (State.settleInput before t).ServiceOk :=
    State.settleInput_serviceOk before (h.sameService.serviceOk hs)
  unfold State.takeClass
  split
  · split
    · exact taken (s.takeEvent_calms _)
    · exact hs
  · split
    · exact taken (s.takeEvent_calms _)
    · exact hs
  · split
    · exact hs
    · split
      · exact hs
      · exact taken (s.keyChange_calms _ _)

theorem State.inputSample_serviceOk (hs : s.ServiceOk) (levels : BitVec 10) (order : List InputClass) :
    (s.inputSample levels order).ServiceOk := by
  have fold (before : Panel) (detent : Option Bool) (l : List InputClass) (t : State) (ht : t.ServiceOk) :
      (l.foldl (State.takeClass before detent) t).ServiceOk := by
    induction l generalizing t with
    | nil => exact ht
    | cons c l ih => exact ih _ (State.takeClass_serviceOk before detent ht c)
  unfold State.inputSample
  split
  · dsimp only
    have h := fold s.panel (s.panel.afterSample levels).2 (eventOrder order) (s.onPanel fun _ => (s.panel.afterSample levels).1) hs
    split
    · exact State.settle_serviceOk h
    · exact h
  · exact hs

theorem State.Effect.serviceOk (h : s.Effect t) (hs : s.ServiceOk) : t.ServiceOk := by
  cases h with
  | event h => exact State.settle_serviceOk (h.sameService.serviceOk hs)
  | request m k note p => exact State.settle_serviceOk (State.submit_serviceOk hs m k note p)
  | dispatch m => exact State.settle_serviceOk (State.dispatchHead_serviceOk hs m)
  | sentFirst m => exact State.settle_serviceOk (State.dispatchHead_serviceOk (State.frameSent_serviceOk hs m) m)
  | chosenFirst m => exact (State.txChoose_calms _ m).sameService.serviceOk (State.frameSent_serviceOk hs m)
  | checkEnd f => exact State.settle_serviceOk (State.endCheck_serviceOk hs f)
  | burstEnd f => exact State.settle_serviceOk (State.endBurst_serviceOk hs f)
  | checkBegin => exact State.tryBeginCheck_serviceOk hs
  | sample levels order => exact State.inputSample_serviceOk hs levels order
  | receive h inService reply _ _ =>
    exact (State.SameService.onLink (by unfold Link.serviceView; rw [inService, reply])).serviceOk hs
  | quiet h _ => exact h.sameService.serviceOk hs

theorem State.reset_serviceOk : State.reset.ServiceOk := by
  refine ⟨⟨rfl, rfl, rfl⟩, ⟨rfl, rfl, rfl⟩, by decide, by decide, fun _ => rfl, fun h => (nomatch h), fun h => (nomatch h), fun t h => (nomatch h)⟩

/-- Settles O59: each effect leaves every deferred request its work, and every piece of work its request. -/
theorem stepKeepsService : Obligations.StepKeepsService := fun _ _ hs h =>
  step_keeps_effect (P := State.ServiceOk) (fun h _ => h.serviceOk) (fun _ _ => State.reset_serviceOk) (fun _ _ _ h => h)
    (fun _ _ h => h) hs h

end Sys2Proof.Machine
end

section
/-! SUPPORT. What settling and a panel event leave alone, and the laws of a settled state (O54). -/

namespace Sys2Proof.Machine

variable {s t u : State}

/-! ### What settling leaves alone (log 6) -/

/-- The units that neither the arbiter nor the port nor a transmitter touches. -/
structure State.SameUnits (s t : State) : Prop where
  now : t.now = s.now
  resetHeld : t.resetHeld = s.resetHeld
  partState : t.partState = s.partState
  focus : t.focus = s.focus
  ctx : t.ctx = s.ctx
  mixer : t.mixer = s.mixer
  panel : t.panel = s.panel
  pending : t.pending = s.pending
  patterns : t.tone.patterns = s.tone.patterns
  display : t.display = { s.display with
    ringEffect := t.display.ringEffect, backlight := t.display.backlight, idleTimer := t.display.idleTimer }
  inputs : ∀ m, (t.link m).inputs = (s.link m).inputs

theorem State.SameUnits.refl (s : State) : s.SameUnits s := ⟨rfl, rfl, rfl, rfl, rfl, rfl, rfl, rfl, rfl, rfl, fun _ => rfl⟩

theorem State.SameUnits.trans (h : s.SameUnits t) (g : t.SameUnits u) : s.SameUnits u where
  now := g.now.trans h.now
  resetHeld := g.resetHeld.trans h.resetHeld
  partState := g.partState.trans h.partState
  focus := g.focus.trans h.focus
  ctx := g.ctx.trans h.ctx
  mixer := g.mixer.trans h.mixer
  panel := g.panel.trans h.panel
  pending := g.pending.trans h.pending
  patterns := g.patterns.trans h.patterns
  display := by rw [g.display, h.display]
  inputs m := (g.inputs m).trans (h.inputs m)

theorem State.SameOutside.units (h : s.SameOutside t) : s.SameUnits t :=
  ⟨h.now, h.resetHeld, h.partState, h.focus, h.ctx, h.mixer, h.panel, h.pending, h.patterns, h.display, h.inputs⟩

theorem State.onStore_units (s : State) (f : Store → Store) : s.SameUnits (s.onStore f) :=
  ⟨rfl, rfl, rfl, rfl, rfl, rfl, rfl, rfl, rfl, rfl, fun _ => rfl⟩

theorem State.txChoose_units (s : State) (m : Side) : s.SameUnits (s.txChoose m) := by
  obtain ⟨l, e, hl⟩ := s.txChoose_eq m
  rw [e]
  refine ⟨rfl, rfl, rfl, rfl, rfl, rfl, rfl, rfl, rfl, rfl, fun n => ?_⟩
  rw [State.link_onLink]
  split
  next h => subst h; rw [hl]
  next => rfl

theorem State.settle_units (s : State) : s.SameUnits s.settle := by
  have race (x : State) : x.SameUnits x.grantRace := by
    unfold State.grantRace
    split
    · exact x.onStore_units _
    · exact .refl x
  have begin (x : State) : x.SameUnits x.tryBeginCheck := by
    unfold State.tryBeginCheck
    split
    · exact x.onStore_units _
    · exact .refl x
  have decide (x : State) : x.SameUnits x.portDecide := by
    unfold State.portDecide
    repeat' split
    all_goals first
      | exact .refl x
      | exact x.onStore_units _
  exact ((((s.settleArb_frame.units.trans (race _)).trans (begin _)).trans (decide _)).trans (State.txChoose_units _ _)).trans
    (State.txChoose_units _ _)

/-! ### The Input Unit through an event (R173) -/

theorem State.Turns.outside (h : s.Turns t) : s.SameOutside t :=
  h.keeps (P := fun x => s.SameOutside x) (fun h g => g.trans h.frame) (.refl s)

theorem State.setFeedback_panel (s : State) (p : Fin 32) : (s.setFeedback p).panel = s.panel := (s.setFeedback_frame p).panel
theorem State.setNarration_panel (s : State) (l : List PhraseItem) : (s.setNarration l).panel = s.panel :=
  (s.setNarration_frame l).panel

theorem State.changeFocus_panel (s : State) (m : Side) : (s.changeFocus m).panel = s.panel := by
  unfold State.changeFocus
  dsimp only
  split
  · exact State.setNarration_panel _ _
  · rfl

/-- No local action touches the Input Unit (R175). -/
theorem State.localAction_panel (s : State) (m : Side) (e : PanelEvent) : (s.localAction m e).panel = s.panel := by
  cases e with
  | proximity => rfl
  | detent up =>
    simp only [State.localAction, State.knobStep]
    repeat' split
    all_goals simp only [State.setFeedback_panel, State.setNarration_panel, State.onCtx_panel]
  | key k a =>
    simp only [State.localAction]
    unfold State.keyAction
    split
    next =>
      unfold State.swapPress
      dsimp only
      split
      · simp only [State.setFeedback_panel, State.changeFocus_panel, State.noteInput, State.onCtx_panel]
      · simp only [State.setFeedback_panel, State.noteInput, State.onCtx_panel]
    next => exact State.setFeedback_panel _ _
    next => exact State.setFeedback_panel _ _
    next =>
      dsimp only
      split
      · exact State.setNarration_panel _ _
      · exact State.setFeedback_panel _ _
    next => exact State.setNarration_panel _ _
    next => rfl

theorem State.backlightEvent_panel (s : State) (e : PanelEvent) : (s.backlightEvent e).panel = s.panel :=
  (s.backlightEvent_turns e).outside.panel

/-- An event changes the summary of the Input Unit alone (R176). -/
theorem State.takeEvent_panel (s : State) (e : PanelEvent) :
    (s.takeEvent e).panel = { s.panel with summary := (s.takeEvent e).panel.summary } := by
  unfold State.takeEvent
  split
  next => rw [State.backlightEvent_panel]
  next m _ =>
    dsimp only
    rw [State.backlightEvent_panel]
    have report (x : State) (c : InputClass) (r : InputContent) : (x.reportInput m c r).panel = x.panel := by
      unfold State.reportInput
      split <;> rfl
    rw [report]
    have note (p : Prop) [Decidable p] : (if p then s.noteInput m else s).panel = s.panel := by split <;> rfl
    have action := (State.localAction_panel (if setsInputTime e then s.noteInput m else s) m e).trans (note _)
    unfold State.summarise
    rw [State.onPanel_panel, action]

theorem State.takeEvent_lines (s : State) (e : PanelEvent) : (s.takeEvent e).panel.lines = s.panel.lines := by
  rw [State.takeEvent_panel]

theorem State.keyChange_lines (s : State) (k : Key) (b : Bool) : (s.keyChange k b).panel.lines = s.panel.lines := by
  unfold State.keyChange
  split <;> exact State.takeEvent_lines _ _

/-! ### Settled states (O54) -/

theorem State.SameRest.settled (h : s.SameRest t) (hs : s.Settled) : t.Settled := by
  obtain ⟨h1, h2, h3, h4⟩ := h
  unfold State.Settled State.checkCanBegin State.eligibleS State.eligibleG State.link at *
  rw [h1, h2, h3, h4]
  exact hs

/-- A frame's end leaves nothing to settle but its own link, whose transmitter then chooses (R15). -/
theorem State.frameSent_settled (hs : s.Settled) (m : Side) : ((s.frameSent m).txChoose m).Settled := by
  obtain ⟨f, v, e, -, -⟩ := s.frameSent_eq m
  obtain ⟨h1, h2, h3, h4⟩ := hs.but m
  obtain ⟨f1, f2, f3, f4, f5⟩ := (s.frameSent m).txChoose_frame m
  have other : (s.frameSent m).link m.other = s.link m.other := by
    rw [e]
    exact State.link_onLink_of_ne _ _ (by cases m <;> decide)
  have rest : (((s.frameSent m).txChoose m).link m.other).atRest := by
    rw [State.txChoose_link_of_ne _ (by cases m <;> decide), other]
    exact h4
  have mine := (s.frameSent m).txChoose_atRest m
  refine ⟨by rw [f1, e]; exact h1, by rw [f2, e]; exact h2, ?_, ?_, ?_⟩
  · rw [f3, f4, f5, e]
    exact h3
  · cases m
    · exact mine
    · exact rest
  · cases m
    · exact rest
    · exact mine

/-- A key or knob event of a sample without a proximity edge is settled as it has been taken. -/
theorem State.takeClass_settled {before : Panel} {detent : Option Bool} {p : Panel} (hp : before.proximityRises p = false)
    (hs : s.Settled ∧ s.panel.lines = p.lines) (c : InputClass) :
    (State.takeClass before detent s c).Settled ∧ (State.takeClass before detent s c).panel.lines = p.lines := by
  obtain ⟨hset, hlines⟩ := hs
  have rises (x : State) (hx : x.panel.lines = p.lines) : before.proximityRises x.panel = false := by
    unfold Panel.proximityRises at *
    rw [hx]
    exact hp
  have taken (x : State) (hx : x.panel.lines = p.lines) :
      (State.settleInput before x).Settled ∧ (State.settleInput before x).panel.lines = p.lines := by
    unfold State.settleInput
    rw [rises x hx, Bool.false_and]
    exact ⟨x.settle_settled, by rw [if_neg (by simp), x.settle_units.panel]; exact hx⟩
  unfold State.takeClass
  split
  · split
    · exact taken _ ((State.takeEvent_lines _ _).trans hlines)
    · exact ⟨hset, hlines⟩
  · rw [rises s hlines, if_neg (by simp)]
    exact ⟨hset, hlines⟩
  · split
    · exact ⟨hset, hlines⟩
    · split
      · exact ⟨hset, hlines⟩
      · exact taken _ ((State.keyChange_lines _ _ _).trans hlines)

theorem State.inputSample_settled (hs : s.Settled) (levels : BitVec 10) (order : List InputClass) :
    (s.inputSample levels order).Settled := by
  have panel (f : Panel → Panel) : (s.onPanel f).Settled := State.SameRest.settled ⟨rfl, rfl, rfl, rfl⟩ hs
  unfold State.inputSample
  split
  next =>
    dsimp only
    split
    next => exact State.settle_settled _
    next hp =>
      rw [Bool.not_eq_true] at hp
      have fold (l : List InputClass) (t : State) (ht : t.Settled ∧ t.panel.lines = (s.panel.afterSample levels).1.lines) :
          (l.foldl (State.takeClass s.panel (s.panel.afterSample levels).2) t).Settled := by
        induction l generalizing t with
        | nil => exact ht.1
        | cons c l ih => exact ih _ (State.takeClass_settled hp ht c)
      exact fold _ _ ⟨panel _, rfl⟩
  next => exact panel _

theorem State.Effect.settled (h : s.Effect t) (hs : s.Settled) : t.Settled := by
  cases h with
  | event | request | dispatch | sentFirst | checkEnd | burstEnd => exact State.settle_settled _
  | chosenFirst m => exact State.frameSent_settled hs m
  | checkBegin =>
    rw [State.tryBeginCheck_of_not _ hs.2.1]
    exact hs
  | sample levels order => exact State.inputSample_settled hs levels order
  | @receive m f _ _ reply tx available =>
    refine hs.onLink m f fun h => ?_
    have : (s.link m).atRest := by cases m; exacts [hs.2.2.2.1, hs.2.2.2.2]
    rw [reply, available]
    exact this (tx ▸ h)
  | quiet _ rest => exact rest.settled hs

theorem State.reset_settled : State.reset.Settled := by
  refine ⟨rfl, by decide, fun h => (nomatch h), fun _ => ⟨rfl, rfl⟩, fun _ => ⟨rfl, rfl⟩⟩

/-- Settles O54: an effect is settled as it ends, or sets nothing off. -/
theorem stepKeepsSettled : Obligations.StepKeepsSettled := fun _ _ hs h =>
  step_keeps_effect (P := State.Settled) (fun h _ => h.settled) (fun _ _ => State.reset_settled) (fun _ _ _ h => h)
    (fun _ _ h => h) hs h

/-! ### The queue, time and the power reset (O1 to O4) -/

/-- Settles O1. -/
theorem stepTakesFront : Obligations.StepTakesFront := by
  intro c rest s h
  rw [step, h]

theorem State.reset_contextsInRange : State.reset.ContextsInRange :=
  ⟨trivial, resetContext_inRange, resetContext_inRange, by decide, by decide⟩

/-- Settles O4: the values of the reset meet each law. -/
theorem resetMeetsInvariants : Obligations.ResetMeetsInvariants :=
  ⟨State.reset_settled, State.reset_contextsInRange, State.powerReset_focusAttached State.reset false,
    (State.linksBounded_iff _).2 State.reset_link_bounded, State.powerReset_stageOk State.reset false, State.reset_unitsOk.1,
    State.reset_ringOk, State.reset_serviceOk, State.reset_resourceLaws, State.reset_levelsOk, State.reset_unitsOk.2.2,
    State.reset_reportsOk⟩

end Sys2Proof.Machine
end

section
/-! SUPPORT. Time on an empty queue, a held reset and the power reset (O2, O3). -/

namespace Sys2Proof.Machine

variable {s t : State}

/-! ### Time on an empty queue (R137, log 2) -/

theorem Voice.stepOver_eq_false (v : Voice) : v.stepOver = false ↔ (v.playing = true → v.countsLeft ≠ 0) := by
  simp [Voice.stepOver]

theorem step_of_empty (h : s.pending = []) : step s = idleStep s := by rw [step, h]

/-- With no step over one count of the tone clock passes. -/
theorem idleStep_of_none (h : s.stepDue? = none) : idleStep s = .next s.tick := by rw [idleStep, h]

theorem idleStep_of_some {v : Fin 4} (h : s.stepDue? = some v) : idleStep s = exec (.stepEnd v) s := by rw [idleStep, h]; rfl

theorem State.tick_of_held (h : s.resetHeld = true) : s.tick = s := by simp [State.tick, h]

theorem State.tick_of_up (h : s.resetHeld = false) : s.tick =
    { s with now := s.now + 1, tone := { s.tone with voices := Vector.ofFn fun v => (s.tone.voices[v]).tick } } := by
  simp [State.tick, h]

/-- While the reset input is low nothing passes on an empty queue (log 16). -/
theorem idleStep_of_held (h : s.resetHeld = true) : idleStep s = .next s := by
  cases hd : s.stepDue? with
  | none => rw [idleStep_of_none hd, State.tick_of_held h]
  | some v =>
    have e : exec (.stepEnd v) s = running s fun s => (s.stepEnd v).settle := rfl
    rw [idleStep_of_some hd, e, running_of_held h]

/-- Settles O2. -/
theorem timeAndHeldReset : Obligations.TimeAndHeldReset := by
  refine ⟨fun s hp hr hv => ?_, fun s v hp hpl hc hlow => ?_, fun b s => ⟨_, rfl, rfl, rfl, rfl, rfl⟩, fun c s hr hc ho => ?_,
    fun a s hr => ?_, fun s hr hp => ?_⟩
  · have hdue : s.stepDue? = none := s.stepDue?_eq_none.2 fun v => (Voice.stepOver_eq_false _).2 (hv v)
    refine ⟨s.tick, by rw [step_of_empty hp, idleStep_of_none hdue], ?_, fun v => ?_⟩
    · rw [State.tick_of_up hr]
    · rw [State.tick_of_up hr]
      simp only [Fin.getElem_fin, Vector.getElem_ofFn, Voice.tick, ToneStep.cycle]
      cases ((s.tone.voices[v.val]).step?) <;> rfl
  · have hdue : s.stepDue? = some v := (s.stepDue?_eq_some v).2
      ⟨(Voice.stepOver_iff _).2 ⟨hpl, hc⟩, fun w hw => (Voice.stepOver_eq_false _).2 (hlow w hw)⟩
    rw [step_of_empty hp, idleStep_of_some hdue]
  · obtain ⟨f, e, -⟩ := exec_effect s c hc ho
    rw [e, running_of_held hr]
  · have e : exec (.overCurrentTrip a) s = .next (if s.resetHeld then s.takeSense a else (s.senseLevel a).settle) := rfl
    rw [e, if_pos hr]
    rfl
  · rw [step_of_empty hp, idleStep_of_held hr]

/-! ### The power reset (R20) -/

theorem State.powerReset_tableCues (s : State) (b : Bool) : (s.powerReset b).tableCues = [] := by
  refine List.eq_nil_iff_forall_not_mem.2 fun p hp => ?_
  have hc := (State.mem_tableCues _ p.1 p.2).1 hp
  have : (s.powerReset b).sched.table[p.1] = none := by simp [State.powerReset, State.reset, resetSched]
  rw [this] at hc
  cases hc

theorem resetPatterns_isSome : ∀ p : Fin 32, (resetPatterns[p]).isSome = decide (p.val < 8) := by decide

theorem resetPatterns_builtIn : resetPatterns.toList.take 8 = builtInPatterns.map some := by decide

/-- Settles O3: the part comes out of the reset with the values of its chapters. -/
theorem powerResetAbandonsAll : Obligations.PowerResetAbandonsAll := by
  intro b s
  refine ⟨s.powerReset b, rfl, rfl, rfl, fun m => ?_, fun m => ?_, fun i => ?_, rfl, rfl, fun m => ⟨?_, rfl, ?_⟩, ?_, rfl, rfl, rfl, rfl,
    fun v => ?_, rfl, rfl, rfl, rfl, rfl, rfl, rfl, rfl, rfl, fun v => ?_, fun p => ?_, ?_, rfl, fun v => ?_, rfl, rfl, rfl, rfl,
    rfl, rfl, fun i => ?_, fun m => ?_, rfl, rfl, rfl, rfl, rfl, rfl, rfl, rfl, fun k => ?_, rfl, rfl, rfl, rfl, fun m => ⟨?_, ?_⟩⟩
  case refine_1 => cases m <;> rfl
  case refine_2 => cases m <;> exact ⟨rfl, rfl, rfl, rfl, rfl, rfl, rfl, rfl, rfl, rfl, rfl, rfl, rfl, rfl, Bool.and_true _⟩
  case refine_3 => simp [State.powerReset, State.reset, resetSched]
  case refine_4 => cases m <;> rfl
  case refine_5 => exact s.machineCount_powerReset b m
  case refine_6 => exact congrArg List.length (s.powerReset_tableCues b)
  case refine_7 => simp [State.powerReset, State.reset, resetSched, freeResource]
  case refine_8 => simp [State.powerReset, State.reset, resetTone]
  case refine_9 => revert p; exact resetPatterns_isSome
  case refine_10 => exact resetPatterns_builtIn
  case refine_11 => simp [State.powerReset, State.reset, resetMixer]
  case refine_12 => simp [State.powerReset, State.reset, resetDisplay, resetSlot, blankPicture]
  case refine_13 => cases m <;> exact ⟨rfl, rfl⟩
  case refine_14 => simp [State.powerReset, State.reset, resetPanel]
  case refine_15 => cases m <;> rfl
  case refine_16 => cases m <;> rfl

end Sys2Proof.Machine
end

section
/-! SUPPORT. The requests as rows, a whole frame received, and the transmitter's choice (O6 to O9). -/

namespace Sys2Proof.Machine

variable {s t : State} {m : Side}

/-! ### The request rows (log 1) -/

theorem exec_request (s : State) (m : Side) (k : RequestKind) (note : Bool) (p : List Byte) :
    exec (requestRow m k note p) s = running s fun s => (s.submit m k note p).settle := by
  cases k <;> rfl

theorem exec_request_up (h : s.resetHeld = false) (k : RequestKind) (note : Bool) (p : List Byte) :
    exec (requestRow m k note p) s = .next (s.submit m k note p).settle := by rw [exec_request, running_of_up h]

theorem exec_dispatch_up (h : s.resetHeld = false) : exec (.dispatch m) s = .next (s.dispatchHead m).settle :=
  running_of_up h fun s => (s.dispatchHead m).settle

section
variable (h : s.ServesRequest m) (k : RequestKind) (note : Bool) {p : List Byte} (hl : lenAllowed k p = true)
include h hl

/-- A served request whose owner answers DONE and leaves nothing to settle. -/
theorem exec_request_done (hk : k ≠ .status) {r : List Byte} (hh : s.handle m k p = (.done r, t)) (ht : t.Settled) :
    exec (requestRow m k note p) s = .next (t.answered m k (.done r) note) := by
  rw [exec_request_up h.atRest.1, State.submit_done h.1 k note p r (State.linkRefusal_of_serves h hl) hk hh ht]

/-- A request that its owner refuses. -/
theorem exec_request_refused {r : Reason} (hh : s.handle m k p = (.refused r, t)) (ht : t.Settled) :
    exec (requestRow m k note p) s = .next (t.refuses m k r note) := by
  rw [exec_request_up h.atRest.1, State.submit_refused h.1 k note p r (State.linkRefusal_of_serves h hl) hh ht]

/-- A request whose fields are not of the form of its kind (R8). -/
theorem exec_request_format (hh : s.handle m k p = (.refused .format, s)) :
    exec (requestRow m k note p) s = .next (s.refuses m k .format note) :=
  exec_request_refused h k note hl hh h.atRest.2

end

/-! ### A whole frame (R1, R4) -/

theorem receiveAll_eq (h : s.resetHeld = false) (cs : List Byte) :
    receiveAll m cs s = some (s.onLink m fun l => cs.foldl (fun l c => l.receive c s.now) l) := by
  induction cs generalizing s with
  | nil => exact congrArg some (s.onLink_self m).symm
  | cons c cs ih =>
    rw [receiveAll, exec_characterReceived h]
    dsimp only
    rw [ih (by simpa using h), State.onLink_onLink]
    rfl

/-- The link with the gap timer that a character received at `now` leaves. -/
def Link.gapFrom (l : Link) (now : Nat) : Link := { l with gapTimer := some (now + Config.linkGap) }

theorem Link.receive_stored {l : Link} {len : Nat} {got : List Byte} (h : l.asm = .body len got) (hroom : got.length < len + 1)
    (c : Byte) (now : Nat) : l.receive c now = { l.gapFrom now with asm := .body len (got ++ [c]) } :=
  Link.assemble_of_body_stored (l := l.gapFrom now) h hroom c

/-- KIND and the payload, character by character. -/
theorem Link.receive_body (len now : Nat) (cs : List Byte) (l : Link) (got : List Byte)
    (hroom : got.length + cs.length ≤ len + 1) :
    cs.foldl (fun l c => l.receive c now) { l.gapFrom now with asm := .body len got } =
      { l.gapFrom now with asm := .body len (got ++ cs) } := by
  induction cs generalizing got with
  | nil => rw [List.append_nil]; rfl
  | cons c cs ih =>
    rw [List.length_cons] at hroom
    rw [List.foldl_cons, Link.receive_stored rfl (by omega)]
    have := ih (got ++ [c]) (by rw [List.length_append, List.length_singleton]; omega)
    rw [List.append_assoc, List.singleton_append] at this
    exact this

theorem byteOf_toNat (n : Nat) : (byteOf n).toNat = n % 256 := by simp [byteOf]

/-- The check byte makes the sum 0 modulo 256 (R4). -/
theorem sum_checkByte (len : Nat) (kind : Byte) (payload : List Byte) :
    (len + ((kind :: payload ++ [checkByte len kind payload]).map BitVec.toNat).sum) % 256 = 0 := by
  simp only [List.map_append, List.map_cons, List.map_nil, List.sum_append, List.sum_cons, List.sum_nil, checkByte, byteOf_toNat]
  generalize (payload.map BitVec.toNat).sum = n
  generalize kind.toNat = a
  omega

theorem frameEntry_whole (kind : Byte) (payload : List Byte) :
    frameEntry payload.length (kind :: payload ++ [checkByte payload.length kind payload]) =
      .request (kind.setWidth 7) (kind.getLsbD 7) payload := by
  rw [frameEntry_eq, if_pos (sum_checkByte _ _ _)]
  simp

/-- A link in SEARCH with room in its queue takes a whole frame. -/
theorem Link.receive_frame {l : Link} (h : l.asm = .search) (hroom : l.queue.length < 4) (kind : Byte) {payload : List Byte}
    (hlen : payload.length ≤ 96) (now : Nat) :
    ([0xC5, byteOf payload.length, kind] ++ payload ++ [checkByte payload.length kind payload]).foldl (fun l c => l.receive c now) l =
      { l.gapFrom now with queue := l.queue ++ [.request (kind.setWidth 7) (kind.getLsbD 7) payload] } := by
  have hstart : l.receive 0xC5 now = { l.gapFrom now with asm := .length } := by
    exact (Link.assemble_of_search (l := l.gapFrom now) h _).trans (if_pos rfl)
  have hn : (byteOf payload.length).toNat = payload.length := by rw [byteOf_toNat]; omega
  have hsize : ({ l.gapFrom now with asm := .length } : Link).receive (byteOf payload.length) now =
      { l.gapFrom now with asm := .body payload.length [] } := by
    refine (Link.assemble_of_length (l := { l.gapFrom now with asm := .length }) rfl _).trans ?_
    rw [hn, if_pos hlen]
  have hbody := Link.receive_body payload.length now (kind :: payload) l [] (by simp)
  have hcheck : ({ l.gapFrom now with asm := .body payload.length (kind :: payload) } : Link).receive
        (checkByte payload.length kind payload) now =
      { l.gapFrom now with queue := l.queue ++ [.request (kind.setWidth 7) (kind.getLsbD 7) payload] } := by
    refine (Link.assemble_of_body_check (l := { l.gapFrom now with asm := .body payload.length (kind :: payload) }) rfl
      (by simp) _).trans ?_
    rw [frameEntry_whole, Link.offer_eq]
    refine (if_neg (Nat.not_le.2 hroom)).trans ?_
    rw [← h]
    rfl
  rw [List.append_assoc, List.cons_append, List.cons_append, List.cons_append, List.nil_append, List.foldl_cons, hstart,
    List.foldl_cons, hsize, ← List.cons_append, List.foldl_append, hbody, List.nil_append, List.foldl_cons, hcheck]
  rfl

/-- Settles O6: START, LEN, then KIND and payload stored one by one, then a CHECK that passes. -/
theorem wholeFrameJoinsQueue : Obligations.WholeFrameJoinsQueue := by
  intro s m kind payload hup hlen hasm hroom
  rw [receiveAll_eq hup]
  exact congrArg some (State.onLink_congr s m (Link.receive_frame hasm hroom kind hlen s.now))

/-! ### Dispatch (R6, R7) -/

/-- A refused entry of a settled link: its reply is formed and, by an IDLE transmitter, begun. -/
theorem State.pop_refuses (h : s.Settled) (hr : (s.link m).reply = none) (rest : List QueueEntry) (code : BitVec 7) (b : ReplyBody)
    (note : Bool) : ((s.onLink m fun l => { l with queue := rest }).formReply m code b note).settle =
      s.onLink m fun l =>
        let r : Reply := ⟨code, b, if note then some (s.conditionByte m) else none⟩
        { l with queue := rest, reply := some r, tx := match l.tx with
          | .idle => .sending (.reply r)
          | .sending f => .sending f } := by
  have hpop : (s.onLink m fun l => { l with queue := rest }).Settled := by
    refine h.onLink m _ fun hi => ?_
    have : (s.link m).atRest := by cases m; exacts [h.2.2.2.1, h.2.2.2.2]
    exact this hi
  have hcond : (s.onLink m fun l => { l with queue := rest }).conditionByte m = s.conditionByte m := by
    unfold State.conditionByte State.full State.machineCount State.tableCues
    rw [State.link_onLink_same]
    rfl
  generalize hx : (s.onLink m fun l => { l with queue := rest }) = x at *
  have hform : (x.formReply m code b note).SettledBut m := by
    obtain ⟨harb, hcheck, hport, hother⟩ := hpop.but m
    exact ⟨harb, hcheck, hport, by rwa [State.formReply, State.link_onLink_of_ne _ _ (by cases m <;> decide)]⟩
  rw [State.settle_reply hform (r := ⟨code, b, if note then some (x.conditionByte m) else none⟩)
    (by rw [State.formReply, State.link_onLink_same]), hcond, State.formReply, State.onLink_onLink, hcond, ← hx, State.onLink_onLink]
  rfl

theorem linkRefusal_format {k : RequestKind} {p : List Byte}
    (h : k = .status ∨ k = .attach ∨ (s.partState = .ready ∧ s.attached m = true)) (hl : lenAllowed k p = false) :
    s.linkRefusal m k p = some .format := by
  unfold State.linkRefusal
  have hk : (k = .status ∨ k = .attach) → alwaysTaken k = true := by rintro (rfl | rfl) <;> rfl
  rcases h with rfl | rfl | ⟨hp, ha⟩
  · simp [alwaysTaken, hl]
  · simp [alwaysTaken, hl]
  · simp [hp, ha, hl]

theorem alwaysTaken_eq_false {k : RequestKind} (h1 : k ≠ .status) (h2 : k ≠ .attach) : alwaysTaken k = false := by
  simp [alwaysTaken, h1, h2]

/-- Settles O7. -/
theorem dispatchChecksAndTurns : Obligations.DispatchChecksAndTurns := by
  refine ⟨fun s m rest hrest hin hr e hq => ?_, fun s m hrest h => ?_, fun s m k note p hrest hq => ?_,
    fun s m k note p hup hin hr hq => ?_⟩
  · obtain ⟨hup, hset⟩ := hrest
    have hfree : (s.link m).free = true := by simp [Link.free, hin, hr]
    have head : (s.dispatchHead m) = (s.onLink m fun l => { l with queue := rest }).dispatchEntry m e := by
      rw [State.dispatchHead, if_pos hfree, hq]
    dsimp only
    split
    next => rw [exec_dispatch_up hup, head, State.dispatchEntry, State.pop_refuses hset hr]; rfl
    next code note p =>
      split
      next hk =>
        rw [exec_dispatch_up hup, head, State.dispatchEntry, hk]
        exact congrArg _ (State.pop_refuses hset hr ..)
      next k hk =>
        have hcode : k.code = code := by
          unfold kindOfCode at hk
          simpa using List.find?_some hk
        have refused (reason : Reason) (h : s.linkRefusal m k p = some reason) :
            exec (.dispatch m) s = .next (s.onLink m fun l =>
              { l with queue := rest, reply := some ⟨code, .refused reason, if note then some (s.conditionByte m) else none⟩,
                       tx := match l.tx with
                        | .idle => .sending (.reply ⟨code, .refused reason, if note then some (s.conditionByte m) else none⟩)
                        | .sending f => .sending f }) := by
          have h' : (s.onLink m fun l => { l with queue := rest }).linkRefusal m k p = some reason := h
          rw [exec_dispatch_up hup, head, State.dispatchEntry, hk]
          dsimp only
          rw [State.dispatchRequest, h']
          dsimp only
          rw [hcode, State.pop_refuses hset hr]
        refine ⟨fun h1 h2 h3 => refused _ ?_, fun h1 h2 h3 h4 => refused _ ?_, fun h1 h2 => refused _ (linkRefusal_format h1 h2)⟩
        · rw [State.linkRefusal, if_pos ⟨h3, alwaysTaken_eq_false h1 h2⟩]
        · rw [State.linkRefusal, if_neg (by simp [h3]), if_pos ⟨h4, alwaysTaken_eq_false h1 h2⟩]
  · obtain ⟨hup, hset⟩ := hrest
    have : s.dispatchHead m = s := by
      unfold State.dispatchHead
      split
      next hf =>
        simp only [Link.free, Bool.and_eq_true, Option.isNone_iff_eq_none] at hf
        rcases h with h | h | h
        · exact absurd hf.1 h
        · exact absurd hf.2 h
        · rw [h]
      next => rfl
    rw [exec_dispatch_up hup, this, State.settle_of_settled s hset]
  · obtain ⟨hup, hset⟩ := hrest
    have hsub : s.submit m k note p = s.onLink m fun l => l.offer (.request k.code note p) := by
      unfold State.submit
      dsimp only
      rw [if_neg (by simpa using hq)]
    have hsettled : (s.onLink m fun l => l.offer (.request k.code note p)).Settled := by
      refine hset.onLink m _ fun hi => ?_
      have hl := (s.link m).offer_sends (.request k.code note p)
      have hs := (s.link m).offer_service (.request k.code note p)
      have : (s.link m).atRest := by cases m; exacts [hset.2.2.2.1, hset.2.2.2.2]
      rw [hl.2, hs.2]
      exact this (hl.1 ▸ hi)
    rw [exec_request_up hup, hsub, State.settle_of_settled _ hsettled]
    rfl
  · refine ⟨_, exec_dispatch_up hup, ?_⟩
    rw [exec_request_up (by simpa using hup)]
    have e : (s.onLink m fun l => { l with queue := [] }).onLink m (fun l => l.offer (.request k.code note p)) = s := by
      rw [State.onLink_onLink]
      refine (State.onLink_congr s m ?_).trans (s.onLink_self m)
      generalize s.link m = l at hq
      cases l
      simp_all [Link.offer]
    have hsub : (s.onLink m fun l => { l with queue := [] }).submit m k note p = s.dispatchHead m := by
      unfold State.submit
      dsimp only
      rw [if_pos (by simp), e]
    rw [hsub]

/-! ### The end of a frame and the transmitter's choice (R12 to R15) -/

theorem exec_frameSent_up (h : s.resetHeld = false) (b : Bool) : exec (.frameSent m b) s =
    .next (if b then ((s.frameSent m).dispatchHead m).settle else (s.frameSent m).txChoose m) :=
  running_of_up h fun s => if b then ((s.frameSent m).dispatchHead m).settle else (s.frameSent m).txChoose m

/-- Of a list in which one choice has the lowest number, that choice remains. -/
theorem foldl_earlier_eq {x : Nat × ReportChoice} (l : List (Nat × ReportChoice)) (a : Nat × ReportChoice) (hx : x ∈ a :: l)
    (hmin : ∀ p ∈ a :: l, p ≠ x → x.1 < p.1) : l.foldl (fun best y => if y.1 < best.1 then y else best) a = x := by
  induction l generalizing a with
  | nil => exact (List.mem_singleton.1 hx).symm
  | cons y ys ih =>
    rw [List.foldl_cons]
    have keep {z : Nat × ReportChoice} (hz : z = a ∨ z = y) (hxz : x = a ∨ x = y → x = z) :
        ys.foldl (fun best y => if y.1 < best.1 then y else best) z = x := by
      refine ih z ?_ fun p hp => hmin p ?_
      · simp only [List.mem_cons] at hx ⊢
        rcases hx with h | h | h
        · exact .inl (hxz (.inl h))
        · exact .inl (hxz (.inr h))
        · exact .inr h
      · simp only [List.mem_cons] at hp ⊢
        rcases hp with rfl | h
        · rcases hz with h | h <;> simp [h]
        · exact .inr (.inr h)
    have ha := hmin a (by simp)
    have hy := hmin y (by simp)
    split
    next hlt =>
      refine keep (.inr rfl) ?_
      rintro (rfl | rfl)
      · by_contra h
        have := hy (Ne.symm h)
        omega
      · rfl
    next hge =>
      refine keep (.inl rfl) ?_
      rintro (rfl | rfl)
      · rfl
      · by_contra h
        have := ha (Ne.symm h)
        omega

theorem earliest_of_least {x : Nat × ReportChoice} {l : List (Nat × ReportChoice)} (hx : x ∈ l)
    (hmin : ∀ p ∈ l, p ≠ x → x.1 < p.1) : earliest l = some x.2 := by
  cases l with
  | nil => simp at hx
  | cons a l => rw [earliest, foldl_earlier_eq l a hx hmin]

theorem Link.sent_tx (l : Link) (f : TxFrame) : (l.sent f).tx = .idle := by cases f <;> rfl

/-- The frame leaves its link; but for that only a slot of the cue table may have been freed. -/
theorem State.frameSent_of_sending {f : TxFrame} (h : (s.link m).tx = .sending f) :
    ∃ v, s.frameSent m = (s.onLink m fun l => l.sent f).onSched fun sc => { sc with table := v } := by
  unfold State.frameSent
  rw [h]
  dsimp only
  split
  next r =>
    unfold State.releaseReported
    split
    · exact ⟨s.sched.table, rfl⟩
    next p _ => exact ⟨s.sched.table.set p.1 none, rfl⟩
  next => exact ⟨s.sched.table, rfl⟩

/-- The notice of a report's end finds the one cue of that serial in REPORTING (R52). -/
theorem State.releaseReported_of_one {uid : Nat} {i : Fin 24} {c : Cue} (hi : s.sched.table[i] = some c)
    (hc : c.state = .reporting) (hu : c.uid = uid)
    (hone : ∀ (j : Fin 24) d, s.sched.table[j] = some d → d.uid = uid → j = i) :
    s.releaseReported uid = s.setCue (.slot i) none := by
  unfold State.releaseReported
  split
  next hn =>
    have := List.find?_eq_none.1 hn (i, c) ((s.mem_tableCues i c).2 hi)
    simp [hc, hu] at this
  next p hp =>
    have hm := (s.mem_tableCues p.1 p.2).1 (List.mem_of_find?_eq_some hp)
    have hq := List.find?_some hp
    simp only [Bool.and_eq_true, decide_eq_true_eq] at hq
    rw [hone p.1 p.2 hm hq.1]

theorem State.txChoose_idle_reply {r : Reply} (ht : (s.link m).tx = .idle) (hr : (s.link m).reply = some r) :
    s.txChoose m = s.onLink m fun l => { l with tx := .sending (.reply r) } := by
  unfold State.txChoose
  rw [ht]
  dsimp only
  rw [hr]

theorem State.txChoose_idle_least {x : Nat × ReportChoice} (ht : (s.link m).tx = .idle) (hr : (s.link m).reply = none)
    (hx : x ∈ (s.link m).available) (hmin : ∀ p ∈ (s.link m).available, p ≠ x → x.1 < p.1) :
    s.txChoose m = s.beginReport m x.2 := by
  unfold State.txChoose
  rw [ht]
  dsimp only
  rw [hr]
  dsimp only
  rw [earliest_of_least hx hmin]

theorem filter_order_head {α : Type} (f : α → Nat) (r : α) (rest : List α) (h : ∀ x ∈ rest, f x ≠ f r) :
    (r :: rest).filter (fun x => f x ≠ f r) = rest := by
  rw [List.filter_cons_of_neg (by simp)]
  exact List.filter_eq_self.2 fun x hx => by simpa using h x hx

/-- Settles O8. -/
theorem frameSentReleasesAndChooses : Obligations.FrameSentReleasesAndChooses := by
  refine ⟨⟨fun s m r hup htx hav => ?_, fun s m r hup htx => ?_, fun s m r rest i c reply hup htx hd hord hr hi hc hu hone => ?_,
    fun s m r rest reply hup htx hin hord hr => ?_⟩, fun s m f hup htx => ?_⟩
  · have e : s.frameSent m = s.onLink m fun l => { l with reply := none, tx := .idle } := by
      rw [State.frameSent, htx]
      rfl
    rw [exec_frameSent_up hup, e]
    refine congrArg Host.Outcome.next (State.txChoose_of_rest _ _ fun _ => ?_)
    rw [State.link_onLink_same]
    exact ⟨rfl, hav⟩
  · have e : s.frameSent m = s.onLink m fun l => { l with reply := none, tx := .idle } := by
      rw [State.frameSent, htx]
      rfl
    refine ⟨_, exec_frameSent_up hup true, ?_⟩
    rw [exec_dispatch_up (by simpa using hup), e]
    rfl
  · have e : s.frameSent m = (s.onLink m fun l => l.sent (.done r)).setCue (.slot i) none := by
      rw [State.frameSent, htx]
      exact State.releaseReported_of_one hi hc hu hone
    have hl : ((s.onLink m fun l => l.sent (.done r)).setCue (.slot i) none).link m = (s.link m).sent (.done r) :=
      State.link_onLink_same ..
    refine ⟨_, exec_frameSent_up hup false, ?_⟩
    have hr' : ((s.link m).sent (.done r)).reply = some reply := hr
    rw [e, if_neg (by decide), State.txChoose_idle_reply (by rw [hl]; rfl) (by rw [hl]; exact hr')]
    have hlink : (s.onLink m fun l => { l.sent (.done r) with tx := .sending (.reply reply) }) =
        s.onLink m fun l => { l with done := rest, tx := .sending (.reply reply) } := by
      refine State.onLink_congr s m ?_
      have := filter_order_head DoneReport.order r rest hord
      rw [← hd] at this
      rw [Link.sent, this]
    calc ((s.onLink m fun l => l.sent (.done r)).setCue (.slot i) none).onLink m
            (fun l => { l with tx := .sending (.reply reply) })
        = ((s.onLink m fun l => l.sent (.done r)).onLink m fun l => { l with tx := .sending (.reply reply) }).setCue
            (.slot i) none := rfl
      _ = (s.onLink m fun l => { l with done := rest, tx := .sending (.reply reply) }).setCue (.slot i) none := by
            rw [State.onLink_onLink]
            exact congrArg (State.setCue · (.slot i) none) hlink
  · have e : s.frameSent m = s.onLink m fun l => l.sent (.input r) := by
      rw [State.frameSent, htx]
    rw [exec_frameSent_up hup, if_neg (by decide), e,
      State.txChoose_idle_reply (by rw [State.link_onLink_same]; rfl) (by rw [State.link_onLink_same]; exact hr),
      State.onLink_onLink]
    refine congrArg Host.Outcome.next (State.onLink_congr s m ?_)
    have := filter_order_head InputReport.order r rest hord
    rw [← hin] at this
    exact congrArg (fun v => ({ s.link m with inputs := v, tx := .sending (.reply reply) } : Link)) this
  · obtain ⟨v, e⟩ := State.frameSent_of_sending htx
    refine ⟨_, exec_frameSent_up hup false, ?_⟩
    rw [if_neg (by decide), e]
    have hl : ((s.onLink m fun l => l.sent f).onSched fun sc => { sc with table := v }).link m = (s.link m).sent f :=
      State.link_onLink_same ..
    have hidle := (s.link m).sent_tx f
    refine ⟨fun r hr => ?_, fun hr hav => ?_, fun hr n x hx hmin => ?_⟩
    · rw [State.txChoose_idle_reply (by rw [hl, hidle]) (by rw [hl, hr]), State.link_onLink_same]
    · rw [State.txChoose_of_rest _ _ (fun _ => by rw [hl]; exact ⟨hr, hav⟩), hl, hidle]
    · rw [State.txChoose_idle_least (x := (n, x)) (by rw [hl, hidle]) (by rw [hl, hr]) (by rw [hl]; exact hx)
        (by rw [hl]; exact hmin)]
      cases x <;> simp only [State.beginReport, State.link_onLink_same, hl] <;> simp [Context.profileFrame]

/-! ### STATUS (R17) -/

theorem exec_status_up (h : s.TakesRequest m) (note : Bool) : exec (.status m note []) s =
    .next (((s.formReply m RequestKind.status.code (.done (s.statusResult m)) note).clearStatus m).settle) := by
  refine (exec_request_up h.1.1 .status note []).trans ?_
  rw [State.submit_of_takes h, State.dispatchRequest, show s.linkRefusal m .status [] = none by
    simp [State.linkRefusal, alwaysTaken, lenAllowed]]
  dsimp only [State.serveRequest, State.handle]
  rw [State.settleArb_of_not_due _ h.1.2.1]

theorem State.settle_clearStatus (h : s.Settled) (k : RequestKind) (b : ReplyBody) (note : Bool) :
    ((s.formReply m k.code b note).clearStatus m).settle =
      let r : Reply := ⟨k.code, b, if note then some (s.conditionByte m) else none⟩
      { s with
        links := s.links.modify m fun l => { l.sends (.reply r) with reply := some r, fault := false, causes := noCauses },
        panel := { s.panel with summary := s.panel.summary.set m 0 } } := by
  have hform : ((s.formReply m k.code b note).clearStatus m).SettledBut m := by
    obtain ⟨harb, hcheck, hport, hother⟩ := h.but m
    refine ⟨harb, hcheck, hport, ?_⟩
    rw [State.clearStatus, State.formReply, State.onLink_onLink]
    exact (State.link_onLink_of_ne (s := s) (m := m) (n := m.other) _ (by cases m <;> decide)).symm ▸ hother
  have e : (s.formReply m k.code b note).clearStatus m = (s.onLink m fun l => ({ l with reply := some ⟨k.code, b, if note then some (s.conditionByte m) else none⟩ } : Link).clearFault).onPanel fun p => { p with summary := p.summary.set m 0 } := by
    rw [State.clearStatus, State.formReply, State.onLink_onLink]
    rfl
  rw [State.settle_reply hform (r := ⟨k.code, b, if note then some (s.conditionByte m) else none⟩)
    (by rw [e]; exact congrArg Link.reply (State.link_onLink_same ..)), e]
  cases m <;> rfl

theorem partByte_eq (p : PartState) : partByte p = if p = .ready then 1 else 0 := by cases p <;> rfl

theorem storeByte_eq (x : StoreState) : storeByte x = if x = .failed then 1 else 0 := by cases x <;> rfl

/-- Settles O9. -/
theorem statusReplyClearsFlags : Obligations.StatusReplyClearsFlags := by
  intro s m note h
  dsimp only
  rw [exec_status_up h, s.settle_clearStatus h.1.2]
  have bytes : s.statusResult m =
      ((if s.partState = .ready then 1 else 0) :: (if s.store.state = .failed then 1 else 0) :: (s.statusResult m).drop 2) := by
    rw [← partByte_eq, ← storeByte_eq]
    rfl
  rw [bytes]
  rfl

end Sys2Proof.Machine
end

section
/-! SUPPORT. The settings requests, the speaker stage, the mixer's ticks and the lamps (O43 to O45, O48, O49). -/

namespace Sys2Proof.Machine

variable {s t : State} {m : Side}

/-! ### Settling where only the links have something to send -/

theorem State.txChoose_link_onLink {n : Side} (f : Link → Link) (h : n ≠ m) :
    ((s.onLink m f).txChoose n).link n = (s.txChoose n).link n := by
  have hl : (s.onLink m f).link n = s.link n := State.link_onLink_of_ne _ _ h
  unfold State.txChoose
  rw [hl]
  split
  · exact hl
  · split
    · rw [State.link_onLink_same, State.link_onLink_same, hl]
    · split
      · exact hl
      next c _ => cases c <;> simp only [State.beginReport, State.link_onLink_same, hl] <;> rfl

/-- With nothing to settle but the links, each transmitter makes its choice, and nothing else changes. -/
theorem State.settle_of_links (harb : s.sched.arbDue = false) (hcheck : s.checkCanBegin = false)
    (hport : s.store.port = .idle → s.eligibleS = false ∧ s.eligibleG = false) :
    ∃ L, s.settle = { s with links := L } ∧ ∀ n, s.settle.link n = (s.txChoose n).link n := by
  have e : s.settle = (s.txChoose .w).txChoose .d := by
    unfold State.settle
    rw [State.settleArb_of_not_due _ harb, State.grantRace_of_not _ hcheck, State.tryBeginCheck_of_not _ hcheck,
      State.portDecide_of_rest _ hport]
  obtain ⟨k, hk, -⟩ := s.txChoose_eq .w
  obtain ⟨j, hj, -⟩ := (s.txChoose .w).txChoose_eq .d
  refine ⟨((s.txChoose .w).txChoose .d).links, ?_, fun n => ?_⟩
  · rw [e, hj, hk]
    rfl
  · rw [e]
    cases n with
    | w => exact State.txChoose_link_of_ne _ (by decide)
    | d =>
      rw [hk]
      exact State.txChoose_link_onLink _ (by decide)

/-! ### LAMP_SET, INPUT_MASK, INPUT_FILTER (R165, R176, R179) -/

theorem byte_toNat_eq_iff {c : Byte} {n : Nat} (h : n < 256) : c.toNat = n ↔ c = BitVec.ofNat 8 n := by
  constructor
  · rintro rfl
    simp
  · rintro rfl
    simpa using h

theorem parseInputFilter_eq (a b c : Byte) : parseInputFilter [a, b, c] =
    if c ≠ 2 ∧ c ≠ 4 then none else some (max 2 (min 16 a.toNat), max 1 (min 4 b.toNat), c.toNat) := by
  have h2 : c.toNat = 2 ↔ c = 2 := byte_toNat_eq_iff (by decide)
  have h4 : c.toNat = 4 ↔ c = 4 := byte_toNat_eq_iff (by decide)
  have allowed : (c.toNat = 2 ∨ c.toNat = 4) ↔ ¬(c ≠ 2 ∧ c ≠ 4) := by rw [h2, h4]; tauto
  unfold parseInputFilter
  by_cases h : c.toNat = 2 ∨ c.toNat = 4
  · exact (if_pos h).trans (if_neg (allowed.1 h)).symm
  · exact (if_neg h).trans (if_pos (by rwa [allowed, not_not] at h)).symm

/-- Settles O49. -/
theorem panelSettingsWritten : Obligations.PanelSettingsWritten := by
  intro s m note a b c d h
  refine ⟨exec_request_done h .lampSet note rfl (by decide) rfl h.atRest.2,
    exec_request_done h .inputMask note rfl (by decide) rfl h.atRest.2, ?_⟩
  split
  next hc =>
    refine exec_request_format h .inputFilter note rfl ?_
    rw [State.handle, parseInputFilter_eq, if_pos hc]
    rfl
  next hc =>
    refine exec_request_done h .inputFilter note rfl (by decide) (t := s.inputFilter (max 2 (min 16 a.toNat)) (max 1 (min 4 b.toNat))
      c.toNat) ?_ h.atRest.2
    rw [State.handle, parseInputFilter_eq, if_neg hc]
    rfl

/-! ### A trip and its fault reports (R153) -/

theorem Link.speakerFault_eq (l : Link) : l.speakerFault =
    { l with
      fault := true, causes := { l.causes with speaker := true }, pendingSpeaker := true,
      faultMark := some (l.faultMark.getD l.nextOrder),
      nextOrder := if l.faultMark = none then l.nextOrder + 1 else l.nextOrder } := by
  cases h : l.faultMark <;> simp [Link.speakerFault, Link.setFaultMark, Link.addCause, Causes.withSpeaker, h]

theorem State.trip_link (s : State) (n : Side) :
    s.trip.link n = if s.attached n then (s.link n).speakerFault else s.link n := by cases n <;> rfl

theorem State.trip_same (s : State) : s.trip = { s with mixer := s.mixer.tripped s.now, links := s.trip.links } := rfl

/-- A resting link that took a speaker fault: an IDLE transmitter begins the FAULT report, another goes on (R14, R15). -/
theorem State.txChoose_speakerFault {l : Link} (hl : s.link m = l.speakerFault) (hrest : l.atRest) :
    (l.tx = .idle → (s.txChoose m).link m =
      { l with
        fault := true, causes := { l.causes with speaker := true }, nextOrder := l.nextOrder + 1, faultMark := none,
        pendingStore := false, pendingSpeaker := false, tx := .sending (.fault l.pendingStore true s.mixer.trips) }) ∧
    (∀ f, l.tx = .sending f → s.txChoose m = s) := by
  rw [Link.speakerFault_eq] at hl
  constructor
  · intro hi
    obtain ⟨hr, hav⟩ := hrest hi
    obtain ⟨hd, hin, hfo, hpr, hfa⟩ := l.available_eq_nil_iff.1 hav
    have hav' : (s.link m).available = [(l.nextOrder, .fault)] := by
      rw [hl]
      simp [Link.available, hd, hin, hfo, hpr, hfa]
    rw [State.txChoose_idle_least (x := (l.nextOrder, .fault)) (by rw [hl]; exact hi) (by rw [hl]; exact hr) (by simp [hav'])
      (by simp [hav'])]
    simp [State.beginReport, hl, hfa]
  · intro f hf
    refine State.txChoose_of_rest _ _ fun hi => ?_
    rw [hl] at hi
    simp only [hf] at hi
    cases hi

/-- What a trip at a settled moment leaves when everything is settled again. -/
theorem State.settle_trip (h : s.Settled) : ∃ L, s.trip.settle = { s with mixer := s.mixer.tripped s.now, links := L } ∧
    ∀ n, s.trip.settle.link n = (s.trip.txChoose n).link n :=
  State.settle_of_links (s := s.trip) h.1 h.2.1 h.2.2.1

theorem State.Settled.link (h : s.Settled) (n : Side) : (s.link n).atRest := by
  obtain ⟨-, -, -, hw, hd⟩ := h
  cases n <;> assumption

/-- The faults of a trip, as O45 writes them. -/
theorem State.settle_trip_link (h : s.Settled) (n : Side) :
    (s.attached n = false → s.trip.settle.link n = s.link n) ∧
      (s.attached n = true → (s.link n).tx = .idle → s.trip.settle.link n = { s.link n with
        fault := true, causes := { (s.link n).causes with speaker := true }, nextOrder := (s.link n).nextOrder + 1,
        faultMark := none, pendingStore := false, pendingSpeaker := false,
        tx := .sending (.fault (s.link n).pendingStore true (s.mixer.trips + 1)) }) ∧
      (∀ f, s.attached n = true → (s.link n).tx = .sending f → s.trip.settle.link n = { s.link n with
        fault := true, causes := { (s.link n).causes with speaker := true }, pendingSpeaker := true,
        faultMark := some ((s.link n).faultMark.getD (s.link n).nextOrder),
        nextOrder := if (s.link n).faultMark = none then (s.link n).nextOrder + 1 else (s.link n).nextOrder }) := by
  obtain ⟨L, -, hlink⟩ := s.settle_trip h
  rw [hlink n]
  have faulted (ha : s.attached n = true) : s.trip.link n = (s.link n).speakerFault := by rw [State.trip_link, if_pos ha]
  refine ⟨fun ha => ?_, fun ha hi => ?_, fun f ha hf => ?_⟩
  · have hl : s.trip.link n = s.link n := by rw [State.trip_link, if_neg (by simp [ha])]
    rw [State.txChoose_of_rest _ _ (by rw [hl]; exact h.link n), hl]
  · exact (State.txChoose_speakerFault (faulted ha) (h.link n)).1 hi
  · rw [(State.txChoose_speakerFault (faulted ha) (h.link n)).2 f hf, faulted ha, Link.speakerFault_eq]

theorem exec_overCurrentTrip_up (h : s.resetHeld = false) (a : Bool) :
    exec (.overCurrentTrip a) s = .next (s.senseLevel a).settle :=
  congrArg Host.Outcome.next (if_neg (by simp [h]))

theorem exec_retryTimerExpiry_up (h : s.resetHeld = false) : exec .retryTimerExpiry s = .next s.retryExpiry.settle :=
  running_of_up h fun s => s.retryExpiry.settle

/-- What the return of the stage to service does (R154, R156). -/
theorem State.resume_eq (s : State) : s.resume =
    if s.mixer.enable = true ∧ s.mixer.sense = true then (s.onMixer fun x => { x with stage := .driving }).trip
    else { s with mixer := { s.mixer with
      stage := if s.mixer.enable then .driving else .disabled, gates := if s.mixer.enable then s.mixer.gates else none } } := by
  unfold State.resume
  cases he : s.mixer.enable
  · simp [State.disable, State.onMixer]
  · cases hs : s.mixer.sense <;> simp [State.enterDriving, State.onMixer, hs]

theorem State.retryExpiry_of_three (ht : s.mixer.stage = .tripped) (h3 : 3 ≤ s.mixer.trips) :
    s.retryExpiry = { s with mixer := { s.mixer with retryTimer := none, stage := .locked } } := by
  unfold State.retryExpiry
  rw [if_pos ht]
  exact if_pos h3

theorem State.retryExpiry_of_fewer (ht : s.mixer.stage = .tripped) (h3 : s.mixer.trips < 3) :
    s.retryExpiry = (s.onMixer fun x => { x with retryTimer := none }).resume := by
  unfold State.retryExpiry
  rw [if_pos ht]
  exact if_neg (Nat.not_le.2 h3)

/-- Settles O45. -/
theorem tripAndRetry : Obligations.TripAndRetry := by
  refine ⟨fun s hrest => ⟨fun a ha => ?_, fun hd => ?_⟩, fun s hrest => ⟨fun hn => ?_, fun ht h3 => ?_, fun ht h3 hn => ?_,
    fun ht h3 he hs => ?_⟩⟩
  · rw [exec_overCurrentTrip_up hrest.1]
    have e : s.senseLevel a = s.takeSense a := if_neg fun h => ha.elim (fun h' => by simp [h'] at h) fun h' => h' h.2
    rw [e]
    exact congrArg Host.Outcome.next (State.settle_of_settled _ hrest.2)
  · rw [exec_overCurrentTrip_up hrest.1, show s.senseLevel true = (s.takeSense true).trip from if_pos ⟨rfl, hd⟩]
    obtain ⟨L, e, -⟩ := (s.takeSense true).settle_trip hrest.2
    exact ⟨_, rfl, e.trans (by rw [e]; rfl), (s.takeSense true).settle_trip_link hrest.2⟩
  · rw [exec_retryTimerExpiry_up hrest.1, State.retryExpiry, if_neg hn, State.settle_of_settled _ hrest.2]
  · rw [exec_retryTimerExpiry_up hrest.1, State.retryExpiry_of_three ht h3]
    exact congrArg Host.Outcome.next (State.settle_of_settled _ hrest.2)
  · rw [exec_retryTimerExpiry_up hrest.1, State.retryExpiry_of_fewer ht h3, State.resume_eq]
    refine congrArg Host.Outcome.next ((congrArg State.settle (if_neg hn)).trans ?_)
    exact State.settle_of_settled _ hrest.2
  · have e : s.retryExpiry = (s.onMixer fun x => { x with retryTimer := none, stage := .driving }).trip := by
      rw [State.retryExpiry_of_fewer ht h3, State.resume_eq]
      exact if_pos ⟨he, hs⟩
    rw [exec_retryTimerExpiry_up hrest.1, e]
    generalize hu : (s.onMixer fun x => { x with retryTimer := none, stage := .driving }) = u
    have hset : u.Settled := hu ▸ hrest.2
    obtain ⟨L, e', -⟩ := u.settle_trip hset
    refine ⟨_, rfl, ?_, ?_⟩
    · rw [e', ← hu]
      dsimp only [Mixer.tripped, State.onMixer]
      rw [← ht]
      rfl
    · have := u.settle_trip_link hset
      rw [← hu] at this ⊢
      exact this

/-! ### SPEAKER_SETUP and SPEAKER_RESET (R152, R155, R156) -/

/-- A FAULT mark with SPEAKER pending waits through a choice of frame, or its report begins (R14, R15). -/
theorem State.txChoose_fault_waits (hm : (s.link m).faultMark ≠ none) (hp : (s.link m).pendingSpeaker = true) :
    (((s.txChoose m).link m).faultMark ≠ none ∧ ((s.txChoose m).link m).pendingSpeaker = true) ∨
      ∃ store, ((s.txChoose m).link m).tx = .sending (.fault store true s.mixer.trips) := by
  unfold State.txChoose
  split
  · exact .inl ⟨hm, hp⟩
  · split
    · rw [State.link_onLink_same]
      exact .inl ⟨hm, hp⟩
    · split
      · exact .inl ⟨hm, hp⟩
      next c _ =>
        cases c with
        | fault =>
          rw [State.beginReport, State.link_onLink_same, ← hp]
          exact .inr ⟨_, rfl⟩
        | _ =>
          rw [State.beginReport, State.link_onLink_same]
          exact .inl ⟨hm, hp⟩

theorem State.txChoose_keeps (s : State) (m : Side) : ((s.txChoose m).link m).fault = (s.link m).fault ∧
    ((s.txChoose m).link m).causes = (s.link m).causes ∧ ((s.txChoose m).link m).reply = (s.link m).reply := by
  obtain ⟨l, e, hl⟩ := s.txChoose_eq m
  rw [e, State.link_onLink_same, hl]
  exact ⟨rfl, rfl, rfl⟩

theorem State.formReply_link (s : State) (m n : Side) (k : RequestKind) (b : ReplyBody) (note : Bool) :
    (s.formReply m k.code b note).link n =
      if n = m then { s.link m with reply := some ⟨k.code, b, if note then some (s.conditionByte m) else none⟩ } else s.link n := by
  rw [State.formReply, State.link_onLink]
  split
  next h => rw [h]
  next => rfl

/-- The condition byte reads the cue table, the focus, the speech path and the FAULT flag (R11). -/
theorem State.conditionByte_congr (hs : t.sched = s.sched) (hf : t.focus = s.focus) (hl : (t.link m).fault = (s.link m).fault) :
    t.conditionByte m = s.conditionByte m := by
  unfold State.conditionByte State.speaking State.full State.hasFocus State.machineCount State.tableCues
  rw [hs, hf, hl]

/-- A request with whose acceptance the stage trips: every attached machine has the fault and its report waiting or begun, and the
request is answered DONE. -/
theorem exec_request_trips (h : s.ServesRequest m) (k : RequestKind) (note : Bool) {p : List Byte} (hl : lenAllowed k p = true)
    (hk : k ≠ .status) {u : State} (hh : s.handle m k p = (.done [], u.trip)) (hu : u.Settled) :
    ∃ t : State, exec (requestRow m k note p) s = .next t ∧
      t = { u with mixer := u.mixer.tripped u.now, links := t.links } ∧
      (∀ n, t.attached n = true → (t.link n).fault = true ∧ (t.link n).causes.speaker = true ∧
        (((t.link n).faultMark ≠ none ∧ (t.link n).pendingSpeaker = true) ∨
          ∃ store, (t.link n).tx = .sending (.fault store true (u.mixer.trips + 1)))) ∧
      (t.link m).reply = some
        { echo := k.code, body := .done [], condition := if note then some (t.conditionByte m) else none } := by
  generalize hx : u.trip.formReply m k.code (.done []) note = x
  obtain ⟨L, e, hlink⟩ := x.settle_of_links (by rw [← hx]; exact hu.1) (by rw [← hx]; exact hu.2.1) (by rw [← hx]; exact hu.2.2.1)
  have hstate : x = { u with mixer := u.mixer.tripped u.now, links := x.links } := by rw [← hx]; rfl
  have hxl (n : Side) : x.link n = if n = m then
      { u.trip.link m with reply := some ⟨k.code, .done [], if note then some (u.trip.conditionByte m) else none⟩ }
      else u.trip.link n := by rw [← hx, State.formReply_link]
  refine ⟨x.settle, ?_, by rw [e, hstate], fun n ha => ?_, ?_⟩
  · rw [exec_request_up h.atRest.1, State.submit_of_takes h.1, State.dispatchRequest, State.linkRefusal_of_serves h hl]
    simp only [State.serveRequest, hh]
    rw [State.settleArb_of_not_due u.trip hu.1]
    cases k <;> first
      | exact absurd rfl hk
      | exact congrArg (fun x : State => Host.Outcome.next x.settle) hx
  · have ha' : u.attached n = true := by rw [e, hstate] at ha; exact ha
    have hfault : (x.link n).fault = true ∧ (x.link n).causes.speaker = true ∧ (x.link n).faultMark ≠ none ∧
        (x.link n).pendingSpeaker = true := by
      have : (u.trip.link n) = (u.link n).speakerFault := by rw [State.trip_link, if_pos ha']
      rw [Link.speakerFault_eq] at this
      rw [hxl]
      split
      next hnm => subst hnm; rw [this]; simp
      next => rw [this]; simp
    obtain ⟨h1, h2, h3, h4⟩ := hfault
    obtain ⟨k1, k2, -⟩ := x.txChoose_keeps n
    rw [hlink n, k1, k2]
    have htrips : x.mixer.trips = u.mixer.trips + 1 := by rw [hstate]; rfl
    exact ⟨h1, h2, htrips ▸ State.txChoose_fault_waits h3 h4⟩
  · obtain ⟨k1, -, k3⟩ := x.txChoose_keeps m
    have hc : x.settle.conditionByte m = u.trip.conditionByte m := by
      refine State.conditionByte_congr (by rw [e, hstate]; rfl) (by rw [e, hstate]; rfl) ?_
      rw [hlink m, k1, hxl, if_pos rfl]
    rw [hc, hlink m, k3, hxl, if_pos rfl]

theorem parseFlag_eq (b : Byte) : parseFlag b = if 1 < b.toNat then none else some (decide (b = 1)) := by
  have h1 : b.toNat = 1 ↔ b = 1 := byte_toNat_eq_iff (by decide)
  unfold parseFlag
  split
  next h =>
    rw [if_neg (by omega)]
    exact congrArg some (decide_eq_false fun hb => by have := h1.2 hb; omega).symm
  next h =>
    rw [if_neg (by omega)]
    exact congrArg some (decide_eq_true (h1.1 h)).symm
  next h0 h' =>
    rw [if_pos]
    have : b.toNat ≠ 0 := fun h => h0 h
    have : b.toNat ≠ 1 := fun h => h' h
    omega

theorem parseSpeakerSetup_eq (e dt : Byte) : parseSpeakerSetup [e, dt] =
    if 1 < e.toNat then none else some (decide (e = 1), max 1 (min 16 dt.toNat)) := by
  rw [parseSpeakerSetup, parseFlag_eq]
  split <;> rfl

theorem handle_speakerSetup (s : State) (m : Side) {e : Byte} (he : e.toNat ≤ 1) (dt : Byte) :
    s.handle m .speakerSetup [e, dt] = (.done [], s.speakerSetup (decide (e = 1)) (max 1 (min 16 dt.toNat))) := by
  rw [State.handle, parseSpeakerSetup_eq, if_neg (by omega)]
  rfl

/-- SPEAKER_SETUP accepted (R155): by the stage and the enable it is given. -/
theorem State.speakerSetup_eq (s : State) (enable : Bool) (dt : Nat) (h : ¬(s.mixer.stage = .disabled ∧ enable = true ∧ s.mixer.sense = true)) :
    s.speakerSetup enable dt = { s with mixer := { s.mixer with
      enable := enable, deadTime := dt,
      stage := if s.mixer.stage = StageState.disabled ∧ enable = true then .driving
        else if s.mixer.stage = StageState.driving ∧ enable = false then .disabled
        else s.mixer.stage,
      gates := if s.mixer.stage = StageState.driving ∧ enable = false then none else s.mixer.gates } } := by
  unfold State.speakerSetup State.onMixer
  cases hs : s.mixer.stage <;> cases enable <;> simp_all [State.enterDriving, State.disable, State.onMixer]

theorem State.speakerSetup_trips (s : State) (dt : Nat) (hd : s.mixer.stage = .disabled) (hs : s.mixer.sense = true) :
    s.speakerSetup true dt = (s.onMixer fun x => { x with enable := true, deadTime := dt, stage := .driving }).trip := by
  unfold State.speakerSetup State.onMixer
  simp [hd, hs, State.enterDriving, State.onMixer]

/-- SPEAKER_RESET of a stage that goes on (R156). -/
theorem State.speakerReset_of_stopped (h : s.mixer.stage = .tripped ∨ s.mixer.stage = .locked) : s.speakerReset =
    (s.onMixer fun x => { x with
      trips := 0, retryTimer := if s.mixer.stage = StageState.tripped then none else x.retryTimer }).resume := by
  unfold State.speakerReset State.onMixer
  rcases h with h | h <;> simp [h]

theorem State.speakerReset_of_running (h : s.mixer.stage = .driving ∨ s.mixer.stage = .disabled) : s.speakerReset =
    { s with mixer := { s.mixer with trips := 0 } } := by
  unfold State.speakerReset State.onMixer
  rcases h with h | h <;> simp [h]

/-- Settles O44. -/
theorem speakerCommandsMoveStage : Obligations.SpeakerCommandsMoveStage := by
  refine ⟨fun s m note e dt h => ⟨fun he => ?_, fun he hn => ?_, fun hd he hs => ?_⟩,
    fun s m note h => ⟨fun hr => ?_, fun hr hn => ?_, fun hr he hs => ?_⟩⟩
  · refine exec_request_format h .speakerSetup note rfl ?_
    rw [State.handle, parseSpeakerSetup_eq, if_pos he]
    rfl
  · have h1 : e.toNat = 1 ↔ e = 1 := byte_toNat_eq_iff (by decide)
    have h0 : e.toNat = 0 ↔ e = 0 := byte_toNat_eq_iff (by decide)
    have hoff : (decide (e = 1) = false) = (e = 0) := by rw [decide_eq_false_iff_not, ← h1, ← h0]; exact propext (by omega)
    refine exec_request_done h .speakerSetup note rfl (by decide) (t := { s with mixer := _ }) ?_ h.atRest.2
    rw [handle_speakerSetup s m he, State.speakerSetup_eq s _ _ (by simpa using hn)]
    simp only [decide_eq_true_eq, hoff]
  · subst he
    obtain ⟨t, hex, ht, hf, ha⟩ := exec_request_trips h .speakerSetup note rfl (by decide)
      (u := s.onMixer fun x => { x with enable := true, deadTime := max 1 (min 16 dt.toNat), stage := .driving })
      ((handle_speakerSetup s m (e := 1) (by decide) dt).trans (congrArg (Prod.mk _) (s.speakerSetup_trips _ hd hs))) h.atRest.2
    exact ⟨t, hex, ht, hf, ha⟩
  · refine exec_request_done h .speakerReset note rfl (by decide) (t := { s with mixer := _ }) ?_ h.atRest.2
    rw [State.handle, State.speakerReset_of_running hr]
  · refine exec_request_done h .speakerReset note rfl (by decide) (t := { s with mixer := _ }) ?_ h.atRest.2
    rw [State.handle, State.speakerReset_of_stopped hr, State.resume_eq]
    exact congrArg (Prod.mk _) (if_neg hn)
  · obtain ⟨t, hex, ht, hf, ha⟩ := exec_request_trips h .speakerReset note (p := []) rfl (by decide)
      (u := s.onMixer fun x => { x with
        trips := 0, retryTimer := if s.mixer.stage = StageState.tripped then none else x.retryTimer, stage := .driving })
      (by
        rw [State.handle, State.speakerReset_of_stopped hr, State.resume_eq]
        exact congrArg (Prod.mk _) (if_pos ⟨he, hs⟩)) h.atRest.2
    exact ⟨t, hex, ht, hf, ha⟩

/-! ### Ducking and the bridge (R145, R150, R151) -/

theorem exec_duckTick_up (h : s.resetHeld = false) : exec .duckTick s = .next s.duckTick := running_of_up h State.duckTick

theorem exec_carrierPeriod_up (h : s.resetHeld = false) : exec .carrierPeriod s = .next (s.onMixer Mixer.carrier) :=
  running_of_up h fun s => s.onMixer Mixer.carrier

theorem State.duckTick_duck (s : State) (v : Fin 4) : s.duckTick.mixer.duck[v] = duckStep s.mixer.duck[v] (s.duckTarget v) := by
  simp [State.duckTick, State.onMixer]

theorem State.duckTarget_eq (s : State) (v : Fin 4) (P : Prop) [Decidable P]
    (hP : P ↔ ∃ h p, (s.sched.voices[v]).holder = some h ∧ s.sched.path.holder = some p ∧ h ≠ p ∧ s.stream.state = .playing ∧
      ∃ c, s.cue? p = some c ∧ c.state = .playing ∧ c.phase = some .main) : s.duckTarget v = if P then 64 else 256 := by
  unfold State.duckTarget
  split
  next h p hh hp =>
    refine if_congr ?_ rfl rfl
    rw [hP]
    constructor
    · rintro ⟨hne, hc, hst⟩
      obtain ⟨c, hc, hm⟩ := (Option.any_eq_true _ _).1 hc
      exact ⟨h, p, hh, hp, hne, hst, c, hc, by simpa [Cue.inMain] using hm⟩
    · rintro ⟨h', p', hh', hp', hne, hst, c, hc, hm⟩
      obtain rfl := Option.some.inj (hh.symm.trans hh')
      obtain rfl := Option.some.inj (hp.symm.trans hp')
      exact ⟨hne, (Option.any_eq_true _ _).2 ⟨c, hc, by simpa [Cue.inMain] using hm⟩, hst⟩
  next hno =>
    rw [if_neg]
    rintro hp
    obtain ⟨h, p, hh, hp, -⟩ := hP.1 hp
    exact hno h p hh hp

theorem dutyOf_cast (m : Int) {dt : Nat} (h16 : dt ≤ 16) :
    (dutyOf m dt : Int) = max (dt : Int) (min (1024 - dt) (512 + m / 64)) := by
  unfold dutyOf clamp
  omega

theorem State.gateOn_of_some {g : GateDrive} (hg : s.mixer.gates = some g) {line : GateLine} {k : Nat}
    (h : s.gateOn line k = true) : g.on line k = true := by
  simp only [State.gateOn, hg, Bool.and_eq_true] at h
  exact h.2

theorem GateDrive.on_iff (g : GateDrive) (line : GateLine) (k : Nat) : g.on line k = true ↔
    (if line = .pHigh ∨ line = .nLow then g.deadTime ≤ k ∧ k < g.duty else g.duty + g.deadTime ≤ k ∧ k < 1024) := by
  cases line <;> simp [GateDrive.on]

/-- A line that is on is so within the bounds of its interval (R151). -/
theorem State.gateOn_bounds (hs : s.mixer.StageOk) {line : GateLine} {k : Nat} (h : s.gateOn line k = true) :
    ∃ g, s.mixer.gates = some g ∧ s.mixer.stage = .driving ∧ 1 ≤ g.deadTime ∧ g.duty + g.deadTime ≤ 1024 ∧
      (if line = .pHigh ∨ line = .nLow then g.deadTime ≤ k ∧ k < g.duty else g.duty + g.deadTime ≤ k ∧ k < 1024) := by
  obtain ⟨-, -, -, -, -, -, hgates⟩ := hs
  cases hg : s.mixer.gates with
  | none => simp [State.gateOn, hg] at h
  | some g =>
    obtain ⟨hd, h1, -, -, h1024⟩ := hgates g hg
    exact ⟨g, rfl, hd, h1, h1024, (g.on_iff line k).1 (State.gateOn_of_some hg h)⟩

theorem State.gateOn_within (s : State) {line : GateLine} {k : Nat} (h : s.gateOn line k = true)
    (hl : line = .pLow ∨ line = .nHigh) : k < 1024 := by
  cases hg : s.mixer.gates with
  | none => simp [State.gateOn, hg] at h
  | some g =>
    have := (g.on_iff line k).1 (State.gateOn_of_some hg h)
    rcases hl with rfl | rfl <;> simp at this <;> exact this.2

/-- Settles O43. -/
theorem duckCarrierAndBridge : Obligations.DuckCarrierAndBridge := by
  refine ⟨⟨fun s hup => ⟨_, exec_duckTick_up hup, rfl, fun v => ?_⟩, fun s hup h1 h16 =>
    ⟨_, dutyOf_cast s.mixer.mixed h16, exec_carrierPeriod_up hup⟩⟩, fun s hs => ⟨fun k => ?_, fun g a b hg => ?_,
    fun g line k hg hk => ?_, fun t g a b hg => ?_, fun hn line k => ?_⟩⟩
  · classical
    dsimp only
    rw [s.duckTick_duck v, s.duckTarget_eq v _ Iff.rfl]
    exact ⟨fun h => by rw [if_pos h]; rfl, fun h => by rw [if_neg h]; rfl⟩
  · constructor <;>
    · rintro ⟨ha, hb⟩
      obtain ⟨g, hg, -, -, -, ka⟩ := State.gateOn_bounds hs ha
      obtain ⟨g', hg', -, -, -, kb⟩ := State.gateOn_bounds hs hb
      obtain rfl := Option.some.inj (hg.symm.trans hg')
      simp at ka kb
      omega
  · constructor <;>
    · intro ha hb
      have ka := (g.on_iff _ _).1 (State.gateOn_of_some hg ha)
      have kb := (g.on_iff _ _).1 (State.gateOn_of_some hg hb)
      simp at ka kb
      omega
  · rw [Bool.eq_false_iff]
    intro h
    obtain ⟨g', hg', -, -, h1024, k'⟩ := State.gateOn_bounds hs h
    obtain rfl := Option.some.inj (hg.symm.trans hg')
    split at k' <;> omega
  · constructor <;>
    · intro ha hb
      have ka := s.gateOn_within ha (by simp)
      have kb := (g.on_iff _ _).1 (State.gateOn_of_some hg hb)
      simp at kb
      omega
  · rw [Bool.eq_false_iff]
    intro h
    obtain ⟨-, -, hd, -⟩ := State.gateOn_bounds hs h
    exact hn hd

/-! ### Lamps and the display's timers (R158, R165 to R169) -/

theorem exec_pwmPeriod_up (h : s.resetHeld = false) : exec .pwmPeriod s = .next s.pwm := running_of_up h State.pwm

theorem State.pwm_focusLamp (s : State) (m : Side) : s.pwm.display.lamps.focus.get m = s.focusLamp m := by cases m <;> rfl

theorem State.pwm_ringLamp (s : State) (i : Fin 12) : s.pwm.display.lamps.ring[i] = s.ringLamp i.val := by
  simp [State.pwm, State.onDisplay]

theorem State.ringLamp_of_effect {e : RingEffect} {c : Cue} {f : LampEffect} (he : s.display.ringEffect = some e)
    (hc : s.sched.table[e.cue] = some c) (ho : c.origin = .machine m) (hf : c.lamp = some f) (i : Nat) :
    s.ringLamp i = effectLamp f (s.display.ringLevels.get m).bright ((s.now - e.start) / 1000) i := by
  unfold State.ringLamp
  rw [he]
  dsimp only
  rw [hc]
  dsimp only
  rw [hf, ho]
  rfl

/-- Settles O48. -/
theorem pwmAndBacklight : Obligations.PwmAndBacklight := by
  refine ⟨fun s hup => ⟨_, exec_pwmPeriod_up hup, rfl, s.pwm_focusLamp, ?_, rfl, fun hn i => ?_, fun e c m he hc ho => ?_⟩,
    fun s hup => ⟨running_of_up hup fun s => s.onDisplay fun d => { d with transfer := .idle }, fun hi => ?_, fun hi => ?_⟩⟩
  · change s.display.backlightLamp = _
    unfold Display.backlightLamp
    cases s.display.backlight <;> rfl
  · rw [State.pwm_ringLamp, State.ringLamp, hn]
    rfl
  · dsimp only
    intro i
    rw [State.pwm_ringLamp]
    exact ⟨fun hf => State.ringLamp_of_effect he hc ho hf i.val, fun hf => State.ringLamp_of_effect he hc ho hf i.val,
      fun hf => State.ringLamp_of_effect he hc ho hf i.val⟩
  · refine (running_of_up hup State.idleExpiry).trans ?_
    obtain ⟨n, hn⟩ := Option.ne_none_iff_exists'.1 hi
    rw [State.idleExpiry, hn]
    rfl
  · refine (running_of_up hup State.idleExpiry).trans ?_
    rw [State.idleExpiry, hi]

end Sys2Proof.Machine
end

section
/-! SUPPORT. CUE_POST: its fields, its checks in their order, and what an accepted one is (O13, O14). -/

namespace Sys2Proof.Machine

variable {s t : State} {m : Side}

/-! ### The fields of CUE_POST (R39) -/

theorem classOfCode_eq (n : Nat) :
    classOfCode n = if 2 < n then none else some ([CueClass.alarm, .prompt, .chime].getD n .alarm) := by
  match n with
  | 0 | 1 | 2 => rfl
  | n + 3 => rfl

theorem timingOfCode_eq (n : Nat) :
    timingOfCode n = if 2 < n then none else some ([ToneTiming.before, .together, .after].getD n .before) := by
  match n with
  | 0 | 1 | 2 => rfl
  | n + 3 => rfl

theorem effectOfCode_eq_none_iff (n : Nat) : effectOfCode n = none ↔ 2 < n := by
  match n with
  | 0 | 1 | 2 => simp [effectOfCode]
  | n + 3 => simp [effectOfCode]

theorem whenPresent_of_none {α : Type} {x : Option α} (b : Bool) (h : x = none) :
    whenPresent b x = if b = true then none else some none := by
  subst h
  rfl

theorem whenPresent_of_some {α : Type} {x : Option α} (b : Bool) (h : x ≠ none) :
    whenPresent b x = some (if b = true then x else none) := by
  obtain ⟨a, rfl⟩ := Option.ne_none_iff_exists'.1 h
  cases b <;> rfl

theorem speechPart_eq_none_iff (n : Byte) (items : List Byte) :
    (if 1 ≤ n.toNat ∧ n.toNat ≤ 16 then parseItems n.toNat items else none) = none ↔
      n = 0 ∨ 16 < n.toNat ∨ parseItems n.toNat items = none := by
  have h0 : n.toNat = 0 ↔ n = 0 := byte_toNat_eq_iff (by decide)
  rw [← h0]
  split
  next h => constructor <;> intro k <;> [exact .inr (.inr k); exact (k.resolve_left (by omega)).resolve_left (by omega)]
  next h => exact ⟨fun _ => by omega, fun _ => rfl⟩

/-- CUE_POST's fields: none is FORMAT (R39). -/
theorem parseCuePost_eq (id cls group l1 l0 rep gap hold parts pat timing scene lamp n : Byte) (items : List Byte) :
    parseCuePost (id :: cls :: group :: l1 :: l0 :: rep :: gap :: hold :: parts :: pat :: timing :: scene :: lamp :: n ::
        items) =
      if id = 0 ∨ 2 < cls.toNat ∨ 15 < group.toNat ∨ 15 < rep.toNat ∨ 15 < parts.toNat ∨
          (parts.getLsbD 0 = true ∧ (n = 0 ∨ 16 < n.toNat ∨ parseItems n.toNat items = none)) ∨
          (parts.getLsbD 0 = false ∧ (n ≠ 0 ∨ items ≠ [])) ∨ (parts.getLsbD 1 = true ∧ 2 < timing.toNat) ∨
          (parts.getLsbD 3 = true ∧ 2 < lamp.toNat) then none
      else some
        { id := id.toNat, cls := [CueClass.alarm, .prompt, .chime].getD cls.toNat .alarm, group := group.toNat,
          lifetime := min (l1.toNat * 256 + l0.toNat) 6000, repeats := rep.toNat, gapLength := gap.toNat,
          hold := if hold = 0 then 1 else hold.toNat,
          speech := if parts.getLsbD 0 then parseItems n.toNat items else none,
          tone := if parts.getLsbD 1 then some (pat.toNat, [ToneTiming.before, .together, .after].getD timing.toNat .before)
            else none,
          scene := if parts.getLsbD 2 then some scene.toNat else none,
          lamp := if parts.getLsbD 3 then [LampEffect.chase, .pulse, .flash][lamp.toNat]? else none } := by
  have hid : id.toNat = 0 ↔ id = 0 := byte_toNat_eq_iff (by decide)
  have hn : n.toNat = 0 ↔ n = 0 := byte_toNat_eq_iff (by decide)
  have hhold : max 1 hold.toNat = if hold = 0 then 1 else hold.toNat := by
    have : hold.toNat = 0 ↔ hold = 0 := byte_toNat_eq_iff (by decide)
    split
    next h => rw [this.2 h]; rfl
    next h => exact max_eq_right (Nat.one_le_iff_ne_zero.2 fun k => h (this.1 k))
  unfold parseCuePost
  dsimp only [bind, Option.bind]
  rw [classOfCode_eq]
  by_cases hc : 2 < cls.toNat
  · simp only [hc, true_or, or_true, if_true]
  rw [if_neg hc]
  dsimp only
  by_cases hs : parts.getLsbD 0 = true ∧ (n = 0 ∨ 16 < n.toNat ∨ parseItems n.toNat items = none)
  · rw [whenPresent_of_none _ ((speechPart_eq_none_iff n items).2 hs.2), if_pos hs.1]
    simp only [hs.1, hs.2, true_or, or_true, true_and, if_true]
  have hspeech : whenPresent (parts.getLsbD 0) (if 1 ≤ n.toNat ∧ n.toNat ≤ 16 then parseItems n.toNat items else none) =
      some (if parts.getLsbD 0 = true then parseItems n.toNat items else none) := by
    cases hp : parts.getLsbD 0 with
    | false => rfl
    | true =>
      have hs' := fun h => hs ⟨hp, h⟩
      rw [whenPresent_of_some _ (mt (speechPart_eq_none_iff n items).1 hs'), if_pos rfl, if_pos rfl, if_pos]
      have h0 : n.toNat ≠ 0 := fun h => hs' (.inl (hn.1 h))
      have h16 : ¬16 < n.toNat := fun h => hs' (.inr (.inl h))
      omega
  rw [hspeech]
  dsimp only
  by_cases ht : parts.getLsbD 1 = true ∧ 2 < timing.toNat
  · rw [whenPresent_of_none _ ((timingOfCode_eq _).trans (if_pos ht.2)), if_pos ht.1]
    simp only [ht.1, ht.2, true_or, or_true, true_and, if_true]
  have htiming : whenPresent (parts.getLsbD 1) (timingOfCode timing.toNat) =
      some (if parts.getLsbD 1 = true then some ([ToneTiming.before, .together, .after].getD timing.toNat .before) else none) := by
    rw [timingOfCode_eq]
    cases hp : parts.getLsbD 1 with
    | false => rfl
    | true => rw [if_neg fun h => ht ⟨hp, h⟩]; rfl
  rw [htiming]
  dsimp only
  by_cases he : parts.getLsbD 3 = true ∧ 2 < lamp.toNat
  · rw [whenPresent_of_none _ ((effectOfCode_eq_none_iff _).2 he.2), if_pos he.1]
    simp only [he.1, he.2, or_true, true_and, if_true]
  have heffect : whenPresent (parts.getLsbD 3) (effectOfCode lamp.toNat) =
      some (if parts.getLsbD 3 = true then effectOfCode lamp.toNat else none) := by
    cases hp : parts.getLsbD 3 with
    | false => rfl
    | true => exact whenPresent_of_some _ (mt (effectOfCode_eq_none_iff _).1 fun h => he ⟨hp, h⟩)
  rw [heffect]
  dsimp only
  refine if_congr ?_ rfl (congrArg some ?_)
  · have hn' : n.toNat ≠ 0 ↔ n ≠ 0 := hn.not
    rw [hid, hn']
    simp only [hc, hs, ht, he, false_or, or_false]
  · rw [hhold]
    simp only [Option.map_if, be16, effectOfCode]

/-! ### The phrase items (01 §1.9) -/

theorem parseItem_cons (t : Byte) (rest : List Byte) : parseItem (t :: rest) =
    match t.toNat, rest with
    | 1, hi :: lo :: rest => if be16 hi lo ≤ 1023 then some (.fragment (be16 hi lo), rest) else none
    | 2, hi :: lo :: u :: rest =>
      if 9999 < be16 hi lo then none
      else if u = 0xFF then some (.number (be16 hi lo) none, rest)
      else if u.toNat ≤ 15 then some (.number (be16 hi lo) (some u.toNat), rest)
      else none
    | 3, f :: rest => (fieldOfCode f.toNat).map fun x => (.field x, rest)
    | 4, p :: rest => if 1 ≤ p.toNat then some (.pause p.toNat, rest) else none
    | _, _ => none := rfl

theorem parseItem_fragment (a b : Byte) (rest : List Byte) : parseItem (1 :: a :: b :: rest) =
    if be16 a b ≤ 1023 then some (.fragment (be16 a b), rest) else none := rfl

theorem parseItem_number (a b u : Byte) (rest : List Byte) : parseItem (2 :: a :: b :: u :: rest) =
    if 9999 < be16 a b then none
    else if u = 0xFF then some (.number (be16 a b) none, rest)
    else if u.toNat ≤ 15 then some (.number (be16 a b) (some u.toNat), rest)
    else none := rfl

theorem parseItem_field (f : Byte) (rest : List Byte) : parseItem (3 :: f :: rest) =
    (fieldOfCode f.toNat).map fun x => (.field x, rest) := rfl

theorem parseItem_pause (p : Byte) (rest : List Byte) : parseItem (4 :: p :: rest) =
    if 1 ≤ p.toNat then some (.pause p.toNat, rest) else none := rfl

/-- The four forms of an item. -/
theorem parseItem_form {l rest : List Byte} {i : PhraseItem} (h : parseItem l = some (i, rest)) :
    (∃ a b, l = 1 :: a :: b :: rest) ∨ (∃ a b u, l = 2 :: a :: b :: u :: rest) ∨ (∃ f, l = 3 :: f :: rest) ∨
      ∃ p, l = 4 :: p :: rest := by
  have code {t : Byte} {n : Nat} (hn : n < 256) (ht : t.toNat = n) : t = BitVec.ofNat 8 n := (byte_toNat_eq_iff hn).1 ht
  cases l with
  | nil => cases h
  | cons t l =>
    rw [parseItem_cons] at h
    split at h
    next a b r ht =>
      split at h
      next => cases h; exact .inl ⟨a, b, by rw [code (by decide) ht]; rfl⟩
      next => cases h
    next a b u r ht =>
      have ht : t = 2 := code (by decide) ht
      refine .inr (.inl ⟨a, b, u, ?_⟩)
      split_ifs at h <;> cases h <;> rw [ht]
    next f r ht =>
      obtain ⟨x, -, e⟩ := Option.map_eq_some_iff.1 h
      cases e
      exact .inr (.inr (.inl ⟨f, by rw [code (by decide) ht]; rfl⟩))
    next p r ht =>
      split at h
      next => cases h; exact .inr (.inr (.inr ⟨p, by rw [code (by decide) ht]; rfl⟩))
      next => cases h
    next => cases h

/-- An item is read off the front of whatever follows it. -/
theorem parseItem_append {l rest : List Byte} {i : PhraseItem} (h : parseItem l = some (i, rest)) (b : List Byte) :
    parseItem (l ++ b) = some (i, rest ++ b) := by
  rcases parseItem_form h with ⟨x, y, rfl⟩ | ⟨x, y, u, rfl⟩ | ⟨f, rfl⟩ | ⟨p, rfl⟩
  · rw [parseItem_fragment] at h
    simp only [List.cons_append]
    rw [parseItem_fragment]
    split at h <;> simp_all
  · rw [parseItem_number] at h
    simp only [List.cons_append]
    rw [parseItem_number]
    split_ifs at h ⊢ <;> simp_all
  · rw [parseItem_field] at h
    simp only [List.cons_append]
    rw [parseItem_field]
    obtain ⟨x, hx, e⟩ := Option.map_eq_some_iff.1 h
    simp_all
  · rw [parseItem_pause] at h
    simp only [List.cons_append]
    rw [parseItem_pause]
    split at h <;> simp_all

theorem parseItem_none {t : Byte} (h : t = 0 ∨ 4 < t.toNat) (rest : List Byte) : parseItem (t :: rest) = none := by
  cases hi : parseItem (t :: rest) with
  | none => rfl
  | some x =>
    exfalso
    rcases parseItem_form (i := x.1) (rest := x.2) hi with ⟨a, b, e⟩ | ⟨a, b, u, e⟩ | ⟨f, e⟩ | ⟨p, e⟩ <;>
    · obtain rfl := (List.cons.inj e).1
      simp at h

/-- One item read as a list. -/
theorem parseItems_one (l : List Byte) : parseItems 1 l = (parseItem l).bind fun x => if x.2.isEmpty then some [x.1] else none := by
  rw [parseItems]
  cases parseItem l with
  | none => rfl
  | some x =>
    dsimp only [Option.bind]
    rw [parseItems]
    split <;> rfl

theorem parseItem_of_parseItems_one {l : List Byte} {i : PhraseItem} (h : parseItems 1 l = some [i]) : parseItem l = some (i, []) := by
  rw [parseItems_one] at h
  obtain ⟨⟨j, r⟩, hj, e⟩ := Option.bind_eq_some_iff.1 h
  split at e
  next he =>
    obtain rfl : j = i := by simpa using e
    have he : r = [] := List.isEmpty_iff.1 he
    rw [hj, he]
  next => cases e

/-- Settles O13. -/
theorem cuePostRead : Obligations.CuePostRead := by
  refine ⟨fun id cls group l1 l0 rep gap hold parts pat timing scene lamp n items => ?_, fun a b => ?_, fun a b u => ?_, fun f => ?_,
    fun p => ?_, fun t rest h => ?_, fun n i is a b ha hb => ?_⟩
  · exact parseCuePost_eq ..
  · rw [parseItems_one, parseItem_fragment, show a.toNat * 256 + b.toNat = be16 a b from rfl]
    split <;> rfl
  · rw [parseItems_one, parseItem_number, show a.toNat * 256 + b.toNat = be16 a b from rfl]
    by_cases hn : 9999 < be16 a b
    · rw [if_pos hn, if_pos (.inl hn)]
      rfl
    · by_cases hu : u = 0xFF
      · rw [if_neg hn, if_pos hu, if_pos hu, if_neg (by simp [hn, hu])]
        rfl
      · rw [if_neg hn, if_neg hu, if_neg hu]
        by_cases h15 : u.toNat ≤ 15
        · rw [if_pos h15, if_neg (by omega)]
          rfl
        · rw [if_neg h15, if_pos (Or.inr ⟨by omega, hu⟩)]
          rfl
  · rw [parseItems_one, parseItem_field]
    change _ = (fieldOfCode f.toNat).map _
    cases fieldOfCode f.toNat <;> rfl
  · rw [parseItems_one, parseItem_pause]
    have h0 : p.toNat = 0 ↔ p = 0 := byte_toNat_eq_iff (by decide)
    by_cases hp : p = 0
    · simp [hp]
    · rw [if_pos (Nat.one_le_iff_ne_zero.2 fun k => hp (h0.1 k)), if_neg hp]
      rfl
  · rw [parseItems_one, parseItem_none h]
    rfl
  · rw [parseItems, parseItem_append (parseItem_of_parseItems_one ha) b]
    simp [hb]

/-! ### The checks of CUE_POST (R40) -/

theorem State.slotOfId_isSome_iff (s : State) (m : Side) (id : Nat) : (s.slotOfId m id).isSome = true ↔
    ∃ (i : Fin 24) (c : Cue), s.sched.table[i] = some c ∧ c.ofMachine m = true ∧ c.id = id := by
  rw [State.slotOfId, Option.isSome_map, List.find?_isSome]
  constructor
  · rintro ⟨⟨i, c⟩, hm, hc⟩
    simp only [Bool.and_eq_true, decide_eq_true_eq] at hc
    exact ⟨i, c, (s.mem_tableCues i c).1 hm, hc⟩
  · rintro ⟨i, c, hi, hm, hid⟩
    exact ⟨(i, c), (s.mem_tableCues i c).2 hi, by simp [hm, hid]⟩

theorem State.freeSlot_eq_none_iff (s : State) : s.freeSlot = none ↔ ∀ i : Fin 24, s.sched.table[i] ≠ none := by
  rw [State.freeSlot, List.find?_eq_none]
  exact ⟨fun h i hi => h i (List.mem_finRange i) (by rw [hi]; rfl), fun h i _ hi => h i (Option.isNone_iff_eq_none.1 hi)⟩

/-- The lowest free slot is taken (log 8). -/
theorem State.freeSlot_eq_some {i : Fin 24} (hi : s.sched.table[i] = none) (hlow : ∀ j : Fin 24, j < i → s.sched.table[j] ≠ none) :
    s.freeSlot = some i := by
  cases hf : s.freeSlot with
  | none => exact absurd hi ((s.freeSlot_eq_none_iff).1 hf i)
  | some j =>
    have hj : s.sched.table[j] = none := State.freeSlot_none hf
    obtain ⟨_, as, bs, e, hbefore⟩ := List.find?_eq_some_iff_append.1 hf
    rcases lt_trichotomy j i with h | rfl | h
    · exact absurd hj (hlow j h)
    · rfl
    · have hsorted : (List.finRange 24).Pairwise (· < ·) := List.pairwise_lt_finRange 24
      have hmem : i ∈ as := by
        have := List.mem_finRange i
        rw [e] at this hsorted
        rcases List.mem_append.1 this with h' | h'
        · exact h'
        · rcases List.mem_cons.1 h' with rfl | h'
          · exact absurd h (lt_irrefl _)
          · have := (List.pairwise_cons.1 (List.pairwise_append.1 hsorted).2.1).1 i h'
            exact absurd h (lt_asymm this)
      have := hbefore i hmem
      rw [hi] at this
      cases this

theorem admitScene_eq_none_iff (k : Option Nat) : admitScene k = none ↔ ∃ n, k = some n ∧ 7 < n := by
  cases k with
  | none => simp [admitScene]
  | some n =>
    by_cases h : n < 8
    · simp [admitScene, h]; omega
    · simp [admitScene, h]; omega

theorem admitScene_map (k : Option (Fin 8)) : admitScene (k.map fun k => k.val) = some k := by
  cases k with
  | none => rfl
  | some k => exact dif_pos k.isLt

theorem mayUsePattern_iff (m : Side) (p : Fin 32) : mayUsePattern m p = true ↔
    (p.val < 8 ∨ (m = .w ∧ p.val < 20) ∨ (m = .d ∧ 20 ≤ p.val)) := by
  unfold mayUsePattern patternOwner
  by_cases h8 : p.val < 8
  · simp [h8]
  · by_cases h20 : p.val < 20
    · cases m <;> simp [h8, h20]
    · cases m <;> simp [h8, h20] <;> omega

theorem State.admitTone_eq_none_iff (s : State) (m : Side) (x : Option (Nat × ToneTiming)) : s.admitTone m x = none ↔
    ∃ k t, x = some (k, t) ∧
      (31 < k ∨ (m = .w ∧ 20 ≤ k) ∨ (m = .d ∧ 8 ≤ k ∧ k < 20) ∨ ∀ h : k < 32, s.tone.patterns[k] = none) := by
  cases x with
  | none => simp [State.admitTone]
  | some x =>
    obtain ⟨k, t⟩ := x
    unfold State.admitTone
    dsimp only
    by_cases h : k < 32
    · rw [dif_pos h]
      by_cases hp : (mayUsePattern m ⟨k, h⟩ && (s.tone.patterns[k]).isSome) = true
      · rw [if_pos hp]
        simp only [Bool.and_eq_true] at hp
        have hu := (mayUsePattern_iff m ⟨k, h⟩).1 hp.1
        refine ⟨fun e => by simp at e, ?_⟩
        rintro ⟨k', t', e, hbad⟩
        cases e
        rcases hbad with h' | ⟨rfl, h'⟩ | ⟨rfl, h', h''⟩ | h'
        · omega
        · simp at hu; omega
        · simp at hu; omega
        · rw [h' h] at hp
          simp at hp
      · rw [if_neg hp]
        refine ⟨fun _ => ⟨k, t, rfl, ?_⟩, fun _ => rfl⟩
        by_contra hno
        simp only [not_or, not_and, not_forall] at hno
        obtain ⟨h1, h2, h3, _, h5⟩ := hno
        refine hp ?_
        rw [Bool.and_eq_true, mayUsePattern_iff]
        refine ⟨?_, Option.isSome_iff_ne_none.2 h5⟩
        cases m <;> simp at h2 h3 ⊢ <;> omega
    · rw [dif_neg h]
      exact ⟨fun _ => ⟨k, t, rfl, .inl (by omega)⟩, fun _ => rfl⟩

theorem State.admitTone_map {tone : Option TonePart}
    (h : ∀ t, tone = some t → (s.tone.patterns[t.pattern]).isSome = true ∧
      (t.pattern.val < 8 ∨ (m = .w ∧ t.pattern.val < 20) ∨ (m = .d ∧ 20 ≤ t.pattern.val))) :
    s.admitTone m (tone.map fun t => (t.pattern.val, t.timing)) = some tone := by
  cases tone with
  | none => rfl
  | some t =>
    obtain ⟨hs, hu⟩ := h t rfl
    unfold State.admitTone
    dsimp only [Option.map]
    rw [dif_pos t.pattern.isLt, if_pos]
    rw [Bool.and_eq_true]
    exact ⟨(mayUsePattern_iff m t.pattern).2 hu, hs⟩

/-! ### The post and its refusals -/

theorem emptyCue_iff (r : CuePostReq) : (r.speech.isNone && r.tone.isNone && r.scene.isNone && r.lamp.isNone) = true ↔
    (r.speech = none ∧ r.tone = none ∧ r.scene = none ∧ r.lamp = none) := by
  simp [and_assoc]

/-- CUE_POST once the id, the quota and the table let it pass (R40 checks 1 to 4). -/
theorem State.cuePost_of_slot {r : CuePostReq} {i : Fin 24} (he : ¬(r.speech = none ∧ r.tone = none ∧ r.scene = none ∧ r.lamp = none))
    (hid : ¬∃ (i : Fin 24) (c : Cue), s.sched.table[i] = some c ∧ c.ofMachine m = true ∧ c.id = r.id) (hq : s.machineCount m < 16)
    (hf : s.freeSlot = some i) : s.cuePost m r =
      match admitScene r.scene with
      | none => (.refused .badSlot, s)
      | some scene =>
        match s.admitTone m r.tone with
        | none => (.refused .badPattern, s)
        | some tone => (.done [], s.acceptCue m i (postedCue s m r tone scene)) := by
  unfold State.cuePost
  rw [if_neg (mt (emptyCue_iff r).1 he), if_neg (mt (s.slotOfId_isSome_iff m r.id).1 hid), if_neg (Nat.not_le.2 hq), hf] <;> rfl

/-- Settles O14. -/
theorem cuePostRefusedInOrder : Obligations.CuePostRefusedInOrder := by
  intro s m note p h hl
  refine ⟨fun hp => ?_, fun r hr => ?_⟩
  · refine exec_request_format h .cuePost note hl ?_
    rw [State.handle, hp]
    rfl
  · have refused {reason : Reason} (hc : s.cuePost m r = (.refused reason, s)) :
        exec (.cuePost m note p) s = .next (s.refuses m .cuePost reason note) := by
      refine exec_request_refused h .cuePost note hl ?_ h.atRest.2
      rw [State.handle, hr]
      exact hc
    have slot (hfull : ¬∀ i : Fin 24, s.sched.table[i] ≠ none) : ∃ i, s.freeSlot = some i :=
      Option.ne_none_iff_exists'.1 (mt (s.freeSlot_eq_none_iff).1 hfull)
    dsimp only
    refine ⟨fun he => refused ?_, fun he hu => refused ?_, fun he hu hq => refused ?_, fun he hu hq hf => refused ?_,
      fun he hu hq hf hs => refused ?_, fun he hu hq hf hs ht => refused ?_⟩
    · rw [State.cuePost, if_pos ((emptyCue_iff r).2 he)]
    · rw [State.cuePost, if_neg (mt (emptyCue_iff r).1 he), if_pos ((s.slotOfId_isSome_iff m r.id).2 hu)]
    · rw [State.cuePost, if_neg (mt (emptyCue_iff r).1 he), if_neg (mt (s.slotOfId_isSome_iff m r.id).1 hu), if_pos hq]
    · rw [State.cuePost, if_neg (mt (emptyCue_iff r).1 he), if_neg (mt (s.slotOfId_isSome_iff m r.id).1 hu),
        if_neg (Nat.not_le.2 hq), (s.freeSlot_eq_none_iff).2 hf]
    · obtain ⟨i, hi⟩ := slot hf
      rw [State.cuePost_of_slot he hu hq hi, (admitScene_eq_none_iff _).2 hs]
    · obtain ⟨i, hi⟩ := slot hf
      obtain ⟨scene, hscene⟩ := Option.ne_none_iff_exists'.1 (mt (admitScene_eq_none_iff _).1 hs)
      rw [State.cuePost_of_slot he hu hq hi, hscene, (s.admitTone_eq_none_iff m _).2 ht]

end Sys2Proof.Machine
end

section
/-! SUPPORT. The requests of the Context Unit, the focus claim and the scene slots (O10, O12, O29). -/

namespace Sys2Proof.Machine

variable {s t : State} {m : Side}

/-! ### CONTEXT, PROGRAMS, BAND_TEXT (R24 to R26) -/

theorem localSlot_eq (b : Byte) : localSlot b = if h : b.toNat < 8 then some ⟨b.toNat, h⟩ else none := rfl

theorem phraseCodes_getElem? (l : List Byte) (k : Nat) (hk : 2 * k + 1 < l.length) :
    (phraseCodes l)[k]? = some (min ((l.getD (2 * k) 0).toNat * 256 + (l.getD (2 * k + 1) 0).toNat) 1023) := by
  match l, k with
  | [], _ => simp at hk
  | [_], _ => simp at hk
  | a :: b :: l, 0 => rfl
  | a :: b :: l, k + 1 =>
    have ih := phraseCodes_getElem? l k (by simp at hk; omega)
    rw [phraseCodes, List.getElem?_cons_succ, ih]
    rfl

/-- The codes of PROGRAMS, each from its two bytes (R25). -/
theorem phraseCodes_eq {n : Nat} {l : List Byte} (hl : l.length = 2 * n) : (phraseCodes l).take n =
    (List.range n).map fun k => min ((l.getD (2 * k) 0).toNat * 256 + (l.getD (2 * k + 1) 0).toNat) 1023 := by
  have hlen : (phraseCodes l).length = n := by rw [phraseCodes_length, hl]; omega
  rw [List.take_of_length_le hlen.le]
  refine List.ext_getElem? fun k => ?_
  by_cases hk : k < n
  · rw [phraseCodes_getElem? l k (by omega), List.getElem?_map, List.getElem?_range hk]
    rfl
  · rw [List.getElem?_eq_none (by omega), List.getElem?_eq_none (by simpa using hk)]

theorem parsePrograms_eq (count wrap idle : Byte) (codes : List Byte) (hl : codes.length = 2 * count.toNat) :
    parsePrograms (count :: wrap :: idle :: codes) =
      if count.toNat = 0 ∨ 24 < count.toNat ∨ 1 < wrap.toNat ∨ (8 ≤ idle.toNat ∧ idle ≠ 0xFF) then none
      else some
        { wrap := wrap = 1, idleScene := if h : idle.toNat < 8 then some ⟨idle.toNat, h⟩ else none,
          codes := (List.range count.toNat).map fun k =>
            min ((codes.getD (2 * k) 0).toNat * 256 + (codes.getD (2 * k + 1) 0).toNat) 1023 } := by
  unfold parsePrograms
  dsimp only
  rw [parseFlag_eq, phraseCodes_eq hl]
  by_cases hc : count.toNat = 0 ∨ 24 < count.toNat
  · rw [if_pos hc, if_pos (by tauto)]
  rw [if_neg hc]
  by_cases hw : 1 < wrap.toNat
  · rw [if_pos hw, if_pos (by tauto)]
  rw [if_neg hw]
  dsimp only
  by_cases hi : idle = 0xFF
  · have h8 : ¬idle.toNat < 8 := by subst hi; decide
    rw [if_pos hi, if_neg, dif_neg h8]
    rintro (h | h | h | h)
    · exact hc (.inl h)
    · exact hc (.inr h)
    · exact hw h
    · exact h.2 hi
  rw [if_neg hi]
  by_cases h8 : idle.toNat < 8
  · rw [localSlot_eq, dif_pos h8, if_neg]
    · rfl
    rintro (h | h | h | h)
    · exact hc (.inl h)
    · exact hc (.inr h)
    · exact hw h
    · omega
  · rw [localSlot_eq, dif_neg h8, if_pos (.inr (.inr (.inr ⟨by omega, hi⟩)))]
    rfl

theorem parseContext_eq (phase r1 r0 v1 v0 temp index : Byte) : parseContext [phase, r1, r0, v1, v0, temp, index] =
    (phaseOfCode phase.toNat).map fun ph =>
      { phase := ph, remaining := min (r1.toNat * 256 + r0.toNat) 999, speed := min (v1.toNat * 256 + v0.toNat) 1600,
        temperature := max (-20) (min 95 temp.toInt), index := index.toNat } := rfl

theorem handle_context_some {p : List Byte} {r : ContextReq} (h : parseContext p = some r) :
    s.handle m .context p = (.done [], s.onCtx m fun c => c.writeFacts r) := by
  rw [State.handle, h]
  rfl

theorem parseProfile_eq (language volume assist : Byte) : parseProfile [language, volume, assist] =
    if 7 < volume.toNat ∨ 1 < assist.toNat then none
    else some { language := language.toNat, volume := volume.toNat, assist := assist = 1 } := by
  rw [parseProfile, parseFlag_eq]
  by_cases hv : 7 < volume.toNat
  · rw [if_pos hv, if_pos (.inl hv)]
  · by_cases ha : 1 < assist.toNat
    · rw [if_neg hv, if_pos ha, if_pos (.inr ha)]
      rfl
    · rw [if_neg hv, if_neg ha, if_neg (not_or.2 ⟨hv, ha⟩)]
      rfl

/-- The language of PROFILE against the language count, 1 while the store is FAILED (R27, R88). -/
theorem State.languageCount_of_catalogOk (h : s.store.CatalogOk) : s.languageCount =
    match s.store.catalog with
    | some c => c.languages.length
    | none => 1 := by
  unfold Store.CatalogOk at h
  unfold State.languageCount
  split at h
  next hs hc => rw [hs, hc]
  next c hs hc => rw [hs, hc]
  next => exact h.elim

theorem min_pred_eq {n k : Nat} (h : 0 < n) : min k (n - 1) = if k < n then k else n - 1 := by
  split <;> omega

/-- What PROFILE writes (R27). -/
def State.withProfile (s : State) (m : Side) (language volume assist : Byte) : PerSide Context :=
  s.ctx.modify m fun c => { c with
    language := if language.toNat < s.languageCount then language.toNat else s.languageCount - 1,
    volume := volume.toNat, assist := assist = 1 }

theorem handle_profile (hcat : s.store.CatalogOk) {language volume assist : Byte} (hv : volume.toNat ≤ 7) (ha : assist.toNat ≤ 1) :
    s.handle m .profile [language, volume, assist] = (.done [], ({ s with ctx := s.withProfile m language volume assist }).onLink m
      fun l => l.retakeProfile (({ s with ctx := s.withProfile m language volume assist } : State).context m) s.now) := by
  have e : (s.onCtx m fun c => c.writeProfile { language := language.toNat, volume := volume.toNat, assist := assist = 1 }
      s.languageCount) = { s with ctx := s.withProfile m language volume assist } := by
    refine congrArg (fun f => s.onCtx m f) (funext fun c => ?_)
    unfold Context.writeProfile
    rw [min_pred_eq (State.languageCount_pos hcat)]
  rw [State.handle, parseProfile_eq, if_neg (by omega)]
  dsimp only [withFields, State.takeProfile]
  rw [e]

/-- PROFILE where its link sends no PROFILE report of an event of this moment. -/
theorem exec_profile_of_not (h : s.ServesRequest m) (note : Bool) (hcat : s.store.CatalogOk) {language volume assist : Byte}
    (hv : volume.toNat ≤ 7) (ha : assist.toNat ≤ 1)
    (hn : ∀ g v u a, (s.link m).tx = .sending (.profile g v u a) → (s.link m).profileShown ≠ some s.now) :
    exec (.profile m note [language, volume, assist]) s = .next
      (({ s with ctx := s.withProfile m language volume assist }).done m .profile note) := by
  refine exec_request_done h .profile note (p := [_, _, _]) rfl (by decide) (t := { s with ctx := s.withProfile m language volume assist }) ?_ h.atRest.2
  rw [handle_profile hcat hv ha]
  refine congrArg (Prod.mk _) ((State.onLink_congr _ m ?_).trans (State.onLink_self _ m))
  exact Link.retakeProfile_of_not _ hn

theorem State.withProfile_mutedFrom (s : State) (m : Side) (language volume assist : Byte) :
    (({ s with ctx := s.withProfile m language volume assist } : State).context m).profileFrame =
      .profile (if language.toNat < s.languageCount then language.toNat else s.languageCount - 1) volume.toNat
        (s.context m).mutedFrom (assist = 1) := by
  cases m <;> rfl

/-- PROFILE where its link sends the PROFILE report of an event of this moment: the report takes the values (log 25). -/
theorem exec_profile_of_shown (h : s.ServesRequest m) (note : Bool) (hcat : s.store.CatalogOk) {language volume assist : Byte}
    (hv : volume.toNat ≤ 7) (ha : assist.toNat ≤ 1) {g v u : Nat} {a : Bool} (htx : (s.link m).tx = .sending (.profile g v u a))
    (hshown : (s.link m).profileShown = some s.now) :
    exec (.profile m note [language, volume, assist]) s = .next (({ s with
      ctx := s.withProfile m language volume assist,
      links := s.links.modify m fun l => { l with tx := .sending (.profile
        (if language.toNat < s.languageCount then language.toNat else s.languageCount - 1) volume.toNat (s.context m).mutedFrom
        (assist = 1)) } }).done m .profile note) := by
  refine exec_request_done h .profile note (p := [_, _, _]) rfl (by decide) (t := ({ s with ctx := s.withProfile m language volume assist }).onLink m
    fun l => { l with tx := .sending (.profile
        (if language.toNat < s.languageCount then language.toNat else s.languageCount - 1) volume.toNat (s.context m).mutedFrom
        (assist = 1)) }) ?_ ?_
  · rw [handle_profile hcat hv ha]
    refine congrArg (Prod.mk _) (State.onLink_congr _ m ?_)
    refine (Link.retakeProfile_of_shown _ htx hshown).trans ?_
    rw [← State.withProfile_mutedFrom]
    rfl
  · exact State.Settled.onLink h.atRest.2 m _ fun hi => by cases hi

/-! ### A panel event's PROFILE report (R14, R175) -/

/-- A link whose first report to go is the PROFILE report of number `n`, of an event at `now`. -/
structure Link.AwaitsProfile (l : Link) (n now : Nat) : Prop where
  tx : l.tx = .idle
  reply : l.reply = none
  queue : l.queue = []
  inService : l.inService = none
  mark : l.profileMark = some n
  event : l.profileEvent = some now
  focusMark : l.focusMark = none
  faultMark : l.faultMark = none
  done : ∀ r ∈ l.done, n < r.order
  inputs : ∀ r ∈ l.inputs, n < r.order
  next : n < l.nextOrder

theorem Link.AwaitsProfile.grows {l k : Link} {n now j : Nat} {d : List DoneReport} (h : l.AwaitsProfile n now)
    (hk : k = { l with done := l.done ++ d, nextOrder := j }) (hj : l.nextOrder ≤ j) (hd : ∀ r ∈ d, l.nextOrder ≤ r.order) :
    k.AwaitsProfile n now := by
  subst hk
  exact { h with
    done := fun r hr => (List.mem_append.1 hr).elim (h.done r) fun hr => h.next.trans_le (hd r hr)
    next := h.next.trans_le hj }

theorem State.SameOutside.awaitsProfile {n now : Nat} (h : s.SameOutside t) (hs : (s.link m).AwaitsProfile n now) :
    (t.link m).AwaitsProfile n now := by
  obtain ⟨d, j, e, hj, hd⟩ := h.links m
  exact hs.grows e hj hd

theorem Link.addInput_key (l : Link) (k : Key) (a : KeyAction) : l.addInput (.key k a) =
    if l.inputs.length < 16 then
      { l with inputs := l.inputs ++ [{ order := l.nextOrder, content := .key k a }], nextOrder := l.nextOrder + 1 }
    else l.addCause Causes.withReportDrop := by
  unfold Link.addInput
  dsimp only
  split <;> first | rfl | contradiction

theorem Link.AwaitsProfile.addInput {l : Link} {n now : Nat} (h : l.AwaitsProfile n now) (k : Key) (a : KeyAction) :
    (l.addInput (.key k a)).AwaitsProfile n now := by
  rw [Link.addInput_key]
  split
  · exact { h with
      inputs := fun r hr => (List.mem_append.1 hr).elim (h.inputs r) fun hr => by rw [List.mem_singleton.1 hr]; exact h.next
      next := Nat.lt_succ_of_lt h.next }
  · exact { h with }

theorem State.txChoose_awaitsProfile {n now : Nat} (h : (s.link m).AwaitsProfile n now) : (s.txChoose m).link m =
    { s.link m with tx := .sending (s.context m).profileFrame, profileMark := none, profileShown := some now } := by
  have hmem : (n, ReportChoice.profile) ∈ (s.link m).available := by simp [Link.available, h.mark]
  have hmin : ∀ p ∈ (s.link m).available, p ≠ (n, ReportChoice.profile) → n < p.1 := by
    intro p hp hne
    simp only [Link.available, h.focusMark, h.faultMark, h.mark, Option.map_some, Option.map_none, Option.toList_some,
      Option.toList_none, List.append_nil, List.mem_append, List.mem_singleton, Option.mem_toList, Option.map_eq_some_iff] at hp
    rcases hp with (⟨r, hr, rfl⟩ | ⟨r, hr, rfl⟩) | rfl
    · exact h.done r (List.mem_of_head? hr)
    · exact h.inputs r (List.mem_of_head? hr)
    · exact absurd rfl hne
  rw [State.txChoose_idle_least h.tx h.reply hmem hmin, State.beginReport, State.link_onLink_same, ← h.event]

/-- Between the arbitrations and the transmitters' choices settling changes the store port and the check alone. -/
theorem State.portWork_eq (x : State) : ∃ st, x.grantRace.tryBeginCheck.portDecide = { x with store := st } ∧
    st.state = x.store.state ∧ st.catalog = x.store.catalog := by
  have race : ∃ st, x.grantRace = { x with store := st } ∧ st.state = x.store.state ∧ st.catalog = x.store.catalog := by
    unfold State.grantRace
    split
    · exact ⟨_, rfl, rfl, rfl⟩
    · exact ⟨_, rfl, rfl, rfl⟩
  have begin (y : State) : ∃ st, y.tryBeginCheck = { y with store := st } ∧ st.state = y.store.state ∧
      st.catalog = y.store.catalog := by
    unfold State.tryBeginCheck
    split
    · exact ⟨_, rfl, rfl, rfl⟩
    · exact ⟨_, rfl, rfl, rfl⟩
  have decide (y : State) : ∃ st, y.portDecide = { y with store := st } ∧ st.state = y.store.state ∧
      st.catalog = y.store.catalog := by
    unfold State.portDecide
    repeat' split
    all_goals exact ⟨_, rfl, rfl, rfl⟩
  obtain ⟨st1, e1, a1, b1⟩ := race
  obtain ⟨st2, e2, a2, b2⟩ := begin x.grantRace
  obtain ⟨st3, e3, a3, b3⟩ := decide x.grantRace.tryBeginCheck
  refine ⟨st3, by rw [e3, e2, e1], ?_, ?_⟩
  · rw [a3, e2, a2, e1, a1]
  · rw [b3, e2, b2, e1, b1]

/-- What settling comes to: the arbitrations, the port's work, and each transmitter's choice. -/
theorem State.settle_eq (s : State) : ∃ st L, s.settle = { s.settleArb with store := st, links := L } ∧
    st.state = s.store.state ∧ st.catalog = s.store.catalog ∧
    ∀ n, s.settle.link n = (({ s.settleArb with store := st } : State).txChoose n).link n := by
  obtain ⟨st, e, hst, hcat⟩ := s.settleArb.portWork_eq
  have hs := s.settleArb_frame.store
  have hsettle : s.settle = (({ s.settleArb with store := st } : State).txChoose .w).txChoose .d := by rw [State.settle, e]
  have hstate : st.state = s.store.state := by rw [hst, hs]
  have hcatalog : st.catalog = s.store.catalog := by rw [hcat, hs]
  have choices (x : State) : (∃ L, (x.txChoose .w).txChoose .d = { x with links := L }) ∧
      ∀ n, ((x.txChoose .w).txChoose .d).link n = (x.txChoose n).link n := by
    obtain ⟨k, hk, -⟩ := x.txChoose_eq .w
    obtain ⟨j, hj, -⟩ := (x.txChoose .w).txChoose_eq .d
    refine ⟨⟨_, by rw [hj, hk]; rfl⟩, fun n => ?_⟩
    cases n with
    | w => exact State.txChoose_link_of_ne _ (by decide)
    | d =>
      rw [hk]
      exact State.txChoose_link_onLink _ (by decide)
  obtain ⟨⟨L, hL⟩, hlink⟩ := choices { s.settleArb with store := st }
  exact ⟨st, L, hsettle.trans hL, hstate, hcatalog, fun n => by rw [hsettle, hlink n]⟩

theorem State.settle_languageCount (s : State) : s.settle.languageCount = s.languageCount := by
  obtain ⟨st, L, e, hst, hcat, -⟩ := s.settle_eq
  unfold State.languageCount
  rw [e]
  dsimp only
  rw [hst, hcat]

theorem State.settle_catalogOk (s : State) (h : s.store.CatalogOk) : s.settle.store.CatalogOk := by
  obtain ⟨st, L, e, hst, hcat, -⟩ := s.settle_eq
  unfold Store.CatalogOk at h ⊢
  rw [e]
  dsimp only
  rwa [hst, hcat]

/-- A link that awaits its PROFILE report has begun it once everything is settled. -/
theorem State.settle_awaitsProfile {n now : Nat} (h : (s.link m).AwaitsProfile n now) : ∃ k : Link, k.AwaitsProfile n now ∧
    s.settle.link m = { k with tx := .sending (s.context m).profileFrame, profileMark := none, profileShown := some now } := by
  obtain ⟨st, L, -, -, -, hlink⟩ := s.settle_eq
  have hk := s.settleArb_frame.awaitsProfile h
  refine ⟨_, hk, ?_⟩
  rw [hlink m]
  refine (State.txChoose_awaitsProfile (s := { s.settleArb with store := st }) hk).trans ?_
  have : ({ s.settleArb with store := st } : State).context m = s.context m :=
    congrArg (PerSide.get · m) s.settleArb_frame.ctx
  rw [this]
  rfl

/-- An event taken for the focus holder (R173). -/
theorem State.takeEvent_of_focus (hf : s.focus = some m) (e : PanelEvent) : s.takeEvent e =
    (((((if setsInputTime e then s.noteInput m else s).localAction m e).summarise m (eventClass e)).reportInput m (eventClass e)
      (reportOf (s.context m) e))).backlightEvent e := by
  rw [State.takeEvent, hf]

/-- A report joins its link, if the mask has its class, and nothing else changes. -/
theorem State.reportInput_eq (s : State) (m : Side) (c : InputClass) (r : InputContent) :
    ∃ L, s.reportInput m c r = { s with links := L } ∧
      ((s.reportInput m c r).link m = s.link m ∨ (s.reportInput m c r).link m = (s.link m).addInput r) := by
  unfold State.reportInput
  split
  · exact ⟨_, rfl, .inr (State.link_onLink_same ..)⟩
  · exact ⟨_, rfl, .inl rfl⟩

/-- VOLUME LONG of the focus holder at a settled moment: its link awaits the PROFILE report (R173, R175). -/
theorem State.volumeLong_awaits (h : s.TakesRequest m) (hf : s.focus = some m) (htx : (s.link m).tx = .idle)
    (hk : s.panel.longTimers[keyTimer .volume] ≠ none) : ∃ n, ((s.longPressExpiry .volume).link m).AwaitsProfile n s.now ∧
      (s.longPressExpiry .volume).partState = s.partState ∧ (s.longPressExpiry .volume).now = s.now ∧
      (s.longPressExpiry .volume).resetHeld = s.resetHeld ∧
      (s.longPressExpiry .volume).languageCount = s.languageCount ∧
      (s.store.CatalogOk → (s.longPressExpiry .volume).store.CatalogOk) ∧
      (s.longPressExpiry .volume).context m =
        ({ s.context m with lastInput := some s.now } : Context).volumeLong := by
  obtain ⟨hrest, hq, hin, hr⟩ := h
  obtain ⟨k, hk⟩ := Option.ne_none_iff_exists'.1 hk
  obtain ⟨hdone, hins, hfo, hpr, hfa⟩ := (s.link m).available_eq_nil_iff.1 ((hrest.2.link m) htx).2
  generalize ha : (((s.setLongTimer .volume none).noteInput m).onCtx m Context.volumeLong).markProfile m = a
  have hb := a.setFeedback_frame acceptPattern
  generalize hbx : a.setFeedback acceptPattern = b at hb
  obtain ⟨L, hL, hlink⟩ := State.reportInput_eq (b.summarise m .volume) m .volume (.key .volume .long)
  generalize hc : (b.summarise m .volume).reportInput m .volume (.key .volume .long) = c at hL hlink
  have hd := c.panelInput_turns.outside
  have e : s.longPressExpiry .volume = c.panelInput := by
    rw [State.longPressExpiry, hk, ← hc, ← hbx, ← ha]
    exact State.takeEvent_of_focus (s := s.setLongTimer .volume none) hf (.key .volume .long)
  have hal : (a.link m).AwaitsProfile (s.link m).nextOrder s.now := by
    have : a.link m = { s.link m with
        profileMark := some (s.link m).nextOrder, nextOrder := (s.link m).nextOrder + 1, profileEvent := some s.now } := by
      rw [← ha, State.markProfile, State.link_onLink_same]
      change { (s.link m).setProfileMark with profileEvent := some s.now } = _
      rw [Link.setProfileMark, hpr]
    rw [this]
    exact ⟨htx, hr, hq, hin, rfl, rfl, hfo, hfa, by simp [hdone], by simp [hins], Nat.lt_succ_self _⟩
  have hcl : (c.link m).AwaitsProfile (s.link m).nextOrder s.now := by
    have hbl : (b.link m).AwaitsProfile (s.link m).nextOrder s.now := hb.awaitsProfile hal
    rcases hlink with h | h
    · rw [h]; exact hbl
    · rw [h]; exact hbl.addInput _ _
  have hstore : c.panelInput.store.state = s.store.state ∧ c.panelInput.store.catalog = s.store.catalog := by
    rw [hd.store, hL]
    change b.store.state = _ ∧ b.store.catalog = _
    rw [hb.store, ← ha]
    exact ⟨rfl, rfl⟩
  rw [e]
  refine ⟨_, hd.awaitsProfile hcl, ?_, ?_, ?_, ?_, ?_, ?_⟩
  · rw [hd.partState, hL]
    exact hb.partState.trans (by rw [← ha]; rfl)
  · rw [hd.now, hL]
    exact hb.now.trans (by rw [← ha]; rfl)
  · rw [hd.resetHeld, hL]
    exact hb.resetHeld.trans (by rw [← ha]; rfl)
  · unfold State.languageCount
    rw [hstore.1, hstore.2]
  · unfold Store.CatalogOk
    rw [hstore.1, hstore.2]
    exact id
  · have hctx : c.panelInput.ctx = a.ctx := by
      rw [hd.ctx, hL]
      exact hb.ctx
    refine (congrArg (PerSide.get · m) hctx).trans ?_
    rw [← ha]
    cases m <;> rfl

/-- Settles O10. -/
theorem contextRequestsWrite : Obligations.ContextRequestsWrite := by
  refine ⟨fun s m note phase r1 r0 v1 v0 temp index h => ?_, fun s m note count wrap idle codes h hl => ?_,
    fun s m note flags text h hl => ?_, fun s m note language volume assist h hcat => ?_⟩
  · have hp := parseContext_eq phase r1 r0 v1 v0 temp index
    split
    next hn =>
      refine exec_request_format h .context note rfl ?_
      rw [State.handle, hp, show phaseOfCode phase.toNat = none from hn]
      rfl
    next ph hs =>
      refine exec_request_done h .context note rfl (by decide) (t := { s with ctx := _ }) ?_ h.atRest.2
      exact handle_context_some (hp.trans (congrArg (Option.map _) hs))
  · have hp := parsePrograms_eq count wrap idle codes hl
    have hlen : lenAllowed .programs (count :: wrap :: idle :: codes) = true := by simp [lenAllowed, hl]; omega
    split
    next hbad =>
      refine exec_request_format h .programs note hlen ?_
      rw [State.handle, hp, if_pos hbad]
      rfl
    next hok =>
      refine exec_request_done h .programs note hlen (by decide) (t := { s with ctx := _ }) ?_ h.atRest.2
      rw [State.handle, hp, if_neg hok]
      refine congrArg (Prod.mk _) (congrArg (fun f => s.onCtx m f) (funext fun c => ?_))
      unfold Context.writePrograms
      rw [List.length_map, List.length_range]
  · refine exec_request_done h .bandText note ?_ (by decide) (t := { s with ctx := _ }) rfl h.atRest.2
    simp [lenAllowed]
    omega
  · intro count
    have hlang : count = s.languageCount := (State.languageCount_of_catalogOk hcat).symm
    clear_value count
    subst hlang
    refine ⟨fun hbad => ?_, fun hv ha => ⟨fun hn => exec_profile_of_not h note hcat hv ha hn,
      fun g v u a htx hsh => exec_profile_of_shown h note hcat hv ha htx hsh, fun hf htx hk => ?_⟩⟩
    · refine exec_request_format h .profile note (p := [_, _, _]) rfl ?_
      rw [State.handle, parseProfile_eq, if_pos hbad]
      rfl
    · obtain ⟨n, hw, hpart, hnow, hup, hcount, hok, hctx⟩ := State.volumeLong_awaits h.1 hf htx hk
      generalize hx : s.longPressExpiry .volume = x at *
      obtain ⟨k, hk', hl⟩ := State.settle_awaitsProfile hw
      have hu := x.settle_units
      have hcontext : x.settle.context m = x.context m := congrArg (PerSide.get · m) hu.ctx
      have hserves : x.settle.ServesRequest m := by
        refine ⟨⟨⟨by rw [hu.resetHeld, hup, h.atRest.1], x.settle_settled⟩, ?_, ?_, ?_⟩, by rw [hu.partState, hpart, h.2.1], ?_⟩
        · rw [hl]; exact hk'.queue
        · rw [hl]; exact hk'.inService
        · rw [hl]; exact hk'.reply
        · have : (x.settle.context m).attached = (s.context m).attached := by rw [hcontext, hctx, Context.volumeLong]; split <;> rfl
          exact this.trans h.2.2
      have htx' : (x.settle.link m).tx = .sending (x.context m).profileFrame := by rw [hl]
      refine ⟨x.settle, _, ?_, ⟨_, _, _, _, htx'⟩, exec_profile_of_shown hserves note (x.settle_catalogOk (hok hcat)) hv ha htx' ?_, ?_⟩
      · rw [← hx]
        exact running_of_up h.atRest.1 fun s => (s.longPressExpiry .volume).settle
      · rw [hl, hu.now, hnow]
      · have hm : (x.settle.context m).mutedFrom = if 0 < (s.context m).volume then (s.context m).volume else (s.context m).mutedFrom := by
          rw [hcontext, hctx, Context.volumeLong]
          split <;> rfl
        rw [← hm, ← hcount, ← x.settle_languageCount]
        cases m <;> rfl

end Sys2Proof.Machine
end

section
/-! SUPPORT. The focus claim and the scene slots (O12, O29). -/

namespace Sys2Proof.Machine

variable {s t : State} {m : Side}

/-! ### Requests that leave only the links to settle -/

/-- A request answered DONE that leaves nothing to settle but what the links have to send. -/
theorem exec_request_links (h : s.ServesRequest m) (k : RequestKind) (note : Bool) {p : List Byte} (hl : lenAllowed k p = true)
    (hk : k ≠ .status) {r : List Byte} {u : State} (hh : s.handle m k p = (.done r, u)) (harb : u.sched.arbDue = false)
    (hcheck : u.checkCanBegin = false) (hport : u.store.port = .idle → u.eligibleS = false ∧ u.eligibleG = false) :
    ∃ L, exec (requestRow m k note p) s = .next { u with links := L } ∧
      L.get m = ({ u.link m with reply := some ⟨k.code, .done r, if note then some (u.conditionByte m) else none⟩ } : Link).sends
        (.reply ⟨k.code, .done r, if note then some (u.conditionByte m) else none⟩) ∧
      ∀ n, n ≠ m → L.get n = (u.txChoose n).link n := by
  generalize hx : u.formReply m k.code (.done r) note = x
  have hstate : x = { u with links := x.links } := by rw [← hx]; rfl
  obtain ⟨L, e, hlink⟩ := x.settle_of_links (by rw [← hx]; exact harb) (by rw [← hx]; exact hcheck) (by rw [← hx]; exact hport)
  refine ⟨L, ?_, ?_, fun n hn => ?_⟩
  · rw [exec_request_up h.atRest.1, State.submit_of_takes h.1, State.dispatchRequest, State.linkRefusal_of_serves h hl]
    simp only [State.serveRequest, hh]
    rw [State.settleArb_of_not_due u harb]
    have e' : x.settle = { u with links := L } := by rw [e, hstate]
    cases k <;> first
      | exact absurd rfl hk
      | exact congrArg Host.Outcome.next ((congrArg State.settle hx).trans e')
  · have hm : L.get m = x.settle.link m := by rw [e]; rfl
    have hxm : x.link m = { u.link m with reply := some ⟨k.code, .done r, if note then some (u.conditionByte m) else none⟩ } := by
      rw [← hx, State.formReply_link, if_pos rfl]
    rw [hm, hlink m, State.txChoose_reply (by rw [hxm]), State.link_onLink_same, hxm]
  · have hm : L.get n = x.settle.link n := by rw [e]; rfl
    rw [hm, hlink n, ← hx]
    exact State.txChoose_link_onLink _ hn

/-! ### FOCUS_CLAIM (R34, R35) -/

theorem State.claimable_eq (s : State) (h : Side) :
    s.claimable h = !(s.context h).lastInput.any fun t => s.now < t + 10000000 := by
  unfold State.claimable
  cases (s.context h).lastInput with
  | none => rfl
  | some t =>
    rw [Option.any_some, ← decide_not]
    exact decide_eq_decide.2 Nat.not_lt.symm

theorem Link.setFocusMark_eq (l : Link) : l.setFocusMark =
    if l.focusMark = none then { l with focusMark := some l.nextOrder, nextOrder := l.nextOrder + 1 } else l := by
  unfold Link.setFocusMark
  cases l.focusMark <;> rfl

theorem State.changeFocus_of_not_assist (h : (s.context m).assist = false) :
    s.changeFocus m = { s with focus := some m }.onAttachedLinks Link.setFocusMark := by
  unfold State.changeFocus
  refine if_neg ?_
  have : (({ s with focus := some m } : State).onAttachedLinks Link.setFocusMark).context m = s.context m := rfl
  rw [this, h]
  decide

/-- A resting link that gets the FOCUS mark: an IDLE transmitter begins the report (R14, R15). -/
theorem State.txChoose_focusMark {l : Link} (hl : s.link m = l.setFocusMark) (hrest : l.atRest) : (s.txChoose m).link m =
    if l.tx = .idle then { l.setFocusMark with focusMark := none, tx := .sending (.focus s.focus) } else l.setFocusMark := by
  rw [Link.setFocusMark_eq] at *
  split
  next hi =>
    obtain ⟨hr, hav⟩ := hrest hi
    obtain ⟨hd, hin, hfo, hpr, hfa⟩ := l.available_eq_nil_iff.1 hav
    rw [if_pos hfo] at hl ⊢
    have hav' : (s.link m).available = [(l.nextOrder, .focus)] := by
      rw [hl]
      simp [Link.available, hd, hin, hpr, hfa]
    rw [State.txChoose_idle_least (x := (l.nextOrder, .focus)) (by rw [hl]; exact hi) (by rw [hl]; exact hr) (by simp [hav'])
      (by simp [hav'])]
    simp [State.beginReport, hl]
  next hi =>
    rw [State.txChoose_of_rest _ _ fun h => absurd (by rw [hl] at h; split at h <;> exact h) hi, hl]

/-- Settles O12. -/
theorem focusClaimDecides : Obligations.FocusClaimDecides := by
  intro s m h note hs hf ha hassist
  have hh : s.handle m .focusClaim [] = s.focusClaim m := rfl
  rw [State.focusClaim, hf] at hh
  dsimp only at hh
  split
  next e => exact exec_request_done hs .focusClaim note (p := []) rfl (by decide) (hh.trans (if_pos e)) hs.atRest.2
  next e =>
    rw [if_neg e, State.claimable_eq] at hh
    split
    next hb => exact exec_request_refused hs .focusClaim note (p := []) rfl (hh.trans (if_neg (by simp [hb]))) hs.atRest.2
    next hb =>
      rw [if_pos (by simp [hb]), State.changeFocus_of_not_assist hassist] at hh
      obtain ⟨L, hex, hm, hn⟩ := exec_request_links hs .focusClaim note (p := []) rfl (by decide) hh hs.atRest.2.1 hs.atRest.2.2.1
        hs.atRest.2.2.2.1
      generalize hu : ({ s with focus := some m } : State).onAttachedLinks Link.setFocusMark = u at hm hn hex
      have attached (n : Side) : s.attached n = true := by
        cases n <;> cases m <;> cases h <;> first | exact ha | exact hs.2.2 | exact absurd rfl e
      have ulink (n : Side) : u.link n = (s.link n).setFocusMark := by
        rw [← hu]
        cases n <;> exact if_pos (attached _)
      refine hex.trans (congrArg Host.Outcome.next ?_)
      dsimp only
      simp only [← Link.setFocusMark_eq]
      generalize hv : ((s.links.modify m Link.setFocusMark).modify h fun l =>
        if l.tx = Transmitter.idle then { l.setFocusMark with focusMark := none, tx := .sending (.focus (some m)) }
        else l.setFocusMark) = v
      have vm : v.get m = (s.link m).setFocusMark := by
        rw [← hv, PerSide.get_modify, if_neg (Ne.symm e), PerSide.get_modify, if_pos rfl]
        rfl
      have vh : v.get h = if (s.link h).tx = Transmitter.idle then
          { (s.link h).setFocusMark with focusMark := none, tx := .sending (.focus (some m)) } else (s.link h).setFocusMark := by
        rw [← hv, PerSide.get_modify, if_pos rfl, PerSide.get_modify, if_neg e]
        rfl
      have hcond : u.conditionByte m = ({ s with focus := some m, links := v } : State).conditionByte m := by
        refine State.conditionByte_congr (by rw [← hu]; rfl) (by rw [← hu]; rfl) ?_
        rw [ulink]
        exact congrArg Link.fault vm.symm
      have hL : L = (({ s with focus := some m, links := v } : State).done m .focusClaim note).links := by
        refine PerSide.ext_get fun n => ?_
        change _ = PerSide.get (v.modify m _) n
        rw [PerSide.get_modify]
        split
        next hnm =>
          subst hnm
          rw [hm, vm, ulink, hcond]
          rfl
        next hnm =>
          obtain rfl : n = h := by cases n <;> cases m <;> cases h <;> first | rfl | contradiction
          rw [hn n hnm, State.txChoose_focusMark (ulink n) (hs.atRest.2.link n), vh, ← hu]
          rfl
      rw [hL, ← hu]
      rfl

/-! ### Dots (01 §1.9) -/

/-- The leftmost dot of a row is bit 7 of its first byte. -/
theorem rowOfBytes_bit (bs : List Byte) (hlen : bs.length ≤ 16) {x : Nat} (hx : x < 8 * bs.length) :
    (rowOfBytes bs).getLsbD (8 * bs.length - 1 - x) = (bs.getD (x / 8) 0).getLsbD (7 - x % 8) := by
  induction bs using List.reverseRecOn with
  | nil => simp at hx
  | append_singleton bs b ih =>
    rw [List.length_append, List.length_singleton] at *
    have hrow : rowOfBytes (bs ++ [b]) = (rowOfBytes bs <<< 8) ||| b.setWidth 128 := by
      rw [rowOfBytes, List.foldl_append]
      rfl
    rw [hrow, BitVec.getLsbD_or, BitVec.getLsbD_shiftLeft, BitVec.getLsbD_setWidth]
    by_cases hlast : 8 * bs.length ≤ x
    · have h8 : 8 * (bs.length + 1) - 1 - x < 8 := by omega
      have hdiv : x / 8 = bs.length := by omega
      have hbit : 8 * (bs.length + 1) - 1 - x = 7 - x % 8 := by omega
      rw [hdiv, List.getD_append_right _ _ _ _ (le_refl _), hbit, decide_eq_true (show 7 - x % 8 < 8 by omega),
        decide_eq_true (show 7 - x % 8 < 128 by omega)]
      simp
    · have hbyte : b.getLsbD (8 * (bs.length + 1) - 1 - x) = false := BitVec.getLsbD_of_ge _ _ (by omega)
      have hdiv : x / 8 < bs.length := by omega
      rw [hbyte, List.getD_append _ _ _ _ hdiv, ← ih (by omega) (by omega),
        show 8 * (bs.length + 1) - 1 - x - 8 = 8 * bs.length - 1 - x by omega]
      simp
      omega

theorem rowAt_bit (bytes : List Byte) {r x : Nat} (hlen : 16 * r + 16 ≤ bytes.length) (hx : x < 128) :
    (rowAt bytes r).getLsbD (127 - x) = (bytes.getD (16 * r + x / 8) 0).getLsbD (7 - x % 8) := by
  have hl : ((bytes.drop (16 * r)).take 16).length = 16 := by
    rw [List.length_take, List.length_drop]
    omega
  have := rowOfBytes_bit ((bytes.drop (16 * r)).take 16) hl.le (x := x) (by omega)
  rw [hl] at this
  rw [rowAt, this]
  congr 1
  rw [List.getD_eq_getElem?_getD, List.getD_eq_getElem?_getD, List.getElem?_take_of_lt (by omega), List.getElem?_drop]

theorem Picture.writeRows_row (p : Picture) (first count : Nat) (bytes : List Byte) (r : Fin 16) :
    (p.writeRows first count bytes)[r] =
      if first ≤ r.val ∧ r.val < first + count then rowAt bytes (r.val - first) else p[r] := by
  simp [Picture.writeRows]

/-! ### SCENE_WRITE and SCENE_FROM_STORE (R121, R161, R162) -/

theorem localSlot_some {b : Byte} (h : b.toNat ≤ 7) : localSlot b = some ⟨b.toNat, by omega⟩ := by
  rw [localSlot_eq, dif_pos (by omega)]

theorem localSlot_none {b : Byte} (h : 7 < b.toNat) : localSlot b = none := by
  rw [localSlot_eq, dif_neg (by omega)]

theorem sceneSlot_eq {k : Fin 8} {i : Fin 16} (h : i.val = match m with
    | .w => k.val
    | .d => 8 + k.val) : sceneSlot m k = i := by
  cases m <;> exact Fin.ext h.symm

theorem parseSceneWrite_eq (slot chunk : Byte) (dots : List Byte) : parseSceneWrite (slot :: chunk :: dots) =
    if h : chunk.toNat < 4 then some (slot, ⟨chunk.toNat, h⟩, dots) else none := rfl

/-- The lookup of an image in a catalog that keeps its ranges (R87). -/
theorem State.lookupImage_of_some (h : s.store.CatalogOk) {cat : Catalog} (hc : s.store.catalog = some cat) (n : Nat) :
    s.lookupImage n = match cat.images[n]? with
      | none => .notUsable
      | some a => if a + 256 ≤ cat.sizeBytes then .usable a else .notUsable := by
  have hs : s.store.state = .ok := by
    unfold Store.CatalogOk at h
    rw [hc] at h
    cases hs : s.store.state with
    | ok => rfl
    | failed => simp [hs] at h
  unfold State.lookupImage
  rw [hs, hc]
  dsimp only
  cases cat.images[n]? with
  | none => rfl
  | some a => simp [liesInside]

theorem State.lookupImage_of_failed (h : s.store.state = .failed) (n : Nat) : s.lookupImage n = .storeFailed := by
  unfold State.lookupImage
  rw [h]

/-- What the port arbiter decides (R116). -/
theorem State.portDecide_eq (s : State) : s.portDecide = { s with store := { s.store with
    port := if s.store.port = .idle then (if s.eligibleS then .s else if s.eligibleG then .g else .idle) else s.store.port } } := by
  unfold State.portDecide
  split
  next hp =>
    rw [if_pos hp]
    split
    · rfl
    · split
      · rfl
      · rw [← hp]
  next hp => rw [if_neg hp]

/-- A settled state to which a transfer is added: channel G has the port if it was IDLE and no check runs (R116). -/
theorem State.settle_startTransfer (h : s.Settled) (x : Transfer) (d : Display) (f : Link → Link)
    (hf : ((s.link m).atRest → (f (s.link m)).atRest)) :
    (({ s with store := { s.store with chanG := s.store.chanG ++ [x] }, display := d } : State).onLink m f).settle =
      ({ s with
        store := { s.store with
          chanG := s.store.chanG ++ [x], port := if s.store.port = .idle ∧ s.store.check ≠ .running then .g else s.store.port },
        display := d } : State).onLink m f := by
  generalize hu : ({ s with store := { s.store with chanG := s.store.chanG ++ [x] }, display := d } : State).onLink m f = u
  have hS : u.eligibleS = s.eligibleS := by rw [← hu]; rfl
  have hG : u.eligibleG = decide (s.store.check ≠ .running) := by
    rw [← hu]
    have hne : (s.store.chanG ++ [x]).isEmpty = false := by simp
    change (!(s.store.chanG ++ [x]).isEmpty && _) = _
    rw [hne]
    rfl
  have hport : u.store.port = s.store.port := by rw [← hu]; rfl
  have hdecide : u.portDecide = ({ s with
        store := { s.store with
          chanG := s.store.chanG ++ [x], port := if s.store.port = .idle ∧ s.store.check ≠ .running then .g else s.store.port },
        display := d } : State).onLink m f := by
    have hp : (if u.store.port = .idle then (if u.eligibleS then .s else if u.eligibleG then .g else .idle) else u.store.port) =
        (if s.store.port = .idle ∧ s.store.check ≠ .running then PortUser.g else s.store.port) := by
      rw [hport, hS, hG]
      by_cases hi : s.store.port = .idle
      · rw [if_pos hi, (h.2.2.1 hi).1, hi]
        by_cases hc : s.store.check = .running <;> simp [hc]
      · rw [if_neg hi, if_neg fun k => hi k.1]
    rw [State.portDecide_eq, hp, ← hu]
    rfl
  have hrest (n : Side) : (u.portDecide.link n).atRest := by
    rw [hdecide, State.link_onLink]
    split
    next e => subst e; exact hf (h.link _)
    next => exact h.link n
  rw [State.settle, State.settleArb_of_not_due u (by rw [← hu]; exact h.1), State.grantRace_of_not u (by rw [← hu]; exact h.2.1),
    State.tryBeginCheck_of_not u (by rw [← hu]; exact h.2.1), State.txChoose_of_rest _ .w (hrest .w), State.txChoose_of_rest _ .d (hrest .d), hdecide]

/-- Settles O29. -/
theorem scenesWrittenAndLoaded : Obligations.ScenesWrittenAndLoaded := by
  refine ⟨fun s m note slot image h hcat => ⟨fun h7 => ?_, fun h7 hfail => ?_, fun cat h7 hc => ⟨fun hbad => ?_,
    fun a i ha hin hi => ?_⟩⟩, fun s m note slot chunk dots h hlen => ⟨fun h3 => ?_, fun h3 h7 => ?_, fun i c hc h7 hi => ?_⟩⟩
  · refine exec_request_refused h .sceneFromStore note (p := [_, _]) rfl ?_ h.atRest.2
    change s.sceneFromStore m slot image.toNat = _
    rw [State.sceneFromStore, localSlot_none h7]
  · refine exec_request_refused h .sceneFromStore note (p := [_, _]) rfl ?_ h.atRest.2
    change s.sceneFromStore m slot image.toNat = _
    rw [State.sceneFromStore, localSlot_some h7, State.lookupImage_of_failed hfail]
  · refine exec_request_refused h .sceneFromStore note (p := [_, _]) rfl ?_ h.atRest.2
    change s.sceneFromStore m slot image.toNat = _
    have hn : s.lookupImage image.toNat = .notUsable := by
      rw [State.lookupImage_of_some hcat hc]
      rcases hbad with hbad | ⟨a, ha, hbad⟩
      · rw [List.getElem?_eq_none hbad]
      · rw [ha]
        exact if_neg (by omega)
    rw [State.sceneFromStore, localSlot_some h7, hn]
  · have hslot : sceneSlot m ⟨slot.toNat, by omega⟩ = i := sceneSlot_eq hi
    have hn : s.lookupImage image.toNat = .usable a := by
      rw [State.lookupImage_of_some hcat hc, ha]
      exact if_pos hin
    have hh : s.handle m .sceneFromStore [slot, image] =
        (.deferred .sceneFromStore, s.startTransfer m ⟨slot.toNat, by omega⟩ a) := by
      change s.sceneFromStore m slot image.toNat = _
      rw [State.sceneFromStore, localSlot_some h7, hn]
    refine (exec_request_up h.atRest.1 .sceneFromStore note [slot, image]).trans ?_
    rw [State.submit_of_takes h.1, State.dispatchRequest, State.linkRefusal_of_serves h rfl]
    simp only [State.serveRequest, hh]
    rw [State.settleArb_of_not_due (s.startTransfer m ⟨slot.toNat, by omega⟩ a) h.atRest.2.1, State.startTransfer, hslot]
    exact congrArg Host.Outcome.next (State.settle_startTransfer h.atRest.2 { link := m, slot := i, start := a, bytesDone := 0 } _
      (fun l => { l with inService := some { kind := .sceneFromStore, note := note } }) id)
  · refine exec_request_format h .sceneWrite note (by simp [lenAllowed, hlen]) ?_
    rw [State.handle, parseSceneWrite_eq, dif_neg (by omega)]
    rfl
  · refine exec_request_refused h .sceneWrite note (by simp [lenAllowed, hlen]) ?_ h.atRest.2
    rw [State.handle, parseSceneWrite_eq, dif_pos (by omega)]
    change s.sceneWrite m slot _ dots = _
    rw [State.sceneWrite, localSlot_none h7]
  · refine ⟨((s.display.slots[i]).staged).writeRows (4 * c.val) 4 dots, fun r hr => ?_, fun r x h1 h2 hx => ?_, ?_⟩
    · rw [Picture.writeRows_row, if_neg (by omega)]
    · rw [Picture.writeRows_row, if_pos ⟨h1, h2⟩]
      exact rowAt_bit dots (by omega) hx
    · refine exec_request_done h .sceneWrite note (by simp [lenAllowed, hlen]) (by decide) (t := { s with display := _ }) ?_ h.atRest.2
      have hslot : sceneSlot m ⟨slot.toNat, by omega⟩ = i := sceneSlot_eq hi
      have hchunk : (⟨chunk.toNat, by omega⟩ : Fin 4) = c := Fin.ext hc.symm
      rw [State.handle, parseSceneWrite_eq, dif_pos (by omega)]
      change s.sceneWrite m slot _ dots = _
      rw [State.sceneWrite, localSlot_some h7, hchunk]
      dsimp only
      rw [hslot]
      rfl

end Sys2Proof.Machine
end

section
/-! SUPPORT. How a command's effect on the Cue Scheduler settles: the port's work, the replies, the reports of cues that end; and the
end of a cue that frees nothing (R43, R49, R61, R69). -/

namespace Sys2Proof.Machine

variable {s t u : State} {m : Side}

/-! ### What settling does once the arbitrations are taken -/

/-- A check that can begin, and the port arbiter (R91, R116). -/
def State.ports (s : State) : State := s.grantRace.tryBeginCheck.portDecide

theorem State.settle_of_arb (h : t.settleArb = u) : t.settle = (u.ports.txChoose .w).txChoose .d := by rw [State.settle, h]; rfl

theorem State.ports_of_rest (h : s.checkCanBegin = false) (hp : s.store.port = .idle → s.eligibleS = false ∧ s.eligibleG = false) :
    s.ports = s := by
  rw [State.ports, s.grantRace_of_not h, s.tryBeginCheck_of_not h, s.portDecide_of_rest hp]

theorem State.Settled.ports (h : s.Settled) : s.ports = s := State.ports_of_rest h.2.1 h.2.2.1

/-- The port's work reads no link and touches the Store Interface alone. -/
theorem State.ports_eq (s : State) : s.ports = { s with store := s.ports.store } := by
  obtain ⟨st, e, -⟩ := s.portWork_eq
  exact e.trans (by rw [State.ports, e])

theorem State.ports_onLink (f : Link → Link) : (s.onLink m f).ports = s.ports.onLink m f := by
  have race : (s.onLink m f).grantRace = s.grantRace.onLink m f := by
    unfold State.grantRace
    refine Eq.trans ?_ (apply_ite (fun x : State => x.onLink m f) _ _ _).symm
    rfl
  have check (x : State) : (x.onLink m f).tryBeginCheck = x.tryBeginCheck.onLink m f := by
    unfold State.tryBeginCheck
    rw [State.checkCanBegin_onLink]
    split <;> rfl
  have decide (x : State) : (x.onLink m f).portDecide = x.portDecide.onLink m f := by
    simp only [State.portDecide_eq]
    rfl
  rw [State.ports, race, check, decide]
  rfl

theorem State.ports_link (n : Side) : s.ports.link n = s.link n := by rw [s.ports_eq]; rfl

/-- After a reply is formed, with no arbitration due and nothing for the other link to send, the port's work is done and the reply's
transmission begins. -/
theorem State.settle_formReply_ports (harb : s.sched.arbDue = false) (hother : (s.link m.other).atRest) (k : RequestKind)
    (b : ReplyBody) (note : Bool) : (s.formReply m k.code b note).settle = s.ports.answered m k b note := by
  have hp : (s.formReply m k.code b note).ports = s.ports.formReply m k.code b note := by
    refine (State.ports_onLink _).trans ?_
    have hc : s.ports.conditionByte m = s.conditionByte m := by rw [s.ports_eq]; rfl
    simp only [State.formReply, hc]
  rw [State.settle_of_arb (State.settleArb_of_not_due _ (by exact harb)), hp]
  have rest : ((s.ports.formReply m k.code b note).link m.other).atRest := by
    rw [State.formReply, State.link_onLink_of_ne _ _ (by cases m <;> simp [Side.other]), State.ports_link]
    exact hother
  cases m with
  | w =>
    rw [State.txChoose_formReply]
    refine State.txChoose_of_rest _ .d ?_
    rw [State.answered, State.link_onLink_of_ne _ _ (by decide), State.ports_link]
    exact hother
  | d => rw [State.txChoose_of_rest _ .w rest, State.txChoose_formReply]

theorem Side.other_ne (m : Side) : m.other ≠ m := by cases m <;> decide

/-- A request that passes the link's checks and that its owner answers DONE: the arbitrations it sets off, the port's work, and the
reply. -/
theorem exec_taken_arb (h : s.TakesRequest m) (k : RequestKind) (note : Bool) {p : List Byte} (hl : s.linkRefusal m k p = none)
    (hk : k ≠ .status) {r : List Byte} (hh : s.handle m k p = (.done r, t)) (hu : t.settleArb = u)
    (hother : (u.link m.other).atRest) : exec (requestRow m k note p) s = .next (u.ports.answered m k (.done r) note) := by
  have harb : u.sched.arbDue = false := hu ▸ t.settleArb_arbDue
  rw [exec_request_up h.1.1, State.submit_of_takes h, State.dispatchRequest, hl]
  have hserve : s.serveRequest m k note p = u.formReply m k.code (.done r) note := by
    simp only [State.serveRequest, hh, hu]
  simp only [hserve]
  rw [State.settle_formReply_ports harb hother]

theorem exec_request_arb (h : s.ServesRequest m) (k : RequestKind) (note : Bool) {p : List Byte} (hl : lenAllowed k p = true)
    (hk : k ≠ .status) {r : List Byte} (hh : s.handle m k p = (.done r, t)) (hu : t.settleArb = u)
    (hother : (u.link m.other).atRest) : exec (requestRow m k note p) s = .next (u.ports.answered m k (.done r) note) :=
  exec_taken_arb h.1 k note (State.linkRefusal_of_serves h hl) hk hh hu hother

/-! ### Reports that are begun -/

/-- A link at rest takes a CUE_DONE report up: an IDLE transmitter begins it (R15). -/
theorem State.txChoose_report {l : Link} {r : DoneReport} {n : Nat} (hrest : l.atRest)
    (hl : s.link m = { l with done := l.done ++ [r], nextOrder := n }) : s.txChoose m = s.onLink m fun l => l.sends (.done r) := by
  cases ht : (s.link m).tx with
  | sending f =>
    have hself : (s.link m).sends (.done r) = s.link m := by
      generalize s.link m = k at ht
      cases k
      simp_all [Link.sends]
    have hstay : s.txChoose m = s := by
      unfold State.txChoose
      rw [ht]
    rw [hstay]
    exact (s.onLink_self m).symm.trans (State.onLink_congr s m hself.symm)
  | idle =>
    have htx : l.tx = .idle := by rw [hl] at ht; exact ht
    obtain ⟨hreply, havail⟩ := hrest htx
    obtain ⟨hd, hi, hf, hp, hft⟩ := (Link.available_eq_nil_iff l).1 havail
    have hav : (s.link m).available = [(r.order, .done r)] := by rw [hl]; simp [Link.available, hd, hi, hf, hp, hft]
    have hr : (s.link m).reply = none := by rw [hl]; exact hreply
    have choice : s.txChoose m = s.beginReport m (.done r) := by
      unfold State.txChoose
      simp [ht, hr, hav, earliest]
    rw [choice]
    exact State.onLink_congr s m (by simp [Link.sends, ht])

/-- What follows the entry of one cue to REPORTING where nothing else is left to settle: its report begins (R15). -/
theorem State.settle_report {c : Cue} {o : CueOutcome} (h : s.Settled) (harb : t.sched.arbDue = false) (hp : t.ports = u)
    (hl : t.links = s.links.modify m fun l => { l with done := l.done ++ [s.doneReport m c o], nextOrder := l.nextOrder + 1 }) :
    t.settle = u.onLink m fun l => l.sends (.done (s.doneReport m c o)) := by
  have hul : u.links = t.links := by rw [← hp, t.ports_eq]
  have link (n : Side) : u.link n = if n = m then
      { s.link n with done := (s.link n).done ++ [s.doneReport m c o], nextOrder := (s.link n).nextOrder + 1 } else s.link n := by
    show u.links.get n = _
    rw [hul, hl, PerSide.get_modify]
    rfl
  have own : u.txChoose m = u.onLink m fun l => l.sends (.done (s.doneReport m c o)) :=
    State.txChoose_report (h.link m) ((link m).trans (if_pos rfl))
  have other : (u.link m.other).atRest := by
    rw [link, if_neg (Side.other_ne m)]
    exact h.link _
  rw [State.settle_of_arb (t.settleArb_of_not_due harb), hp]
  cases m with
  | w =>
    rw [own]
    refine State.txChoose_of_rest _ .d ?_
    rw [State.link_onLink_of_ne _ _ (by decide)]
    exact other
  | d => rw [State.txChoose_of_rest _ .w other, own]

/-! ### A cue whose end frees nothing (R43, R49, R69) -/

theorem Resource.unreserve_of_ne {x : Resource} {r : CueRef} (h : x.reservation ≠ some r) : x.unreserve r = x := if_neg h

theorem State.dropReservations_of_unreserved {r : CueRef} (h : s.Unreserved r) : s.dropReservations r = s := by
  obtain ⟨hp, hv⟩ := h
  have voices : (Vector.ofFn fun v : Fin 4 => (s.sched.voices[v]).unreserve r) = s.sched.voices := by
    apply Vector.ext
    intro v hv'
    rw [Vector.getElem_ofFn]
    exact Resource.unreserve_of_ne (hv ⟨v, hv'⟩)
  have path := Resource.unreserve_of_ne hp
  simp only [State.dropReservations, State.onSched, path, voices]

theorem State.endReservations_of_unreserved {r : CueRef} (h : s.Unreserved r) : s.endReservations r = s := by
  have none_free : s.reservesFree r = false := by
    have voices : (allVoices.any fun v => (s.sched.voices[v]).reservedFor r && (s.sched.voices[v]).holder.isNone) = false := by
      rw [List.any_eq_false]
      exact fun v _ => by simp only [Resource.reservedFor, h.2 v, decide_false, Bool.false_and, Bool.false_eq_true, not_false_eq_true]
    rw [State.reservesFree, voices]
    simp [Resource.reservedFor, h.1]
  rw [State.endReservations, none_free, State.dropReservations_of_unreserved h]
  rfl

/-- With no cue of the machine HELD there is none to release. -/
theorem State.releaseHeld_of_none (h : ∀ (j : Fin 24) c, s.sched.table[j] = some c → c.ofMachine m = true → c.state ≠ .held) :
    s.releaseHeld m = s := by
  have quiet (j : Fin 24) {c : Cue} (hc : s.sched.table[j] = some c) : s.released m c = false := by
    by_cases hm : c.ofMachine m = true
    · simp [State.released, h j c hc hm]
    · simp [State.released, hm]
  have table : (Vector.ofFn fun i : Fin 24 => (s.sched.table[i]).map fun c =>
      if s.released m c then { c with state := CueState.waiting } else c) = s.sched.table := by
    apply Vector.ext
    intro i hi
    rw [Vector.getElem_ofFn]
    show (s.sched.table[(⟨i, hi⟩ : Fin 24)]).map _ = s.sched.table[(⟨i, hi⟩ : Fin 24)]
    cases hc : s.sched.table[(⟨i, hi⟩ : Fin 24)] with
    | none => rfl
    | some c => simp [quiet _ hc]
  have freed : (s.tableCues.any fun p => s.released m p.2) = false := by
    rw [List.any_eq_false]
    rintro ⟨j, c⟩ hm
    simp [quiet j ((s.mem_tableCues j c).1 hm)]
  unfold State.releaseHeld
  simp only [freed, Bool.false_eq_true, if_false]
  exact congrArg (fun tb => ({ s with sched := { s.sched with table := tb } } : State)) table

theorem State.checkFences_of_none (hm : s.sched.markers.get m = [])
    (h : ∀ (j : Fin 24) c, s.sched.table[j] = some c → c.ofMachine m = true → c.state ≠ .held) : s.checkFences m = s := by
  have markers : (s.sched.markers.modify m fun ms => ms.filter (s.liveBefore m)) = s.sched.markers := by
    rw [PerSide.modify, hm, List.filter_nil, ← hm, PerSide.set_get]
  have same : (s.onSched fun sc => { sc with markers := sc.markers.modify m fun ms => ms.filter (s.liveBefore m) }) = s := by
    simp only [State.onSched, markers]
  rw [State.checkFences, same, State.releaseHeld_of_none h]

/-- A cue that ends quietly enters REPORTING with its report and nothing else (R49). -/
theorem State.enterReporting_quiet {i : Fin 24} {c : Cue} (hc : s.sched.table[i] = some c) (ho : c.origin = .machine m)
    (h : s.EndsQuietly m i) (o : CueOutcome) : s.enterReporting i o = s.reported i c m o := by
  obtain ⟨hm, hheld, hp, hv⟩ := h
  have e1 : (s.setCue (.slot i) (some (c.toReporting o))).endReservations (.slot i) = s.setCue (.slot i) (some (c.toReporting o)) :=
    State.endReservations_of_unreserved ⟨hp, hv⟩
  have e2 : ((s.setCue (.slot i) (some (c.toReporting o))).onLink m fun l => l.joinDone c.uid c.id o c.flags c.preempts) =
      s.reported i c m o := rfl
  unfold State.enterReporting
  simp only [hc, e1, ho]
  rw [e2]
  refine State.checkFences_of_none hm fun j d hd => ?_
  by_cases hj : j = i
  · subst hj
    have : (s.reported j c m o).sched.table[j] = some (c.toReporting o) := by simp [State.reported]; rfl
    rw [this] at hd
    cases hd
    simp [Cue.toReporting]
  · have : (s.reported i c m o).sched.table[j] = s.sched.table[j] := by
      simp [State.reported, Vector.getElem_set_ne _ _ (Fin.val_ne_of_ne (Ne.symm hj))]
    exact hheld j d (this ▸ hd) hj

/-! ### DEADLINE_PASSES (R44, R45) -/

theorem exec_deadlinePasses_up (h : s.resetHeld = false) (i : Fin 24) :
    exec (.deadlinePasses i) s = .next (s.deadlinePasses i).settle := running_of_up h fun s => (s.deadlinePasses i).settle

/-- A cue in REPORTING asks nothing of the port. -/
theorem State.Settled.ports_reported (h : s.Settled) {i : Fin 24} {c : Cue} {o : CueOutcome} :
    (s.reported i c m o).ports = s.reported i c m o := State.ports_of_rest h.2.1 h.2.2.1

/-- Settles O21: what the deadline does by the state of its cue. -/
theorem deadlineExpiresOrIsNoted : Obligations.DeadlineExpiresOrIsNoted := by
  unfold Obligations.DeadlineExpiresOrIsNoted
  intro s i c m hs hc ho
  rw [exec_deadlinePasses_up hs.1]
  have still (h : s.deadlinePasses i = s) : Host.Outcome.next (s.deadlinePasses i).settle = (.next s : Result) := by
    rw [h, State.settle_of_settled _ hs.2]
  refine ⟨fun hd => still ?_, fun hr => still ?_, fun hd hst => ?_, fun hd hst hq => ?_⟩
  · simp [State.deadlinePasses, hc, hd]
  · simp [State.deadlinePasses, hc, hr]
  · have e : s.deadlinePasses i = s.setCue (.slot i) (some { c with deadlinePassed := true }) := by
      unfold State.deadlinePasses
      simp only [hc, Option.isNone_iff_eq_none, hd, if_false]
      rcases hst with h | h | h <;> rw [h]
    rw [e]
    exact congrArg _ (State.settle_of_settled _ hs.2)
  · have e : s.deadlinePasses i = s.reported i c m .expired := by
      rw [← State.enterReporting_quiet hc ho hq]
      unfold State.deadlinePasses
      simp only [hc, Option.isNone_iff_eq_none, hd, if_false]
      rcases hst with h | h <;> rw [h]
    rw [e]
    exact congrArg _ (State.settle_report hs.2 hs.2.1 hs.2.ports_reported rfl)

end Sys2Proof.Machine
end

section
/-! SUPPORT. FENCE and the release of HELD cues (R42, R43), and the slot a CUE_POST takes (R37, R38, R40). -/

namespace Sys2Proof.Machine

variable {s t u : State} {m : Side}

/-! ### What an arbitration keeps of a slot and of a machine's count -/

theorem State.settle_sched (s : State) : s.settle.sched = s.settleArb.sched := by
  obtain ⟨st, L, e, -⟩ := s.settle_eq
  rw [e]

/-- Settling touches neither a link's reply nor its list of reports but as the arbitrations do. -/
theorem State.settle_link (s : State) (m : Side) : (s.settle.link m).reply = (s.settleArb.link m).reply ∧
    (s.settle.link m).done = (s.settleArb.link m).done := by
  obtain ⟨st, L, -, -, -, link⟩ := s.settle_eq
  obtain ⟨l, e, hl⟩ := ({ s.settleArb with store := st } : State).txChoose_eq m
  rw [link m, e, State.link_onLink_same, hl]
  exact ⟨rfl, rfl⟩

theorem SlotRel.of_some {R : Cue → Cue → Prop} {a b : Option Cue} {c : Cue} (h : SlotRel R a b) (ha : a = some c) :
    ∃ d, b = some d ∧ R c d := by
  subst ha
  cases b with
  | none => exact absurd h (by simp [SlotRel])
  | some d => exact ⟨d, rfl, h⟩

theorem SlotRel.eq_none {R : Cue → Cue → Prop} {a b : Option Cue} (h : SlotRel R a b) : b = none ↔ a = none := by
  cases a <;> cases b <;> simp_all [SlotRel]

theorem State.SameCues.get (h : s.SameCues t) {i : Fin 24} {c : Cue} (hc : s.sched.table[i] = some c) :
    ∃ d, t.sched.table[i] = some d ∧ c.Kept d := (h i).of_some hc

/-- A cue in GAP, ENDING or REPORTING stands as it is. -/
theorem State.SameCues.asleep (h : s.SameCues t) {i : Fin 24} {c : Cue} (hc : s.sched.table[i] = some c) (ha : c.asleep) :
    t.sched.table[i] = some c := by
  obtain ⟨d, hd, hk⟩ := h.get hc
  rw [hd, hk.2 ha]

theorem Cue.Kept.ofMachine {c d : Cue} (h : c.Kept d) (m : Side) : d.ofMachine m = c.ofMachine m := by
  have ho : d.origin = c.origin := by rw [h.1.1]
  have hp : d.purged = c.purged := by
    cases hc : c.purged with
    | true => rw [h.2 (.inr (.inl ((Cue.purged_iff c).1 hc).1)), hc]
    | false =>
      cases hd : d.purged with
      | false => rfl
      | true => rw [h.1.2.1 hd] at hc; exact hc
  simp [Cue.ofMachine, ho, hp]

theorem State.SameCues.machineSlots (h : s.SameCues t) (m : Side) : t.machineSlots m = s.machineSlots m := by
  ext i
  rw [State.mem_machineSlots, State.mem_machineSlots]
  constructor
  · rintro ⟨d, hd, hm⟩
    cases hc : s.sched.table[i] with
    | none => rw [(h i).eq_none.2 hc] at hd; cases hd
    | some c =>
      obtain ⟨e, he, hk⟩ := h.get hc
      rw [he] at hd
      cases hd
      exact ⟨c, rfl, (hk.ofMachine m).symm.trans hm⟩
  · rintro ⟨c, hc, hm⟩
    obtain ⟨d, hd, hk⟩ := h.get hc
    exact ⟨d, hd, (hk.ofMachine m).trans hm⟩

/-- Two slots whose cues are related are both free, or hold cues of one entry. -/
theorem SlotRel.entry_match {R : Cue → Cue → Prop}
    (hR : ∀ c d, R c d → c.id = d.id ∧ c.origin = d.origin ∧ c.posting = d.posting ∧ c.uid = d.uid) {a b : Option Cue} :
    SlotRel R a b → match a, b with
    | none, none => True
    | some a, some b => a.id = b.id ∧ a.origin = b.origin ∧ a.posting = b.posting ∧ a.uid = b.uid
    | _, _ => False := by
  intro h
  cases a with
  | none => cases b with
    | none => trivial
    | some _ => exact absurd h (by simp [SlotRel])
  | some c =>
    cases b with
    | none => simp [SlotRel] at h
    | some d => exact hR c d h

theorem Cue.Kept.entry (c d : Cue) (h : c.Kept d) : c.id = d.id ∧ c.origin = d.origin ∧ c.posting = d.posting ∧ c.uid = d.uid := by
  have e := h.1.1
  exact ⟨by rw [e], by rw [e], by rw [e], by rw [e]⟩

/-! ### A served request that sets off arbitrations -/

/-- What a request that passes the link's checks and is answered DONE leaves, whatever arbitrations it sets off: the scheduler as they
leave it, and the reply formed. -/
theorem exec_taken_next (h : s.TakesRequest m) (k : RequestKind) (note : Bool) {p : List Byte} (hl : s.linkRefusal m k p = none)
    (hk : k ≠ .status) {r : List Byte} (hh : s.handle m k p = (.done r, t)) :
    ∃ u, exec (requestRow m k note p) s = .next u ∧ u.sched = t.settleArb.sched ∧
      (∃ cond, (u.link m).reply = some { echo := k.code, body := .done r, condition := if note then some cond else none }) ∧
      (u.link m).done = (t.settleArb.link m).done := by
  refine ⟨(t.settleArb.formReply m k.code (.done r) note).settle, ?_, ?_, ?_⟩
  · rw [exec_request_up h.1.1, State.submit_of_takes h, State.dispatchRequest, hl]
    have hserve : s.serveRequest m k note p = t.settleArb.formReply m k.code (.done r) note := by
      simp only [State.serveRequest, hh]
    simp only [hserve]
  · rw [State.settle_sched, State.settleArb_of_not_due _ (by exact State.settleArb_arbDue t)]
    rfl
  · obtain ⟨hreply, hdone⟩ := (t.settleArb.formReply m k.code (.done r) note).settle_link m
    rw [hreply, hdone, State.settleArb_of_not_due _ (by exact State.settleArb_arbDue t), State.formReply_link, if_pos rfl]
    exact ⟨⟨_, rfl⟩, rfl⟩

theorem exec_request_next (h : s.ServesRequest m) (k : RequestKind) (note : Bool) {p : List Byte} (hl : lenAllowed k p = true)
    (hk : k ≠ .status) {r : List Byte} (hh : s.handle m k p = (.done r, t)) :
    ∃ u, exec (requestRow m k note p) s = .next u ∧ u.sched = t.settleArb.sched ∧
      (∃ cond, (u.link m).reply = some { echo := k.code, body := .done r, condition := if note then some cond else none }) ∧
      (u.link m).done = (t.settleArb.link m).done :=
  exec_taken_next h.1 k note (State.linkRefusal_of_serves h hl) hk hh

/-! ### FENCE, and the fence law at a removal (R42, R43) -/

theorem State.hasLiveCue_iff (s : State) (m : Side) : s.hasLiveCue m = true ↔
    ∃ (i : Fin 24) (c : Cue), s.sched.table[i] = some c ∧ c.ofMachine m = true ∧ c.state ≠ .reporting := by
  simp only [State.hasLiveCue, List.any_eq_true, Prod.exists, State.mem_tableCues, Cue.live, Cue.ofMachine, Bool.and_eq_true,
    decide_eq_true_eq]
  exact ⟨fun ⟨i, c, hc, hm, hl⟩ => ⟨i, c, hc, hm, hl.1⟩, fun ⟨i, c, hc, hm, hl⟩ => ⟨i, c, hc, hm, hl, hm.2⟩⟩

/-- What the release of HELD cues makes of a slot (R43). -/
theorem State.releaseHeld_slot (s : State) (m : Side) (i : Fin 24) : (s.releaseHeld m).sched.table[i] =
    (s.sched.table[i]).map fun c => if s.released m c then { c with state := .waiting } else c := by
  unfold State.releaseHeld
  dsimp only
  split <;> exact Vector.getElem_ofFn i.isLt

theorem State.releaseHeld_markers (s : State) (m : Side) : (s.releaseHeld m).sched.markers = s.sched.markers := by
  have same (f : Sched → Sched) (h : (f s.sched).markers = s.sched.markers) (b : Bool) :
      (if b then (s.onSched f).setArb else s.onSched f).sched.markers = s.sched.markers := by cases b <;> exact h
  exact same _ rfl _

/-- The state just before a cue of machine `m` that enters REPORTING has its fences checked. -/
def State.reportingAt (s : State) (i : Fin 24) (c : Cue) (m : Side) (o : CueOutcome) : State :=
  ((s.setCue (.slot i) (some (c.toReporting o))).endReservations (.slot i)).onLink m fun l =>
    l.joinDone c.uid c.id o c.flags c.preempts

theorem State.reportingAt_markers (s : State) (i : Fin 24) (c : Cue) (m : Side) (o : CueOutcome) :
    (s.reportingAt i c m o).sched.markers = s.sched.markers := by
  unfold State.reportingAt State.endReservations
  split <;> rfl

theorem State.reportingAt_slot (s : State) (i : Fin 24) (c : Cue) (m : Side) (o : CueOutcome) (j : Fin 24) :
    (s.reportingAt i c m o).sched.table[j] = if j = i then some (c.toReporting o) else s.sched.table[j] := by
  have table : (s.reportingAt i c m o).sched.table = s.sched.table.set i (some (c.toReporting o)) := by
    unfold State.reportingAt State.endReservations
    split <;> rfl
  rw [table]
  by_cases h : j = i
  · subst h; simp
  · simp [h, Vector.getElem_set_ne _ _ (Fin.val_ne_of_ne (Ne.symm h))]

theorem State.enterReporting_eq {i : Fin 24} {c : Cue} (hc : s.sched.table[i] = some c) (ho : c.origin = .machine m) (o : CueOutcome) :
    s.enterReporting i o = (s.reportingAt i c m o).checkFences m := by
  unfold State.enterReporting
  simp only [hc, ho]
  rfl

/-- When the last live cue before a machine's only marker has gone to REPORTING, the marker is gone and no cue of the machine is HELD. -/
theorem State.enterReporting_frees {i : Fin 24} {c : Cue} {k : Nat} (hc : s.sched.table[i] = some c) (ho : c.origin = .machine m)
    (o : CueOutcome) (hk : s.sched.markers.get m = [k])
    (hrest : ∀ (j : Fin 24) d, s.sched.table[j] = some d → j ≠ i → d.origin = .machine m → d.state = .held ∧ k < d.posting) :
    (s.enterReporting i o).sched.markers.get m = [] ∧ ∀ (j : Fin 24) d, s.sched.table[j] = some d → j ≠ i → d.origin = .machine m →
      (s.enterReporting i o).sched.table[j] = some { d with state := .waiting } := by
  rw [State.enterReporting_eq hc ho]
  generalize ht : s.reportingAt i c m o = t
  have markers : t.sched.markers.get m = [k] := by rw [← ht, State.reportingAt_markers, hk]
  have slot (j : Fin 24) : t.sched.table[j] = if j = i then some (c.toReporting o) else s.sched.table[j] := by
    rw [← ht, State.reportingAt_slot]
  have passed : t.liveBefore m k = false := by
    rw [State.liveBefore, List.any_eq_false]
    rintro ⟨j, d⟩ hd
    have hd := (t.mem_tableCues j d).1 hd
    rw [slot] at hd
    by_cases hj : j = i
    · rw [if_pos hj] at hd
      cases hd
      simp [Cue.live, Cue.toReporting]
    · rw [if_neg hj] at hd
      simp only [Bool.and_eq_true, decide_eq_true_eq, not_and]
      intro hm
      have hm' : d.origin = .machine m := by simp [Cue.ofMachine] at hm; exact hm.1.1
      have := (hrest j d hd hj hm').2
      omega
  generalize hu : (t.onSched fun sc => { sc with markers := sc.markers.modify m fun ms => ms.filter (t.liveBefore m) }) = u
  have gone : u.sched.markers.get m = [] := by
    rw [← hu]
    show (t.sched.markers.modify m _).get m = []
    rw [PerSide.get_modify_same, markers, List.filter_cons_of_neg (by simp [passed]), List.filter_nil]
  have table : u.sched.table = t.sched.table := by rw [← hu]; rfl
  have checked : t.checkFences m = u.releaseHeld m := by rw [← hu]; rfl
  rw [checked]
  refine ⟨by rw [State.releaseHeld_markers, gone], fun j d hd hj hm => ?_⟩
  have held := (hrest j d hd hj hm).1
  have out : u.released m d = true := by
    simp [State.released, State.markerBefore, gone, held, Cue.ofMachine, hm, Cue.purged]
  rw [State.releaseHeld_slot, table, slot, if_neg hj, hd, Option.map_some, if_pos out]

/-- Settles O20: the rows of FENCE's table, and the removal of the only marker as the last live cue before it expires. -/
theorem fencesStoreAndRelease : Obligations.FencesStoreAndRelease := by
  refine ⟨fun s m note h => ?_, fun s m i c k hs hc ho hd hw hk hrest => ?_⟩
  · dsimp only
    refine ⟨fun hfull => ?_, fun hroom hnone => ?_, fun hroom hlive => ?_⟩
    · refine exec_request_refused h .fence note (p := []) rfl (t := s) ?_ h.atRest.2
      exact if_pos hfull
    · refine exec_request_done h .fence note (p := []) rfl (by decide) (t := s) ?_ h.atRest.2
      exact (if_neg (Nat.not_le.2 hroom)).trans (if_neg (mt (s.hasLiveCue_iff m).1 hnone))
    · refine exec_request_done h .fence note (p := []) rfl (by decide) ?_ ?_
      · exact (if_neg (Nat.not_le.2 hroom)).trans (if_pos ((s.hasLiveCue_iff m).2 hlive))
      · exact h.atRest.2
  · refine ⟨_, exec_deadlinePasses_up hs.1 i, ?_⟩
    have e : s.deadlinePasses i = s.enterReporting i .expired := by
      unfold State.deadlinePasses
      simp only [hc, Option.isNone_iff_eq_none, hd, if_false, hw]
    obtain ⟨gone, freed⟩ := State.enterReporting_frees hc ho .expired hk hrest
    rw [State.settle_sched, e]
    refine ⟨(State.settleArb_places _).no_markers m gone, fun j d hj hne hm => ?_⟩
    obtain ⟨e, he, hkept⟩ := (State.settleArb_cues _).get (freed j d hj hne hm)
    refine ⟨e, he, fun hheld => ?_, ?_⟩
    · exact absurd (hkept.1.2.2 hheld) (by simp)
    · rw [hkept.1.1]
      exact ⟨rfl, rfl, rfl⟩

/-! ### The slot of an accepted CUE_POST (R37, R38, R40) -/

/-- The checks of an acceptable CUE_POST, and its record (R40). -/
theorem State.cuePost_accepts {r : CuePostReq} {tone : Option TonePart} {scene : Option (Fin 8)} {i : Fin 24}
    (hparts : r.speech ≠ none ∨ r.tone ≠ none ∨ r.scene ≠ none ∨ r.lamp ≠ none)
    (hid : ∀ (j : Fin 24) c, s.sched.table[j] = some c → c.ofMachine m = true → c.id ≠ r.id) (hquota : s.machineCount m < 16)
    (hfree : s.freeSlot = some i) (hscene : r.scene = scene.map (fun k => k.val))
    (htone : r.tone = tone.map (fun t => (t.pattern.val, t.timing)))
    (hpattern : ∀ t, tone = some t → (s.tone.patterns[t.pattern]).isSome = true ∧
      (t.pattern.val < 8 ∨ (m = .w ∧ t.pattern.val < 20) ∨ (m = .d ∧ 20 ≤ t.pattern.val))) :
    s.cuePost m r = (.done [], s.acceptCue m i (postedCue s m r tone scene)) := by
  rw [State.cuePost_of_slot (by tauto) (fun ⟨j, c, hc, hm, he⟩ => hid j c hc hm he) hquota hfree, hscene, admitScene_map]
  simp only [htone, State.admitTone_map hpattern]

/-- An accepted cue in its slot, the serial and the posting number taken. -/
def State.posted (s : State) (m : Side) (i : Fin 24) (c : Cue) : State :=
  s.onSched fun sc => { sc.posted m with table := sc.table.set i (some c) }

theorem State.acceptCue_held {i : Fin 24} {c : Cue} (h : c.state ≠ .waiting) : s.acceptCue m i c = s.posted m i c := if_neg h

theorem State.acceptCue_waiting {i : Fin 24} {c : Cue} (h : c.state = .waiting) : s.acceptCue m i c = (s.posted m i c).setArb := if_pos h

theorem State.acceptCue_sched (s : State) (m : Side) (i : Fin 24) (c : Cue) :
    (s.acceptCue m i c).sched.table = s.sched.table.set i (some c) ∧
      (s.acceptCue m i c).sched.nextPosting = s.sched.nextPosting.modify m (· + 1) := by
  unfold State.acceptCue
  dsimp only
  split <;> exact ⟨rfl, rfl⟩

theorem Vector.getElem_set_fin {α : Type} {n : Nat} (v : Vector α n) (i j : Fin n) (a : α) :
    (v.set i a)[j] = if j = i then a else v[j] := by
  by_cases h : j = i
  · subst h; simp
  · simp [h, Vector.getElem_set_ne _ _ (Fin.val_ne_of_ne (Ne.symm h))]

/-- A filled free slot raises the machine's count by one. -/
theorem State.machineCount_fill {i : Fin 24} {c : Cue} (ht : t.sched.table = s.sched.table.set i (some c))
    (hfree : s.sched.table[i] = none) (hm : c.ofMachine m = true) : t.machineCount m = s.machineCount m + 1 := by
  have slots : t.machineSlots m = insert i (s.machineSlots m) := by
    ext j
    rw [Finset.mem_insert, State.mem_machineSlots, State.mem_machineSlots, ht, Vector.getElem_set_fin]
    by_cases h : j = i
    · simp [h, hm]
    · simp [h]
  have fresh : i ∉ s.machineSlots m := fun h => by
    obtain ⟨d, hd, -⟩ := State.mem_machineSlots.1 h
    rw [hfree] at hd
    cases hd
  rw [State.machineCount_eq, State.machineCount_eq, slots, Finset.card_insert_of_notMem fresh]

/-- Settles O15: the record behind a marker, and for every acceptable post what the arbitration it sets off leaves of it. -/
theorem cuePostTakesSlot : Obligations.CuePostTakesSlot := by
  refine ⟨fun s m note p r tone scene i h hl hr hparts hid hquota hi hlow hscene htone hpattern hmarker => ?_,
    fun s m note p r tone scene h hl hr hparts hid hquota hfree hscene htone hpattern => ?_⟩
  · have held : (postedCue s m r tone scene).state = .held := by
      have : s.markerBefore m (s.sched.nextPosting.get m) = true := by
        rw [State.markerBefore, List.any_eq_true]
        obtain ⟨k, hk, hlt⟩ := hmarker
        exact ⟨k, hk, decide_eq_true hlt⟩
      exact if_pos this
    have record : postedCue s m r tone scene = { postedCue s m r tone scene with state := .held } := by rw [← held]
    have accepted : s.handle m .cuePost p = (.done [], s.posted m i (postedCue s m r tone scene)) := by
      rw [State.handle, hr]
      exact (State.cuePost_accepts hparts hid hquota (State.freeSlot_eq_some hi hlow) hscene htone hpattern).trans
        (by rw [State.acceptCue_held (by rw [held]; decide)])
    rw [record] at accepted
    exact exec_request_done h .cuePost note hl (by decide) accepted h.atRest.2
  · obtain ⟨i, hi⟩ := Option.ne_none_iff_exists'.1 (mt (s.freeSlot_eq_none_iff).1 (by
      obtain ⟨i, hi⟩ := hfree
      exact fun h => h i hi))
    have accepted : s.handle m .cuePost p = (.done [], s.acceptCue m i (postedCue s m r tone scene)) := by
      rw [State.handle, hr]
      exact State.cuePost_accepts hparts hid hquota hi hscene htone hpattern
    obtain ⟨u, hu, hsched, -⟩ := exec_request_next h .cuePost note hl (by decide) accepted
    obtain ⟨table, posting⟩ := s.acceptCue_sched m i (postedCue s m r tone scene)
    have free := State.freeSlot_none hi
    have cues := State.settleArb_cues (s.acceptCue m i (postedCue s m r tone scene))
    have place := State.settleArb_places (s.acceptCue m i (postedCue s m r tone scene))
    obtain ⟨c, hc, hkept⟩ := cues.get (i := i) (c := postedCue s m r tone scene) (by rw [table, Vector.getElem_set_fin, if_pos rfl])
    have count : u.machineCount m = s.machineCount m + 1 := by
      rw [← State.machineCount_fill table free (c := postedCue s m r tone scene) (m := m) (by
        simp only [Cue.ofMachine, Cue.purged, postedCue]; split <;> simp), State.machineCount_eq, State.machineCount_eq,
        ← cues.machineSlots m]
      exact congrArg Finset.card (by ext j; rw [State.mem_machineSlots, State.mem_machineSlots, hsched])
    refine ⟨u, i, c, hu, free, by rw [hsched, hc], ?_⟩
    have fields := hkept.1.1
    rw [fields]
    refine ⟨rfl, rfl, rfl, rfl, rfl, rfl, rfl, rfl, rfl, rfl, rfl, rfl, rfl, rfl, ?_, count, fun j hj => ?_⟩
    · rw [hsched, place.1, posting, PerSide.get_modify_same]
    · have kept := cues j
      rw [table, Vector.getElem_set_fin, if_neg hj] at kept
      rw [hsched]
      exact kept.entry_match Cue.Kept.entry

end Sys2Proof.Machine
end

section
/-! SUPPORT. An arbitration with nothing to serve or one candidate (R61 to R63), the start of a cue in its slot (R66), the display at
the ends and starts of play (R166, R169); and the cues that play with neither speech nor tone (R72 to R75). -/

namespace Sys2Proof.Machine

variable {s t u : State} {m : Side}

/-! ### The candidates (R62, R63) -/

theorem List.eq_singleton_of_mem {α : Type} {l : List α} {a : α} (hn : l.Nodup) (h : ∀ x, x ∈ l ↔ x = a) : l = [a] :=
  List.perm_singleton.1 ((List.perm_ext_iff_of_nodup hn (List.nodup_singleton a)).2 (by simpa using h))

theorem State.tableCues_nodup (s : State) : s.tableCues.Nodup := by
  refine List.Nodup.filterMap (fun i j b hi hj => ?_) (List.nodup_finRange 24)
  rw [Option.mem_def, Option.map_eq_some_iff] at hi hj
  obtain ⟨c, -, rfl⟩ := hi
  obtain ⟨d, -, e⟩ := hj
  exact (congrArg Prod.fst e).symm

/-- A choice of table cues in posting order names each slot once. -/
theorem State.slotsInOrder_nodup (s : State) (p : Fin 24 × Cue → Bool) : (((s.tableCues.filter p).insertionSort
    fun a b => a.2.posting ≤ b.2.posting).map Prod.fst).Nodup := by
  have base : (((s.tableCues.filter p).insertionSort fun a b : Fin 24 × Cue => a.2.posting ≤ b.2.posting)).Nodup :=
    ((List.perm_insertionSort _ _).nodup_iff).2 (s.tableCues_nodup.filter _)
  refine base.map_on fun x hx y hy e => ?_
  obtain ⟨i, c⟩ := x
  obtain ⟨j, d⟩ := y
  simp only [List.mem_insertionSort, List.mem_filter, State.mem_tableCues] at hx hy
  obtain rfl : i = j := e
  have : c = d := Option.some_injective _ (hx.1.symm.trans hy.1)
  rw [this]

theorem State.classCandidates_nodup (s : State) (cls : CueClass) (m : Side) : (s.classCandidates cls m).Nodup := by
  have h := s.slotsInOrder_nodup fun p => s.isCandidate p.2 && p.2.cls = cls && p.2.origin = .machine m
  rw [State.classCandidates, show (fun p : Fin 24 × Cue => CueRef.slot p.1) = CueRef.slot ∘ Prod.fst from rfl, ← List.map_map]
  exact h.map fun a b e => by cases e; rfl

theorem State.slot_of_mem_classCandidates {cls : CueClass} {r : CueRef} (h : r ∈ s.classCandidates cls m) : ∃ i, r = .slot i := by
  obtain ⟨p, -, e⟩ := List.mem_map.1 h
  exact ⟨p.1, e.symm⟩

theorem State.classOrder_nodup (s : State) (cls : CueClass) (last : Option Side) : (s.classOrder cls last).Nodup := by
  refine List.nodup_append.2 ⟨s.classCandidates_nodup _ _, s.classCandidates_nodup _ _, fun a ha b hb e => ?_⟩
  subst e
  obtain ⟨i, rfl⟩ := State.slot_of_mem_classCandidates ha
  obtain ⟨c, hc, -, -, hm⟩ := (s.mem_classCandidates cls _ i).1 ha
  obtain ⟨d, hd, -, -, hn⟩ := (s.mem_classCandidates cls _ i).1 hb
  rw [hc] at hd
  cases hd
  rw [hm] at hn
  exact Side.other_ne _ (Origin.machine.inj hn).symm

theorem State.classOrder_disjoint (s : State) {a b : CueClass} (h : a ≠ b) (x y : Option Side) {r q : CueRef} (hr : r ∈ s.classOrder a x)
    (hq : q ∈ s.classOrder b y) : r ≠ q := by
  rintro rfl
  obtain ⟨i, rfl⟩ : ∃ i, r = .slot i := (List.mem_append.1 hr).elim State.slot_of_mem_classCandidates State.slot_of_mem_classCandidates
  obtain ⟨c, m, hc, -, ha, -⟩ := (s.mem_classOrder a x i).1 hr
  obtain ⟨d, n, hd, -, hb, -⟩ := (s.mem_classOrder b y i).1 hq
  rw [hc] at hd
  cases hd
  exact h (ha.symm.trans hb)

theorem State.mem_narrationCandidates {r : CueRef} : r ∈ s.narrationCandidates ↔
    r = .narration ∧ ∃ c, s.sched.narration.pending = some c ∧ s.isCandidate c = true := by
  unfold State.narrationCandidates
  split
  · rename_i c hc
    split <;> simp_all
  · simp_all

/-- Each candidate stands once in the order of service. -/
theorem State.candidates_nodup (s : State) : s.candidates.Nodup := by
  have narr : s.narrationCandidates.Nodup := by
    unfold State.narrationCandidates
    split <;> (try split) <;> simp
  have apart {cls : CueClass} {last : Option Side} {r q : CueRef} (hr : r ∈ s.classOrder cls last) (hq : q ∈ s.narrationCandidates) :
      r ≠ q := by
    obtain ⟨i, rfl⟩ : ∃ i, r = .slot i :=
      (List.mem_append.1 hr).elim State.slot_of_mem_classCandidates State.slot_of_mem_classCandidates
    rw [(State.mem_narrationCandidates.1 hq).1]
    exact fun e => by cases e
  unfold State.candidates
  refine List.nodup_append.2 ⟨List.nodup_append.2 ⟨List.nodup_append.2 ⟨s.classOrder_nodup _ _, narr, fun a ha b hb => apart ha hb⟩,
    s.classOrder_nodup _ _, fun a ha b hb => ?_⟩, s.classOrder_nodup _ _, fun a ha b hb => ?_⟩
  · rcases List.mem_append.1 ha with ha | ha
    · exact s.classOrder_disjoint (by decide) _ _ ha hb
    · exact (apart hb ha).symm
  · rcases List.mem_append.1 ha with ha | ha
    · rcases List.mem_append.1 ha with ha | ha
      · exact s.classOrder_disjoint (by decide) _ _ ha hb
      · exact (apart hb ha).symm
    · exact s.classOrder_disjoint (by decide) _ _ ha hb

theorem State.narration_mem_candidates : CueRef.narration ∈ s.candidates ↔
    ∃ c, s.sched.narration.pending = some c ∧ s.isCandidate c = true := by
  have no {cls : CueClass} {last : Option Side} : CueRef.narration ∉ s.classOrder cls last := fun h => by
    obtain ⟨i, hi⟩ := (List.mem_append.1 h).elim State.slot_of_mem_classCandidates State.slot_of_mem_classCandidates
    cases hi
  simp [State.candidates, no, State.mem_narrationCandidates]

/-- No cue is a candidate: none of the table and not the pending narration cue (R62). -/
theorem State.candidates_eq_nil_iff : s.candidates = [] ↔
    (∀ (i : Fin 24) c m, s.sched.table[i] = some c → c.cls ≠ .echo → c.origin = .machine m → s.isCandidate c = false) ∧
      ∀ c, s.sched.narration.pending = some c → s.isCandidate c = false := by
  constructor
  · intro h
    refine ⟨fun i c m hc he hm => ?_, fun c hc => ?_⟩
    · by_contra hn
      have := (s.mem_candidates i).2 ⟨c, m, hc, by simpa using hn, he, hm⟩
      simp [h] at this
    · by_contra hn
      have := State.narration_mem_candidates.2 ⟨c, hc, by simpa using hn⟩
      simp [h] at this
  · rintro ⟨ht, hn⟩
    rw [List.eq_nil_iff_forall_not_mem]
    intro r hr
    match r, hr with
    | .slot i, hr =>
      obtain ⟨c, m, hc, h1, h2, h3⟩ := (s.mem_candidates i).1 hr
      rw [ht i c m hc h2 h3] at h1
      cases h1
    | .narration, hr =>
      obtain ⟨c, hc, h1⟩ := State.narration_mem_candidates.1 hr
      rw [hn c hc] at h1
      cases h1
    | .feedback, hr => exact State.mem_candidates_ne_feedback _ hr rfl

theorem State.isCandidate_congr (hs : t.store.state = s.store.state) (hc : t.store.check = s.store.check) (c : Cue) :
    t.isCandidate c = s.isCandidate c := by
  simp only [State.isCandidate, State.checkActive, State.needsPath, hs, hc]

/-- Slot `i` of `t` holds `c`; else `t` has the cues and the store of `s`. -/
structure State.WithSlot (s t : State) (i : Fin 24) (c : Cue) : Prop where
  slot : t.sched.table[i] = some c
  others : ∀ j : Fin 24, j ≠ i → t.sched.table[j] = s.sched.table[j]
  narration : t.sched.narration.pending = s.sched.narration.pending
  feedback : t.sched.feedback.pending = s.sched.feedback.pending
  state : t.store.state = s.store.state
  check : t.store.check = s.store.check

/-- With nothing else to serve, a cue that is a candidate is the only one. -/
theorem State.WithSlot.candidates {i : Fin 24} {c : Cue} (h : s.WithSlot t i c) (hs : s.NothingToServe) (hc : t.isCandidate c = true)
    (he : c.cls ≠ .echo) (hm : c.origin = .machine m) : t.candidates = [.slot i] := by
  obtain ⟨table, narr⟩ := State.candidates_eq_nil_iff.1 hs.1
  refine List.eq_singleton_of_mem t.candidates_nodup fun r => ⟨fun hr => ?_, fun hr => ?_⟩
  · match r, hr with
    | .slot j, hr =>
      by_contra hne
      obtain ⟨d, n, hd, h1, h2, h3⟩ := (t.mem_candidates j).1 hr
      rw [h.others j fun e => hne (by rw [e])] at hd
      rw [State.isCandidate_congr h.state h.check, table j d n hd h2 h3] at h1
      cases h1
    | .narration, hr =>
      obtain ⟨d, hd, h1⟩ := State.narration_mem_candidates.1 hr
      rw [h.narration] at hd
      rw [State.isCandidate_congr h.state h.check, narr d hd] at h1
      cases h1
    | .feedback, hr => exact absurd rfl (State.mem_candidates_ne_feedback _ hr)
  · rw [hr]
    exact (t.mem_candidates i).2 ⟨c, m, h.slot, hc, he, hm⟩

/-- With nothing else to serve, a cue that is no candidate leaves nothing to serve. -/
theorem State.WithSlot.nothingToServe {i : Fin 24} {c : Cue} (h : s.WithSlot t i c) (hs : s.NothingToServe)
    (hc : t.isCandidate c = false) : t.NothingToServe := by
  obtain ⟨table, narr⟩ := State.candidates_eq_nil_iff.1 hs.1
  refine ⟨State.candidates_eq_nil_iff.2 ⟨fun j d n hd h2 h3 => ?_, fun d hd => ?_⟩, h.feedback.trans hs.2⟩
  · by_cases hj : j = i
    · subst hj
      rw [h.slot] at hd
      cases hd
      exact hc
    · rw [h.others j hj] at hd
      rw [State.isCandidate_congr h.state h.check, table j d n hd h2 h3]
  · rw [h.narration] at hd
    rw [State.isCandidate_congr h.state h.check, narr d hd]

/-! ### Arbitrations (R61) -/

/-- The arbitration that was due is taken. -/
def State.clearArb (s : State) : State := s.onSched fun sc => { sc with arbDue := false }

theorem State.clearArb_of_not_due (h : s.sched.arbDue = false) : s.clearArb = s := by
  unfold State.clearArb State.onSched
  rw [← h]

theorem State.serveFeedback_of_none (h : s.sched.feedback.pending = none) : s.serveFeedback = s := by
  simp [State.serveFeedback, h]

/-- One arbitration is taken and sets off no other. -/
theorem State.settleArb_once (hd : s.sched.arbDue = true) (h : s.clearArb.arbitrate = u) (hu : u.sched.arbDue = false) :
    s.settleArb = u := by
  show State.arbitrateFor (1023 + 1) s = u
  rw [State.arbitrateFor, if_pos hd]
  show State.arbitrateFor 1023 s.clearArb.arbitrate = u
  rw [h, State.arbitrateFor_of_not_due _ _ hu]

theorem State.settleArb_nothing (h : s.NothingToServe) : s.settleArb = s.clearArb := by
  have idle : s.clearArb.arbitrate = s.clearArb := by
    have hc : s.clearArb.candidates = [] := h.1
    rw [State.arbitrate, hc, List.foldl_nil, State.serveFeedback_of_none (by exact h.2)]
  cases hd : s.sched.arbDue with
  | true => exact State.settleArb_once hd idle rfl
  | false => rw [State.settleArb_of_not_due _ hd, State.clearArb_of_not_due hd]

/-- With one candidate, settling comes to its turn. -/
theorem State.settleArb_one {r : CueRef} (hd : s.sched.arbDue = true) (hc : s.candidates = [r]) (h : s.clearArb.serve r = u)
    (hu : u.sched.arbDue = false) (hf : u.sched.feedback.pending = none) : s.settleArb = u := by
  refine State.settleArb_once hd ?_ hu
  have hcl : s.clearArb.candidates = [r] := hc
  rw [State.arbitrate, hcl, List.foldl_cons, List.foldl_nil, h, State.serveFeedback_of_none hf]

theorem State.settle_of_arb_settled (h : t.settleArb = u) (hu : u.Settled) : t.settle = u := by
  rw [State.settle_of_arb h, hu.ports, State.txChoose_of_rest _ .w (hu.link .w), State.txChoose_of_rest _ .d (hu.link .d)]

/-! ### A candidate's turn, and its start in its slot (R63, R66) -/

theorem State.serve_starts {r : CueRef} {c : Cue} (hc : s.candidate? r = some c) (hw : c.state = .waiting)
    (hp : (s.judgePath r c).isBlocked = false ∧ (s.judgePath r c).victim? = none)
    (hv : (s.judgeVoice r c).isBlocked = false ∧ (s.judgeVoice r c).victim? = none) :
    s.serve r = s.startCue r (s.judgeVoice r c).voice? := by
  simp [State.serve, hc, hw, hp.1, hp.2, hv.1, hv.2]

theorem State.judgePath_of_no_need {r : CueRef} {c : Cue} (h : s.needsPath c = false) : s.judgePath r c = .notNeeded := by
  simp [State.judgePath, h]

theorem State.judgeVoice_of_no_tone {r : CueRef} {c : Cue} (h : c.tone = none) : s.judgeVoice r c = .notNeeded := by
  simp [State.judgeVoice, Cue.needsVoice, h]

/-- The scheduler's records at the start of a table cue (R66 steps 2 and 3). -/
theorem Sched.serveMarker_placeStarted (sc : Sched) (i : Fin 24) {c c' : Cue} (ho : c.origin = .machine m) (hcls : c'.cls = c.cls) :
    { (sc.serveMarker c).placeStarted (.slot i) c' with nextStart := sc.nextStart + 1 } = sc.withStart i c' m := by
  unfold Sched.serveMarker Sched.withStart
  simp only [ho, hcls]
  cases c.cls <;> rfl

theorem Cue.started_cls (c : Cue) (b : Bool) (n now : Nat) : (c.started b n now).cls = c.cls := by
  rw [(c.started_post b n now).1]

theorem State.placed_slot {i : Fin 24} {c : Cue} (v : Option (Fin 4)) (ho : c.origin = .machine m) :
    s.placed (.slot i) v c = ((s.given (.slot i) v c).dropReservations (.slot i)).onSched fun sc =>
      sc.withStart i (c.started (s.needsPath c) s.sched.nextStart s.now) m := by
  have start : ((s.given (.slot i) v c).dropReservations (.slot i)).onSched (fun sc =>
      { (sc.serveMarker c).placeStarted (.slot i) (c.started (s.needsPath c) s.sched.nextStart s.now) with
        nextStart := sc.nextStart + 1 }) = ((s.given (.slot i) v c).dropReservations (.slot i)).onSched fun sc =>
      sc.withStart i (c.started (s.needsPath c) s.sched.nextStart s.now) m :=
    State.onSched_congr _ (Sched.serveMarker_placeStarted _ i ho (c.started_cls _ _ _))
  exact start

/-! ### The display at the starts and ends of play (R166, R169) -/

theorem State.chooseRing_eq (s : State) : s.chooseRing =
    { s with display := { s.display with ringEffect := s.chooseRing.display.ringEffect } } := by
  unfold State.chooseRing State.onDisplay
  dsimp only
  congr 1
  split
  · rfl
  · split
    · split <;> rfl
    · rfl

theorem State.startDisplay_eq (s : State) : let t := (s.wakeBacklight.stopIdle).chooseRing
    t = { s with display := s.displayOfStart t } ∧ t.RingChosen s.display.ringEffect :=
  ⟨State.chooseRing_eq _, State.chooseRing_chosen _⟩

theorem State.endDisplay_eq (s : State) : let t := s.leftPlaying.chooseRing
    t = { s with display := s.displayOfEnd t } ∧ t.RingChosen s.display.ringEffect := by
  have ring : s.leftPlaying.display.ringEffect = s.display.ringEffect := by
    unfold State.leftPlaying
    split <;> rfl
  refine ⟨?_, ring ▸ State.chooseRing_chosen _⟩
  have playing : s.leftPlaying.chooseRing.anyPlaying = s.anyPlaying := by
    unfold State.anyPlaying State.tableCues
    rw [State.chooseRing_sched, State.leftPlaying_table]
  refine (State.chooseRing_eq _).trans ?_
  unfold State.displayOfEnd
  rw [playing]
  unfold State.leftPlaying
  split <;> rfl

theorem pickBest_mem {before : Cue → Cue → Bool} {l : List (Fin 24 × Cue)} {x : Fin 24 × Cue} (h : pickBest before l = some x) :
    x ∈ l := by
  cases l with
  | nil => cases h
  | cons a l => exact Option.some_injective _ h ▸ foldl_pick_mem (fun y best => before y.2 best.2) a l

/-- The ring shows a cue on the stage (R166). -/
theorem State.chooseRing_shows {e : RingEffect} (h : s.chooseRing.display.ringEffect = some e) :
    ∃ i c, e.cue = i ∧ s.sched.table[i] = some c ∧ (c.state = .playing ∨ c.state = .ending) := by
  cases hr : s.ringCue with
  | none =>
    simp only [State.chooseRing, State.onDisplay, hr] at h
    cases h
  | some x =>
    obtain ⟨i, c⟩ := x
    obtain ⟨hmem, stage⟩ := List.mem_filter.1 (pickBest_mem hr)
    have he : e.cue = i := by
      simp only [State.chooseRing, State.onDisplay, hr] at h
      cases hd : s.display.ringEffect with
      | none =>
        simp only [hd, Option.some.injEq] at h
        rw [← h]
      | some f =>
        by_cases hf : f.cue = i
        · simp only [hd, hf, if_true, Option.some.injEq] at h
          rw [← h, hf]
        · simp only [hd, hf, if_false, Option.some.injEq] at h
          rw [← h]
    exact ⟨i, c, he, (s.mem_tableCues i c).1 hmem, (c.onStage_iff).1 (Bool.and_eq_true_iff.1 stage).1⟩

/-- The ring is chosen twice at one moment, slot `i` on the stage only at the second choice: its effect begins then (R166). -/
theorem State.RingChosen.again {i : Fin 24} {before : Option RingEffect} (hs : s.RingChosen before)
    (hshows : ∀ e, s.display.ringEffect = some e → e.cue ≠ i)
    (hoff : ∀ c, s.sched.table[i] = some c → ¬(c.state = .playing ∨ c.state = .ending))
    (hothers : ∀ j : Fin 24, j ≠ i → t.sched.table[j] = s.sched.table[j]) (hnow : t.now = s.now)
    (ht : t.RingChosen s.display.ringEffect) : t.RingChosen (match before with
      | some e => if e.cue = i then none else some e
      | none => none) := by
  refine ⟨ht.1, fun j c hc hst hl hbest => ?_⟩
  rw [ht.2 j c hc hst hl hbest, hnow]
  by_cases hj : j = i
  · subst hj
    have fresh : (match s.display.ringEffect with
        | some e => if e.cue = j then some e else some { cue := j, start := s.now }
        | none => some { cue := j, start := s.now }) = some { cue := j, start := s.now } := by
      cases he : s.display.ringEffect with
      | none => rfl
      | some e => simp [hshows e he]
    refine fresh.trans ?_
    cases before with
    | none => rfl
    | some e => by_cases he : e.cue = j <;> simp [he]
  · have first := hs.2 j c (by rw [← hothers j hj, hc]) hst hl fun k d hd hk hds hdl => by
      by_cases hki : k = i
      · subst hki
        exact absurd hds (hoff d hd)
      · exact hbest k d (by rw [hothers k hki, hd]) hk hds hdl
    rw [first]
    cases before with
    | none => simp
    | some e =>
      by_cases he : e.cue = i
      · simp [he, Ne.symm hj]
      · by_cases hej : e.cue = j
        · simp [hej, hj]
        · simp [he, hej]

/-! ### Cues that play with neither speech nor tone (R72) -/

theorem Cue.started_holding {c : Cue} (hs : c.speech = none) (ht : c.tone = none) (n now : Nat) :
    c.started false n now = c.holding n now := by
  simp only [Cue.started, Cue.holding, Cue.firstPhase, Cue.timing?, hs, ht]
  rfl

/-- The start of a table cue with neither speech nor tone: nothing but its record, the last served machine and the display. -/
theorem State.startCue_holding {i : Fin 24} {c : Cue} (hc : s.sched.table[i] = some c) (ho : c.origin = .machine m)
    (hs : c.speech = none) (ht : c.tone = none) (hu : s.Unreserved (.slot i)) : let t := s.startCue (.slot i) none
    t = { s with sched := s.sched.withStart i (c.holding s.sched.nextStart s.now) m, display := s.displayOfStart t } ∧
      t.RingChosen s.display.ringEffect := by
  have need : s.needsPath c = false := by simp [State.needsPath, hs]
  have given : s.given (.slot i) none c = s := by simp [State.given, need]
  have placed := s.placed_slot (i := i) none ho
  rw [given, State.dropReservations_of_unreserved hu, need, Cue.started_holding hs ht] at placed
  have quiet (x : State) : x.beginFirstPhase (.slot i) (c.holding s.sched.nextStart s.now) = x := by
    simp [State.beginFirstPhase, Cue.holding, Cue.timing?, ht]
  have start := State.startCue_eq (s := s) (r := .slot i) none hc
  rw [need, Cue.started_holding hs ht, quiet, placed] at start
  rw [start]
  exact State.startDisplay_eq _

theorem State.setArb_clearArb (h : s.sched.arbDue = false) : s.setArb.clearArb = s := s.clearArb_of_not_due h

/-- With nothing else to serve, a WAITING cue with neither speech nor tone starts in the arbitration it sets off. -/
theorem State.WithSlot.starts_holding {i : Fin 24} {c : Cue} (h : s.WithSlot t i c) (hs : s.NothingToServe)
    (hdue : t.sched.arbDue = false) (hw : c.state = .waiting) (he : c.cls ≠ .echo) (ho : c.origin = .machine m) (hsp : c.speech = none)
    (htn : c.tone = none) (hu : t.Unreserved (.slot i)) : let u := t.startCue (.slot i) none
    t.setArb.settleArb = u ∧
      u = { t with sched := t.sched.withStart i (c.holding t.sched.nextStart t.now) m, display := t.displayOfStart u } ∧
      u.RingChosen t.display.ringEffect := by
  obtain ⟨eq, ring⟩ := State.startCue_holding h.slot ho hsp htn hu
  refine ⟨State.settleArb_one (r := .slot i) rfl ?_ ?_ ?_ ?_, eq, ring⟩
  · have hc : t.isCandidate c = true := by simp [State.isCandidate, hw, State.needsPath, hsp]
    exact h.candidates hs hc he ho
  · rw [State.setArb_clearArb hdue]
    have path := t.judgePath_of_no_need (r := .slot i) (c := c) (by simp [State.needsPath, hsp])
    have voice := State.judgeVoice_of_no_tone (s := t) (r := .slot i) htn
    rw [State.serve_starts (r := .slot i) (c := c) h.slot hw (by rw [path]; exact ⟨rfl, rfl⟩) (by rw [voice]; exact ⟨rfl, rfl⟩), voice]
    rfl
  · rw [eq]
    exact hdue
  · rw [eq]
    exact h.feedback.trans hs.2

theorem postedCue_newCue {r : CuePostReq} {tone : Option TonePart} {scene : Option (Fin 8)} (h : s.sched.markers.get m = []) :
    postedCue s m r tone scene = s.newCue m r tone scene := by
  have : s.markerBefore m (s.sched.nextPosting.get m) = false := by simp [State.markerBefore, h]
  unfold postedCue
  rw [this]
  rfl

/-- A posted cue in its slot leaves the other cues to serve as they were. -/
theorem State.posted_withSlot (s : State) (m : Side) (i : Fin 24) (c : Cue) : s.WithSlot (s.posted m i c) i c where
  slot := by simp [State.posted]
  others j hj := by simp [State.posted, Vector.getElem_set_ne _ _ (Fin.val_ne_of_ne (Ne.symm hj))]
  narration := rfl
  feedback := rfl
  state := rfl
  check := rfl

/-- What a CUE_POST that takes a slot answers: the arbitrations it sets off, the port's work, and DONE. -/
theorem exec_cuePost_arb (h : s.ServesRequest m) {note : Bool} {p : List Byte} {r : CuePostReq} {tone : Option TonePart}
    {scene : Option (Fin 8)} {i : Fin 24} (hl : lenAllowed .cuePost p = true) (hr : parseCuePost p = some r)
    (hparts : r.speech ≠ none ∨ r.tone ≠ none ∨ r.scene ≠ none ∨ r.lamp ≠ none) (hpost : s.PostsInto m r.id i)
    (hscene : r.scene = scene.map (fun k => k.val)) (htone : r.tone = tone.map (fun t => (t.pattern.val, t.timing)))
    (hpattern : ∀ t, tone = some t → (s.tone.patterns[t.pattern]).isSome = true ∧
      (t.pattern.val < 8 ∨ (m = .w ∧ t.pattern.val < 20) ∨ (m = .d ∧ 20 ≤ t.pattern.val)))
    (hu : ((s.posted m i (s.newCue m r tone scene)).setArb).settleArb = u) (hlinks : u.links = s.links) :
    exec (.cuePost m note p) s = .next (u.ports.done m .cuePost note) := by
  obtain ⟨hid, hquota, hfree, hlow, hmark⟩ := hpost
  refine exec_request_arb h .cuePost note hl (by decide) (t := s.acceptCue m i (postedCue s m r tone scene)) ?_ ?_ ?_
  · rw [State.handle, hr]
    exact State.cuePost_accepts hparts hid hquota (State.freeSlot_eq_some hfree hlow) hscene htone hpattern
  · rw [postedCue_newCue hmark, State.acceptCue_waiting rfl, hu]
  · show (u.links.get m.other).atRest
    rw [hlinks]
    exact h.atRest.2.link _

/-- A posted cue is of class ALARM, PROMPT or CHIME (R39). -/
theorem parseCuePost_cls {p : List Byte} {r : CuePostReq} (h : parseCuePost p = some r) : r.cls ≠ .echo := by
  unfold parseCuePost at h
  split at h
  · simp only [Option.bind_eq_bind, Option.bind_eq_some_iff] at h
    obtain ⟨c, hc, speech, -, timing, -, effect, -, hr⟩ := h
    split at hr
    · cases hr
    · cases hr
      rintro rfl
      have := List.mem_of_getElem? hc
      simp at this
  · cases h

/-- Settles O16. -/
theorem cuePostHoldOnlyStartsAtOnce : Obligations.CuePostHoldOnlyStartsAtOnce := by
  intro s m note p r scene i h hl hr hsp htn hparts hid hquota hfree hlow hscene hmark hnone hpath hvoices
  have harb : s.sched.arbDue = false := h.atRest.2.1
  have htone : r.tone = (none : Option TonePart).map fun t => (t.pattern.val, t.timing) := htn
  obtain ⟨settled, eq, ring⟩ := (s.posted_withSlot m i (s.newCue m r none scene)).starts_holding hnone harb rfl (parseCuePost_cls hr)
    rfl hsp rfl ⟨hpath, hvoices⟩
  generalize (s.posted m i (s.newCue m r none scene)).startCue (.slot i) none = t at *
  have links : t.links = s.links := by rw [eq]; rfl
  have ports : t.ports = t := State.ports_of_rest (by rw [eq]; exact h.atRest.2.2.1) (by rw [eq]; exact h.atRest.2.2.2.1)
  have slot (j : Fin 24) : t.sched.table[j] =
      if j = i then some ((s.newCue m r none scene).holding s.sched.nextStart s.now) else s.sched.table[j] := by
    rw [eq]
    simp only [State.posted, State.onSched, Sched.withStart, Vector.set_set, Vector.getElem_set_fin]
    rfl
  refine ⟨t, ?_, ?_, fun hlamp hothers => ?_, fun hlamp hothers hring => ?_, ring⟩
  · have done := exec_cuePost_arb h (note := note) hl hr (by tauto) ⟨hid, hquota, hfree, hlow, hmark⟩ hscene htone
      (fun t ht => by cases ht) settled links
    rwa [ports] at done
  · refine eq.trans ?_
    simp only [State.posted, State.onSched, Sched.withStart, Sched.posted, Vector.set_set, Cue.holding, State.newCue, hsp]
    rfl
  · refine ring.1 fun j c hc _ => ?_
    rw [slot] at hc
    split at hc
    · cases hc
      exact hlamp
    · exact hothers j c hc
  · have shown := ring.2 i _ ((slot i).trans (if_pos rfl)) (.inl rfl) hlamp fun j d hd hj _ hdl => by
      rw [slot, if_neg hj] at hd
      exact absurd (hothers j d hd) hdl
    rw [shown, show (s.posted m i (s.newCue m r none scene)).display.ringEffect = none from hring, eq]
    rfl

/-! ### The end of a hold-only play, and the end of a gap (R44, R45, R72 to R75) -/

theorem exec_holdTimerExpiry_up (h : s.resetHeld = false) (r : CueRef) :
    exec (.holdTimerExpiry r) s = .next (s.holdEnded r).settle := running_of_up h fun s => (s.holdEnded r).settle

theorem exec_cueGapEnd_up (h : s.resetHeld = false) (i : Fin 24) :
    exec (.cueGapEnd i) s = .next (s.gapExpiry i).settle := running_of_up h fun s => (s.gapExpiry i).settle

/-- A cue that holds nothing frees nothing. -/
theorem State.freeResources_of_none {r : CueRef} (hp : s.sched.path.holder ≠ some r) (hv : s.voiceOf r = none) :
    s.freeResources r = s := by
  have path : s.freePath r = s := if_neg hp
  rw [State.freeResources, path, State.freeVoice, hv]

theorem State.EndsQuietly.setCue {i : Fin 24} {c : Cue} (h : s.EndsQuietly m i) : (s.setCue (.slot i) (some c)).EndsQuietly m i := by
  obtain ⟨hm, hheld, hp, hv⟩ := h
  refine ⟨hm, fun j d hd hj => hheld j d ?_ hj, hp, hv⟩
  have same : (s.setCue (.slot i) (some c)).sched.table[j] = s.sched.table[j] := by
    simp [State.setCue, State.onSched, Sched.setCue, Vector.getElem_set_ne _ _ (Fin.val_ne_of_ne (Ne.symm hj))]
  exact same.symm.trans hd

/-- A slot of a state whose cue's record is replaced. -/
theorem State.setCue_withSlot (s : State) (i : Fin 24) (c : Cue) : s.WithSlot (s.setCue (.slot i) (some c)) i c where
  slot := by simp [State.setCue, State.onSched, Sched.setCue]
  others j hj := by simp [State.setCue, State.onSched, Sched.setCue, Vector.getElem_set_ne _ _ (Fin.val_ne_of_ne (Ne.symm hj))]
  narration := rfl
  feedback := rfl
  state := rfl
  check := rfl

/-- The next two replacements of one slot's cue come to the second. -/
theorem State.setCue_setCue (s : State) (i : Fin 24) (c d : Option Cue) :
    (s.setCue (.slot i) c).setCue (.slot i) d = s.setCue (.slot i) d := by
  simp [State.setCue, State.onSched, Sched.setCue]

theorem State.endOfPlay_slot {i : Fin 24} {c : Cue} (hc : s.sched.table[i] = some c) : s.endOfPlay (.slot i) =
    (if 0 < c.repeatsLeft then (s.freeResources (.slot i)).enterGap i c
      else (s.freeResources (.slot i)).enterReporting i .completed).leftPlaying.chooseRing := by
  have hcue : s.cue? (.slot i) = some c := hc
  simp only [State.endOfPlay, hcue]

theorem State.holdEnded_of_running {r : CueRef} {c : Cue} (hc : s.cue? r = some c) (hst : c.state = .playing) (hh : c.holdTimer ≠ none) :
    s.holdEnded r = s.endOfPlay r := by
  simp [State.holdEnded, hc, hst, Option.isSome_iff_ne_none, hh]

/-- The cue that waits for its next play, one repeat less (R75). -/
def Cue.replay (c : Cue) : Cue :=
  { c with state := .waiting, phase := none, holdTimer := none, gapTimer := none, repeatsLeft := c.repeatsLeft - 1 }

theorem State.enterGap_timed {i : Fin 24} {c : Cue} (h : 0 < c.gapLength) : s.enterGap i c = s.setCue (.slot i) (some
    { c with state := .gap, phase := none, holdTimer := none, repeatsLeft := c.repeatsLeft - 1,
             gapTimer := some (s.now + c.gapLength * 100000) }) := if_neg (by omega)

theorem State.endGap_slot {i : Fin 24} {c : Cue} (hc : s.sched.table[i] = some c) : s.endGap i =
    if c.deadlinePassed then s.enterReporting i .completed
    else (s.setCue (.slot i) (some { c with state := .waiting, gapTimer := none })).setArb := by
  simp only [State.endGap, hc]

theorem State.enterGap_late {i : Fin 24} {c : Cue} (h : c.gapLength = 0) (hd : c.deadlinePassed = true) (ho : c.origin = .machine m)
    (hq : s.EndsQuietly m i) : s.enterGap i c = s.reported i { c with repeatsLeft := c.repeatsLeft - 1 } m .completed := by
  refine (if_pos h).trans ?_
  rw [State.endGap_slot (State.setCue_withSlot _ _ _).slot, if_pos hd]
  have late (d : Cue) (hd : d.origin = .machine m) :=
    State.enterReporting_quiet (s.setCue_withSlot i d).slot hd hq.setCue .completed
  rw [late _ (by exact ho)]
  simp only [State.reported, State.setCue, State.onSched, Sched.setCue, Vector.set_set]
  rfl

theorem State.enterGap_replays {i : Fin 24} {c : Cue} (h : c.gapLength = 0) (hd : c.deadlinePassed = false) :
    s.enterGap i c = (s.setCue (.slot i) (some c.replay)).setArb := by
  refine (if_pos h).trans ?_
  rw [State.endGap_slot (State.setCue_withSlot _ _ _).slot, if_neg (by simp [hd]), State.setCue_setCue]
  rfl

/-- The display's choice at the end of a play does not show a cue that has left the stage. -/
theorem State.endDisplay_shows {i : Fin 24} {c : Cue} (hc : s.sched.table[i] = some c) (h : ¬(c.state = .playing ∨ c.state = .ending))
    {e : RingEffect} (he : s.leftPlaying.chooseRing.display.ringEffect = some e) : e.cue ≠ i := by
  rintro rfl
  obtain ⟨j, d, hj, hd, hst⟩ := State.chooseRing_shows he
  subst hj
  rw [State.leftPlaying_table, hc] at hd
  cases hd
  exact h hst

/-- Settles O22. -/
theorem holdAndGapEnd : Obligations.HoldAndGapEnd := by
  refine ⟨⟨fun s r c hs hc hh => ?_, fun s i c m hs hc ho hst hh hp hv => ?_, fun s c hs hc hst hh hp hv => ?_⟩,
    fun s i c m hs hc ho => ?_⟩
  · rw [exec_holdTimerExpiry_up hs.1]
    have still : s.holdEnded r = s := by simp [State.holdEnded, hc, hh]
    rw [still, State.settle_of_settled _ hs.2]
  · have ends := (State.holdEnded_of_running (r := .slot i) hc hst hh).trans (State.endOfPlay_slot hc)
    rw [State.freeResources_of_none hp hv] at ends
    rw [exec_holdTimerExpiry_up hs.1, ends]
    refine ⟨fun hr hq => ?_, fun hr hg => ?_, fun hr hg hd hq => ?_, fun hr hg hd he hsp htn hnone hu => ?_⟩
    · rw [if_neg (by omega), State.enterReporting_quiet hc ho hq]
      obtain ⟨eq, ring⟩ := (s.reported i c m .completed).endDisplay_eq
      refine ⟨_, ?_, eq, ring⟩
      rw [State.settle_report (t := (s.reported i c m .completed).leftPlaying.chooseRing) hs.2 (by rw [eq]; exact hs.2.1) ?_ (by rw [eq]; rfl)]
      rw [eq]
      exact State.ports_of_rest hs.2.2.1 hs.2.2.2.1
    · rw [if_pos hr, State.enterGap_timed hg]
      obtain ⟨eq, ring⟩ := State.endDisplay_eq (s.setCue (.slot i) (some
        { c with state := .gap, phase := none, holdTimer := none, repeatsLeft := c.repeatsLeft - 1,
                 gapTimer := some (s.now + c.gapLength * 100000) }))
      refine ⟨_, ?_, eq, ring⟩
      rw [State.settle_of_settled]
      rw [eq]
      exact hs.2
    · rw [if_pos hr, State.enterGap_late hg hd ho hq]
      obtain ⟨eq, ring⟩ := (s.reported i { c with repeatsLeft := c.repeatsLeft - 1 } m .completed).endDisplay_eq
      refine ⟨_, ?_, eq, ring⟩
      rw [State.settle_report (c := c) (o := .completed) hs.2 (by rw [eq]; exact hs.2.1) ?_ (by rw [eq]; rfl)]
      rw [eq]
      exact State.ports_of_rest hs.2.2.1 hs.2.2.2.1
    · rw [if_pos hr, State.enterGap_replays hg hd]
      obtain ⟨eq, ring⟩ := (s.setCue (.slot i) (some c.replay)).setArb.endDisplay_eq
      have shows (e : RingEffect) := State.endDisplay_shows (s := (s.setCue (.slot i) (some c.replay)).setArb) (e := e)
        (s.setCue_withSlot i c.replay).slot (by simp [Cue.replay])
      generalize (s.setCue (.slot i) (some c.replay)).setArb.leftPlaying.chooseRing = y at *
      have restarts : y = State.setArb { s.setCue (.slot i) (some c.replay) with display := y.display } := by rw [eq]; rfl
      have with_slot : s.WithSlot { s.setCue (.slot i) (some c.replay) with display := y.display } i c.replay :=
        { s.setCue_withSlot i c.replay with }
      obtain ⟨settled, eq', ring'⟩ := with_slot.starts_holding hnone hs.2.1 rfl he ho hsp htn hu
      rw [← restarts] at settled
      generalize State.startCue _ _ _ = u at *
      refine ⟨u, ?_, eq'.trans ?_, ?_⟩
      · rw [State.settle_of_arb_settled settled]
        rw [eq']
        exact hs.2
      · rw [eq]
        simp only [State.setCue, State.onSched, Sched.setCue, Sched.withStart, Vector.set_set]
        rfl
      · refine State.RingChosen.again (s := y) ring shows ?_ ?_ ?_ ring'
        · intro d hd
          have : y.sched.table[i] = some c.replay := by rw [eq]; exact (s.setCue_withSlot i c.replay).slot
          rw [this] at hd
          cases hd
          simp [Cue.replay]
        · intro j hj
          have now : y.sched.table[j] = s.sched.table[j] := by rw [eq]; exact (s.setCue_withSlot i c.replay).others j hj
          rw [now, eq']
          simp [Sched.withStart, State.setCue, State.onSched, Sched.setCue, Vector.getElem_set_ne _ _ (Fin.val_ne_of_ne (Ne.symm hj))]
        · rw [eq', eq]
          rfl
  · have hcue : s.cue? .narration = some c := hc
    have ends : s.holdEnded .narration = (s.setCue .narration none).leftPlaying.chooseRing := by
      rw [State.holdEnded_of_running hcue hst hh]
      simp only [State.endOfPlay, hcue, State.freeResources_of_none hp hv]
    rw [exec_holdTimerExpiry_up hs.1, ends]
    obtain ⟨eq, ring⟩ := State.endDisplay_eq (s.setCue .narration none)
    refine ⟨_, ?_, eq, ring⟩
    rw [State.settle_of_settled]
    rw [eq]
    exact hs.2
  · rw [exec_cueGapEnd_up hs.1]
    have inGap (h : c.state = .gap) : s.gapExpiry i = s.endGap i := by simp [State.gapExpiry, hc, h]
    refine ⟨fun h => ?_, fun h hd hq => ?_, fun h hd hnone hsp hst hck => ?_, fun h hd he hsp htn hnone hu => ?_⟩
    · have still : s.gapExpiry i = s := by simp [State.gapExpiry, hc, h]
      rw [still, State.settle_of_settled _ hs.2]
    · rw [inGap h, State.endGap_slot hc, if_pos hd, State.enterReporting_quiet hc ho hq]
      exact congrArg _ (State.settle_report hs.2 hs.2.1 hs.2.ports_reported rfl)
    · rw [inGap h, State.endGap_slot hc, if_neg (by simp [hd])]
      have with_slot := s.setCue_withSlot i { c with state := .waiting, gapTimer := none }
      have waits : State.NothingToServe (s.setCue (.slot i) (some { c with state := .waiting, gapTimer := none })) :=
        with_slot.nothingToServe hnone (by
          simp [State.isCandidate, State.checkActive, State.needsPath, with_slot.state, with_slot.check, hst, hck,
            Option.isSome_iff_ne_none, hsp])
      refine congrArg _ (State.settle_of_arb_settled ?_ ?_)
      · rw [State.settleArb_nothing (by exact waits), State.setArb_clearArb (by exact hs.2.1)]
        rfl
      · exact hs.2
    · rw [inGap h, State.endGap_slot hc, if_neg (by simp [hd])]
      obtain ⟨settled, eq, ring⟩ := (s.setCue_withSlot i { c with state := .waiting, gapTimer := none }).starts_holding hnone hs.2.1 rfl he
        ho hsp htn hu
      refine ⟨_, ?_, eq.trans ?_, ring⟩
      · rw [State.settle_of_arb_settled settled]
        rw [eq]
        exact hs.2
      · simp only [State.setCue, State.onSched, Sched.setCue, Sched.withStart, Vector.set_set]
        rfl

end Sys2Proof.Machine
end

section
/-! SUPPORT. CUE_CANCEL (R46, R47): what it selects, what one turn of it does to a slot and to the others, and the run of all turns. -/

namespace Sys2Proof.Machine

variable {s t u : State} {m : Side}

/-! ### The selection (R46) -/

theorem parseCueCancel_eq (mode x : Byte) : parseCueCancel [mode, x] =
    if mode = 0 then some (.byId x.toNat)
    else if 2 < mode.toNat ∨ (mode = 1 ∧ 15 < x.toNat) then none
    else if mode = 1 then some (.byGroup x.toNat) else some .all := by
  have zero : mode = 0 ↔ mode.toNat = 0 := (byte_toNat_eq_iff (by decide)).symm
  have one : mode = 1 ↔ mode.toNat = 1 := (byte_toNat_eq_iff (by decide)).symm
  simp only [parseCueCancel, zero, one]
  generalize mode.toNat = k
  match k with
  | 0 => rfl
  | 1 => by_cases h : 15 < x.toNat <;> simp [h]
  | 2 => simp
  | k + 3 => simp

/-- A live cue of machine `m` that a mode selects (R41, R46). -/
theorem Cue.live_of_ofMachine {c : Cue} (h : c.ofMachine m = true) : c.live = true ↔ c.state ≠ .reporting := by
  simp only [Cue.ofMachine, Bool.and_eq_true] at h
  simp [Cue.live, h.2]

theorem State.cancelSelection_nodup (s : State) (m : Side) (mode : CancelMode) : (s.cancelSelection m mode).Nodup :=
  s.slotsInOrder_nodup _

theorem State.cueCancel_eq (m : Side) (mode : CancelMode) (h : s.cancelSelection m mode ≠ [] ∨ ∀ id, mode ≠ .byId id) :
    s.cueCancel m mode = (.done [byteOf (s.cancelSelection m mode).length], (s.cancelSelection m mode).foldl State.cancelCue s) := by
  unfold State.cueCancel
  cases hsel : s.cancelSelection m mode with
  | nil => cases mode with
    | byId id => exact absurd rfl ((h.resolve_left fun hn => hn hsel) id)
    | byGroup g => rfl
    | all => rfl
  | cons i l => cases mode <;> rfl

/-! ### One turn (R47) -/

theorem Cue.ofMachine_iff {c : Cue} : c.ofMachine m = true ↔ c.origin = .machine m ∧ ¬(c.state = .ending ∧ c.endCause = some .purged) := by
  simp [Cue.ofMachine, Cue.purged, imp_iff_not_or]

/-- Play ends by a fade: nothing but the record, the idle timer and the ring (R68, R166, R169). -/
theorem State.enterEnding_eq {i : Fin 24} {c : Cue} (hc : s.sched.table[i] = some c) (e : EndCause) : let t := s.enterEnding (.slot i) e
    t = { s with sched := { s.sched with table := s.sched.table.set i (some (c.fadingAs e s.now)) }, display := s.displayOfEnd t } ∧
      t.RingChosen s.display.ringEffect := by
  have record : (s.modCue (.slot i) fun c => c.toEnding e s.now) = s.setCue (.slot i) (some (c.fadingAs e s.now)) := by
    have hcue : s.cue? (.slot i) = some c := hc
    rw [State.modCue, hcue]
    rfl
  have ends : s.enterEnding (.slot i) e = (s.setCue (.slot i) (some (c.fadingAs e s.now))).leftPlaying.chooseRing := by
    rw [State.enterEnding, record]
  rw [ends]
  exact State.endDisplay_eq _

/-- A WAITING, HELD or GAP cue is cancelled at once, a PLAYING one fades, a fade goes on as CANCELLED (R47). -/
theorem State.cancelCue_waiting {i : Fin 24} {c : Cue} (hc : s.sched.table[i] = some c)
    (h : c.state = .waiting ∨ c.state = .held ∨ c.state = .gap) : s.cancelCue i = s.enterReporting i .cancelled := by
  rcases h with h | h | h <;> simp only [State.cancelCue, hc, h]

theorem State.cancelCue_playing {i : Fin 24} {c : Cue} (hc : s.sched.table[i] = some c) (h : c.state = .playing) :
    s.cancelCue i = s.enterEnding (.slot i) .cancelled := by simp only [State.cancelCue, hc, h]

theorem State.cancelCue_ending {i : Fin 24} {c : Cue} (hc : s.sched.table[i] = some c) (h : c.state = .ending) :
    s.cancelCue i = s.setCue (.slot i) (some { c with endCause := some .cancelled }) := by simp only [State.cancelCue, hc, h]

/-- Settles O17. -/
theorem cueCancelByState : Obligations.CueCancelByState := by
  refine ⟨fun s m note mode x h hnone => ?_, fun s m note id i c h hc ho hid hp hone => ?_⟩
  · have empty (k : CancelMode) (hk : ∀ c : Cue, k.selects c = true → ¬((mode = 0 ∧ c.id ≠ x.toNat) ∨
        (mode = 1 ∧ c.group ≠ x.toNat) ∨ 2 < mode.toNat ∨ (mode = 1 ∧ 15 < x.toNat))) : s.cancelSelection m k = [] := by
      rw [List.eq_nil_iff_forall_not_mem]
      intro i hi
      obtain ⟨c, hc, hm, hl, hs⟩ := (s.mem_cancelSelection m k i).1 hi
      exact hk c hs (hnone i c hc hm ((Cue.live_of_ofMachine hm).1 hl))
    have counts (k : CancelMode) (hk : ∀ id, k ≠ .byId id) (hp : parseCueCancel [mode, x] = some k) (he : s.cancelSelection m k = []) :
        exec (.cueCancel m note [mode, x]) s = .next (s.answered m .cueCancel (.done [0]) note) := by
      refine exec_request_done h .cueCancel note (p := [mode, x]) rfl (by decide) (t := s) ?_ h.atRest.2
      rw [State.handle, hp]
      exact (State.cueCancel_eq m k (.inr hk)).trans (by rw [he]; rfl)
    have parse := parseCueCancel_eq mode x
    by_cases h0 : mode = 0
    · rw [if_pos h0] at parse ⊢
      refine exec_request_refused h .cueCancel note (p := [mode, x]) rfl (t := s) ?_ h.atRest.2
      have none : s.cancelSelection m (.byId x.toNat) = [] := empty _ fun c hs => by
        have : c.id = x.toNat := by simpa [CancelMode.selects] using hs
        subst h0
        simp [this]
      rw [State.handle, parse]
      simp only [withFields, State.cueCancel, none]
    · rw [if_neg h0] at parse ⊢
      by_cases hf : 2 < mode.toNat ∨ (mode = 1 ∧ 15 < x.toNat)
      · rw [if_pos hf] at parse ⊢
        refine exec_request_format h .cueCancel note (p := [mode, x]) rfl ?_
        rw [State.handle, parse]
        rfl
      · rw [if_neg hf] at parse ⊢
        by_cases h1 : mode = 1
        · rw [if_pos h1] at parse
          refine counts _ (fun id => by simp) parse (empty _ fun c hs => ?_)
          have : c.group = x.toNat := by simpa [CancelMode.selects] using hs
          tauto
        · rw [if_neg h1] at parse
          exact counts _ (fun id => by simp) parse (empty _ fun c hs => by tauto)
  · have selected (hst : c.state ≠ .reporting) : s.handle m .cueCancel [0, id] = (.done [1], s.cancelCue i) := by
      have sel : s.cancelSelection m (.byId id.toNat) = [i] := by
        refine List.eq_singleton_of_mem (s.cancelSelection_nodup m _) fun j => ?_
        rw [State.mem_cancelSelection]
        constructor
        · rintro ⟨d, hd, hm, hl, hs⟩
          refine hone j d hd hm ((Cue.live_of_ofMachine hm).1 hl) ?_
          rw [hid]
          simpa [CancelMode.selects] using hs
        · rintro rfl
          have hm : c.ofMachine m = true := Cue.ofMachine_iff.2 ⟨ho, hp⟩
          exact ⟨c, hc, hm, (Cue.live_of_ofMachine hm).2 hst, by simp [CancelMode.selects, hid]⟩
      rw [State.handle, parseCueCancel_eq, if_pos rfl]
      exact (State.cueCancel_eq m _ (.inl (by rw [sel]; simp))).trans (by rw [sel]; rfl)
    have answers (hst : c.state ≠ .reporting) (harb : (s.cancelCue i).sched.arbDue = false)
        (hport : (s.cancelCue i).ports = s.cancelCue i) (hother : (s.cancelCue i).link m.other = s.link m.other) :
        exec (.cueCancel m note [0, id]) s = .next ((s.cancelCue i).answered m .cueCancel (.done [1]) note) := by
      have done := exec_request_arb h .cueCancel note (p := [0, id]) rfl (by decide) (selected hst)
        (State.settleArb_of_not_due _ harb) (by rw [hother]; exact h.atRest.2.link _)
      rwa [hport] at done
    refine ⟨fun hst hq => ?_, fun hst => ?_, fun hst => ?_⟩
    · have turn : s.cancelCue i = s.reported i c m .cancelled :=
        (State.cancelCue_waiting hc hst).trans (State.enterReporting_quiet hc ho hq _)
      have done := answers (by rcases hst with h | h | h <;> simp [h]) (by rw [turn]; exact h.atRest.2.1)
        (by rw [turn]; exact h.atRest.2.ports_reported) (by
          rw [turn]
          exact PerSide.get_modify_of_ne _ _ (Side.other_ne m))
      rwa [turn] at done
    · obtain ⟨eq, ring⟩ := State.enterEnding_eq hc .cancelled
      rw [← State.cancelCue_playing hc hst] at eq ring
      refine ⟨_, answers (by simp [hst]) (by rw [eq]; exact h.atRest.2.1) ?_ (by rw [eq]; rfl), eq, ring⟩
      rw [eq]
      exact State.ports_of_rest h.atRest.2.2.1 h.atRest.2.2.2.1
    · have turn := State.cancelCue_ending hc hst
      have done := answers (by simp [hst]) (by rw [turn]; exact h.atRest.2.1)
        (by rw [turn]; exact State.ports_of_rest h.atRest.2.2.1 h.atRest.2.2.2.1) (by rw [turn]; rfl)
      rw [turn] at done
      exact done

/-! ### All turns of a cancel (R47) -/

/-- The cue as it was, or released from HELD (R43). -/
def Cue.Released (c d : Cue) : Prop := d = c ∨ (c.state = .held ∧ d = { c with state := .waiting })

theorem Cue.Released.refl (c : Cue) : c.Released c := .inl rfl

theorem Cue.Released.trans (c d e : Cue) (h : c.Released d) (k : d.Released e) : c.Released e := by
  rcases h with rfl | ⟨hc, rfl⟩
  · exact k
  · rcases k with rfl | ⟨hd, -⟩
    · exact .inr ⟨hc, rfl⟩
    · cases hd

/-- What a cancel makes of a live cue by its state (R47). -/
def Cue.cancelledAt (c : Cue) (now : Nat) : Cue :=
  match c.state with
  | .waiting | .held | .gap => c.toReporting .cancelled
  | .playing => c.fadingAs .cancelled now
  | .ending => { c with endCause := some .cancelled }
  | .reporting => c

/-- The cancels that report at once (R47, R49). -/
def Cue.endsAtCancel (c : Cue) : Bool := c.state = .waiting || c.state = .held || c.state = .gap

theorem Cue.endsAtCancel_iff {c : Cue} : c.endsAtCancel = true ↔ c.state = .waiting ∨ c.state = .held ∨ c.state = .gap := by
  simp [Cue.endsAtCancel, or_assoc]

theorem Cue.cancelledAt_ends {c : Cue} (h : c.endsAtCancel = true) (now : Nat) : c.cancelledAt now = c.toReporting .cancelled := by
  rcases Cue.endsAtCancel_iff.1 h with h | h | h <;> simp only [Cue.cancelledAt, h]

theorem Cue.cancelledAt_state {c : Cue} (h : c.state ≠ .reporting) (now : Nat) :
    (c.cancelledAt now).state = .reporting ∨ (c.cancelledAt now).state = .ending := by
  unfold Cue.cancelledAt
  split <;> simp_all [Cue.toReporting, Cue.fadingAs]

/-- A release before its turn makes no difference to a cue's cancel. -/
theorem Cue.Released.cancel {c d : Cue} (h : c.Released d) (now : Nat) : d.cancelledAt now = c.cancelledAt now ∧
    d.endsAtCancel = c.endsAtCancel ∧ d.origin = c.origin ∧ d.uid = c.uid ∧ d.id = c.id ∧ d.preempts = c.preempts ∧
      (d.state ≠ .reporting ↔ c.state ≠ .reporting) := by
  rcases h with rfl | ⟨hc, rfl⟩
  · exact ⟨rfl, rfl, rfl, rfl, rfl, rfl, Iff.rfl⟩
  · refine ⟨?_, by simp [Cue.endsAtCancel, hc], rfl, rfl, rfl, rfl, by simp [hc]⟩
    rw [Cue.cancelledAt_ends (by simp [Cue.endsAtCancel]), Cue.cancelledAt_ends (by simp [Cue.endsAtCancel, hc])]
    rfl

theorem State.releaseHeld_links (s : State) (m : Side) : (s.releaseHeld m).links = s.links := by
  have same (f : Sched → Sched) (b : Bool) : (if b then (s.onSched f).setArb else s.onSched f).links = s.links := by cases b <;> rfl
  exact same _ _

theorem State.checkFences_links (m : Side) : (s.checkFences m).links = s.links := State.releaseHeld_links _ _

theorem State.checkFences_slot (m : Side) (j : Fin 24) : SlotRel Cue.Released s.sched.table[j] (s.checkFences m).sched.table[j] := by
  rw [State.checkFences, State.releaseHeld_slot]
  show SlotRel Cue.Released s.sched.table[j] ((s.sched.table[j]).map _)
  cases s.sched.table[j] with
  | none => trivial
  | some d =>
    show d.Released _
    dsimp only
    split
    · rename_i h
      refine .inr ⟨?_, rfl⟩
      simp only [State.released, Bool.and_eq_true, decide_eq_true_eq] at h
      exact h.1.1
    · exact .refl d

/-- The report that a cancel of a cue adds, if it ends at once: serial, id, outcome and preempt count (R12, R47). -/
def Cue.cancelReport (c : Cue) : List (Nat × Nat × CueOutcome × Nat) :=
  if c.endsAtCancel then [(c.uid, c.id, .cancelled, c.preempts)] else []

/-- What a statement reads of a report. -/
def DoneReport.key (r : DoneReport) : Nat × Nat × CueOutcome × Nat := (r.uid, r.id, r.outcome, r.preempts)

/-- One turn of a cancel (R47): its slot, the other slots, the reports. -/
theorem State.cancelCue_effect {i : Fin 24} {c : Cue} (hc : s.sched.table[i] = some c) (ho : c.origin = .machine m)
    (hl : c.state ≠ .reporting) : (s.cancelCue i).sched.table[i] = some (c.cancelledAt s.now) ∧
      (∀ j : Fin 24, j ≠ i → SlotRel Cue.Released s.sched.table[j] (s.cancelCue i).sched.table[j]) ∧
      ∃ reports, ((s.cancelCue i).link m).done = (s.link m).done ++ reports ∧ reports.map DoneReport.key = c.cancelReport := by
  cases hends : c.endsAtCancel with
  | true =>
    rw [State.cancelCue_waiting hc (Cue.endsAtCancel_iff.1 hends), State.enterReporting_eq hc ho, Cue.cancelledAt_ends hends]
    refine ⟨?_, fun j hj => ?_, ?_⟩
    · have slot := s.reportingAt_slot i c m .cancelled i
      rw [if_pos rfl] at slot
      obtain ⟨d, hd, hr⟩ := (State.checkFences_slot (s := s.reportingAt i c m .cancelled) m i).of_some slot
      rw [hd]
      rcases hr with rfl | ⟨h, -⟩
      · rfl
      · cases h
    · have slot := s.reportingAt_slot i c m .cancelled j
      rw [if_neg hj] at slot
      rw [← slot]
      exact State.checkFences_slot m j
    · have links : (s.reportingAt i c m .cancelled).links =
          s.links.modify m fun l => l.joinDone c.uid c.id .cancelled c.flags c.preempts := by
        have ends : ((s.setCue (.slot i) (some (c.toReporting .cancelled))).endReservations (.slot i)).links = s.links := by
          unfold State.endReservations
          split <;> rfl
        unfold State.reportingAt State.onLink
        rw [ends]
      refine ⟨[⟨(s.link m).nextOrder, c.uid, c.id, .cancelled, c.flags, c.preempts⟩], ?_, by simp [Cue.cancelReport, hends, DoneReport.key]⟩
      show (((s.reportingAt i c m .cancelled).checkFences m).links.get m).done = _
      rw [State.checkFences_links, links, PerSide.get_modify_same]
      rfl
  | false =>
    have silent : c.cancelReport = [] := by simp [Cue.cancelReport, hends]
    have set (x : State) (d : Cue) (hx : x.sched.table = s.sched.table.set i (some d)) (hlinks : x.links = s.links)
        (hd : c.cancelledAt s.now = d) : x.sched.table[i] = some (c.cancelledAt s.now) ∧
        (∀ j : Fin 24, j ≠ i → SlotRel Cue.Released s.sched.table[j] x.sched.table[j]) ∧
        ∃ reports, (x.link m).done = (s.link m).done ++ reports ∧ reports.map DoneReport.key = c.cancelReport := by
      refine ⟨by rw [hx, Vector.getElem_set_fin, if_pos rfl, hd], fun j hj => ?_, [], ?_, silent.symm⟩
      · rw [hx, Vector.getElem_set_fin, if_neg hj]
        exact .of_eq Cue.Released.refl rfl
      · simp [State.link, hlinks]
    cases hst : c.state with
    | playing =>
      rw [State.cancelCue_playing hc hst]
      obtain ⟨eq, -⟩ := State.enterEnding_eq hc .cancelled
      exact set _ _ (by rw [eq]) (by rw [eq]) (by simp only [Cue.cancelledAt, hst])
    | ending =>
      rw [State.cancelCue_ending hc hst]
      exact set _ _ rfl rfl (by simp only [Cue.cancelledAt, hst])
    | reporting => exact absurd hst hl
    | waiting => simp [Cue.endsAtCancel, hst] at hends
    | held => simp [Cue.endsAtCancel, hst] at hends
    | gap => simp [Cue.endsAtCancel, hst] at hends

/-- The turns of a cancel, one for each cue of a list of live cues of one machine in different slots. -/
theorem State.cancelCues_effect (sel : List (Fin 24 × Cue)) (hn : (sel.map Prod.fst).Nodup) (s : State)
    (hsel : ∀ p ∈ sel, p.2.origin = .machine m ∧ p.2.state ≠ .reporting ∧ ∃ d, s.sched.table[p.1] = some d ∧ p.2.Released d) :
    let t := (sel.map Prod.fst).foldl State.cancelCue s
    (∀ p ∈ sel, t.sched.table[p.1] = some (p.2.cancelledAt s.now)) ∧
      (∀ j : Fin 24, j ∉ sel.map Prod.fst → SlotRel Cue.Released s.sched.table[j] t.sched.table[j]) ∧
      ∃ reports, (t.link m).done = (s.link m).done ++ reports ∧ reports.map DoneReport.key = sel.flatMap fun p => p.2.cancelReport := by
  induction sel generalizing s with
  | nil => exact ⟨fun p hp => by simp at hp, fun j _ => .of_eq Cue.Released.refl rfl, [], by simp⟩
  | cons p sel ih =>
    obtain ⟨i, c⟩ := p
    obtain ⟨ho, hl, d, hd, hrel⟩ := hsel (i, c) (by simp)
    obtain ⟨hcan, hends, horigin, huid, hid, hpre, hlive⟩ := hrel.cancel s.now
    obtain ⟨own, others, reports, hdone, hkeys⟩ := State.cancelCue_effect hd (horigin.trans ho) (hlive.2 hl)
    rw [List.map_cons, List.nodup_cons] at hn
    have hnow : (s.cancelCue i).now = s.now := (s.cancelCue_frame i).now
    obtain ⟨ihOwn, ihOthers, more, hmore, hmoreKeys⟩ := ih hn.2 (s.cancelCue i) fun q hq => by
      obtain ⟨hqo, hql, e, he, hqr⟩ := hsel q (by simp [hq])
      have hne : q.1 ≠ i := fun h => hn.1 (List.mem_map.2 ⟨q, hq, h⟩)
      obtain ⟨e', he', hee⟩ := (others q.1 hne).of_some he
      exact ⟨hqo, hql, e', he', hqr.trans _ _ _ hee⟩
    rw [hnow] at ihOwn
    simp only [List.map_cons, List.foldl_cons, List.mem_cons, List.flatMap_cons]
    refine ⟨?_, fun j hj => ?_, reports ++ more, ?_, ?_⟩
    · rintro q (rfl | hq)
      · have kept := ihOthers i hn.1
        obtain ⟨x, hx, hxr⟩ := kept.of_some own
        rw [hx, ← hcan]
        rcases hxr with rfl | ⟨h, -⟩
        · rfl
        · rcases Cue.cancelledAt_state (hlive.2 hl) s.now with h' | h' <;> rw [h'] at h <;> cases h
      · exact ihOwn q hq
    · push Not at hj
      exact SlotRel.trans Cue.Released.trans (others j hj.1) (ihOthers j hj.2)
    · rw [hmore, hdone, List.append_assoc]
    · rw [List.map_append, hkeys, hmoreKeys]
      congr 1
      simp [Cue.cancelReport, hends, huid, hid, hpre]

/-- A list in strict posting order of the cues a mode selects is the selection. -/
theorem State.cancelSelection_eq {mode : CancelMode} {sel : List (Fin 24 × Cue)}
    (hmem : ∀ i c, (i, c) ∈ sel ↔ s.sched.table[(i : Fin 24)] = some c ∧ c.ofMachine m = true ∧ c.live = true ∧ mode.selects c = true)
    (hsorted : sel.Pairwise fun a b => a.2.posting < b.2.posting) : s.cancelSelection m mode = sel.map Prod.fst := by
  refine congrArg (List.map Prod.fst) (List.Perm.eq_of_pairwise (le := fun a b : Fin 24 × Cue => a.2.posting ≤ b.2.posting) ?_
    (List.pairwise_insertionSort _ _) (hsorted.imp fun h => Nat.le_of_lt h) ?_)
  · intro a b ha hb hab hba
    have mem (x : Fin 24 × Cue) (hx : x ∈ (s.tableCues.filter fun p => p.2.ofMachine m && p.2.live && mode.selects p.2).insertionSort
        fun a b => a.2.posting ≤ b.2.posting) : x ∈ sel := by
      simp only [List.mem_insertionSort, List.mem_filter, Bool.and_eq_true] at hx
      exact (hmem x.1 x.2).2 ⟨(s.mem_tableCues x.1 x.2).1 hx.1, hx.2.1.1, hx.2.1.2, hx.2.2⟩
    by_contra hne
    have apart : sel.Pairwise fun a b => a.2.posting ≠ b.2.posting := hsorted.imp fun h => Nat.ne_of_lt h
    exact haveI : Std.Symm (fun a b : Fin 24 × Cue => a.2.posting ≠ b.2.posting) := ⟨fun _ _ h => Ne.symm h⟩
    apart.forall (mem a ha) hb hne (Nat.le_antisymm hab hba)
  · refine (List.perm_ext_iff_of_nodup ((List.perm_insertionSort _ _).nodup_iff.2 (s.tableCues_nodup.filter _)) ?_).2 ?_
    · exact hsorted.imp fun h e => absurd (congrArg (fun x : Fin 24 × Cue => x.2.posting) e) (Nat.ne_of_lt h)
    · rintro ⟨i, c⟩
      simp only [List.mem_insertionSort, List.mem_filter, State.mem_tableCues, Bool.and_eq_true, hmem, and_assoc]

theorem Cue.Released.entry (c d : Cue) (h : c.Released d) : c.id = d.id ∧ c.origin = d.origin ∧ c.posting = d.posting ∧ c.uid = d.uid := by
  rcases h with rfl | ⟨-, rfl⟩ <;> exact ⟨rfl, rfl, rfl, rfl⟩

/-- Two cues of one entry of the table: id, origin, posting number and serial. -/
def Cue.SameEntry (c d : Cue) : Prop := c.id = d.id ∧ c.origin = d.origin ∧ c.posting = d.posting ∧ c.uid = d.uid

/-- A slot keeps its entry through the turns of a cancel and the arbitrations. -/
theorem SlotRel.sameEntry {a b c : Option Cue} (h : SlotRel Cue.Released a b) (k : SlotRel Cue.Kept b c) : SlotRel Cue.SameEntry a c := by
  cases a <;> cases b <;> cases c <;> simp only [SlotRel] at h k ⊢
  obtain ⟨h1, h2, h3, h4⟩ := Cue.Released.entry _ _ h
  obtain ⟨k1, k2, k3, k4⟩ := Cue.Kept.entry _ _ k
  exact ⟨h1.trans k1, h2.trans k2, h3.trans k3, h4.trans k4⟩

/-- Settles O18. -/
theorem cancelGroupAndAll : Obligations.CancelGroupAndAll := by
  intro s m note mode x sel h hmode hsel hsorted
  obtain ⟨k, hk, hid, hselects⟩ : ∃ k, parseCueCancel [mode, x] = some k ∧ (∀ id, k ≠ .byId id) ∧
      ∀ c : Cue, k.selects c = true ↔ (mode = 1 → c.group = x.toNat) := by
    rcases hmode with ⟨rfl, hx⟩ | rfl
    · refine ⟨.byGroup x.toNat, ?_, fun id => by simp, fun c => by simp [CancelMode.selects]⟩
      rw [parseCueCancel_eq]
      simp [Nat.not_lt.2 hx]
    · exact ⟨.all, by rw [parseCueCancel_eq]; rfl, fun id => by simp, fun c => by simp [CancelMode.selects]⟩
  have selection : s.cancelSelection m k = sel.map Prod.fst := by
    refine State.cancelSelection_eq (fun i c => ?_) hsorted
    rw [hsel, hselects]
    constructor
    · rintro ⟨h1, h2, h3, h4⟩
      exact ⟨h1, h2, (Cue.live_of_ofMachine h2).2 h3, h4⟩
    · rintro ⟨h1, h2, h3, h4⟩
      exact ⟨h1, h2, (Cue.live_of_ofMachine h2).1 h3, h4⟩
  have handled : s.handle m .cueCancel [mode, x] =
      (.done [BitVec.ofNat 8 sel.length], (sel.map Prod.fst).foldl State.cancelCue s) := by
    rw [State.handle, hk]
    exact (State.cueCancel_eq m k (.inr hid)).trans (by rw [selection, List.length_map]; rfl)
  obtain ⟨own, others, reports, hdone, hkeys⟩ := State.cancelCues_effect (m := m) sel (selection ▸ s.cancelSelection_nodup m k) s
    fun p hp => by
      obtain ⟨h1, h2, h3, -⟩ := (hsel p.1 p.2).1 hp
      exact ⟨(Cue.ofMachine_iff.1 h2).1, h3, p.2, h1, .refl _⟩
  generalize (sel.map Prod.fst).foldl State.cancelCue s = t at *
  obtain ⟨u, hu, hsched, hreply, hlink⟩ := exec_request_next h .cueCancel note (p := [mode, x]) rfl (by decide) handled
  have cues := t.settleArb_cues
  refine ⟨u, hu, hreply, ?_, fun i c hic => ?_, fun j hj => ?_⟩
  · obtain ⟨more, n, hmore, -⟩ := (t.settleArb_frame).links m
    refine ⟨reports, more, by rw [hlink, hmore, ← hdone], ?_⟩
    refine hkeys.trans ?_
    clear * -
    induction sel with
    | nil => rfl
    | cons p sel ih =>
      rw [List.flatMap_cons, ih, List.filter_cons]
      show _ ++ _ = List.map _ (if p.2.endsAtCancel = true then _ else _)
      unfold Cue.cancelReport
      split <;> rfl
  · have live := ((hsel i c).1 hic).2.2.1
    have stays : u.sched.table[i] = some (c.cancelledAt s.now) := by
      rw [hsched]
      refine cues.asleep (own (i, c) hic) ?_
      rcases Cue.cancelledAt_state live s.now with h | h
      · exact .inr (.inr h)
      · exact .inr (.inl h)
    rw [stays]
    refine ⟨fun hst => ?_, fun hst => ?_, fun hst => ?_⟩
    · rw [Cue.cancelledAt_ends (Cue.endsAtCancel_iff.2 hst)]
      rfl
    · simp only [Cue.cancelledAt, hst]
    · simp only [Cue.cancelledAt, hst]
  · have kept := (others j fun hm => by
      obtain ⟨p, hp, rfl⟩ := List.mem_map.1 hm
      exact hj p.2 hp).sameEntry (cues j)
    rw [← hsched] at kept
    exact kept.entry_match fun _ _ h => h

end Sys2Proof.Machine
end

section
/-! SUPPORT. ATTACH (R18, R32, R56, R57): the purge slot by slot, and the blocks it returns to their reset values. -/

namespace Sys2Proof.Machine

variable {s t u : State} {m : Side}

/-! ### The purge (R56, R57) -/

/-- What the purge by machine `m` makes of a cue by its state. -/
def Cue.purgedBy (c : Cue) (m : Side) (now : Nat) : Option Cue :=
  if c.ofMachine m then
    match c.state with
    | .waiting | .held | .gap | .reporting => none
    | .playing => some (c.fadingAs .purged now)
    | .ending => some { c with endCause := some .purged }
  else some c

theorem Cue.purgedBy_of_not {c : Cue} (h : c.ofMachine m = false) (now : Nat) : c.purgedBy m now = some c := by simp [Cue.purgedBy, h]

/-- No cue of the machine is left by its purge. -/
theorem Cue.purgedBy_ofMachine {c d : Cue} {now : Nat} (h : c.purgedBy m now = some d) : d.ofMachine m = false := by
  unfold Cue.purgedBy at h
  split at h
  · split at h
    · cases h
    · cases h
    · cases h
    · cases h
    · cases h
      simp [Cue.ofMachine, Cue.purged, Cue.fadingAs]
    · rename_i hst
      cases h
      simp [Cue.ofMachine, Cue.purged, hst]
  · rename_i hm
    cases h
    simpa using hm

theorem State.purgeCue_of_not {i : Fin 24} (h : ∀ c, s.sched.table[i] = some c → c.ofMachine m = false) : s.purgeCue m i = s := by
  unfold State.purgeCue
  split
  · rfl
  · rename_i c hc
    rw [h c hc]
    rfl

/-- One turn of the purge, slot by slot. -/
theorem State.purgeCue_slot (s : State) (m : Side) (i j : Fin 24) : (s.purgeCue m i).sched.table[j] =
    if j = i then (s.sched.table[j]).bind fun c => c.purgedBy m s.now else s.sched.table[j] := by
  cases hc : s.sched.table[i] with
  | none =>
    rw [State.purgeCue_of_not (by simp [hc])]
    split
    · rename_i h
      rw [h, hc]
      rfl
    · rfl
  | some c =>
    cases hm : c.ofMachine m with
    | false =>
      rw [State.purgeCue_of_not (by rw [hc]; rintro d ⟨⟩; exact hm)]
      split
      · rename_i h
        rw [h, hc, Option.bind_some, Cue.purgedBy_of_not hm]
      · rfl
    | true =>
      have set (x : State) (d : Option Cue) (hx : x.sched.table = s.sched.table.set i d) (hd : c.purgedBy m s.now = d) :
          x.sched.table[j] = if j = i then (s.sched.table[j]).bind fun c => c.purgedBy m s.now else s.sched.table[j] := by
        rw [hx, Vector.getElem_set_fin]
        split
        · rename_i h
          rw [h, hc, Option.bind_some, hd]
        · rfl
      have gone : ((s.setCue (.slot i) none).endReservations (.slot i)).sched.table = s.sched.table.set i none := by
        unfold State.endReservations
        split <;> rfl
      have leaves (hst : c.state = .waiting ∨ c.state = .held ∨ c.state = .gap ∨ c.state = .reporting) :
          s.purgeCue m i = (s.setCue (.slot i) none).endReservations (.slot i) ∧ c.purgedBy m s.now = none := by
        rcases hst with h | h | h | h <;> simp only [State.purgeCue, Cue.purgedBy, hc, hm, h, if_true, and_self]
      have out (hst : c.state = .waiting ∨ c.state = .held ∨ c.state = .gap ∨ c.state = .reporting) :
          (s.purgeCue m i).sched.table[j] = if j = i then (s.sched.table[j]).bind fun c => c.purgedBy m s.now else s.sched.table[j] := by
        rw [(leaves hst).1]
        exact set _ none gone (leaves hst).2
      cases hst : c.state with
      | waiting => exact out (by simp [hst])
      | held => exact out (by simp [hst])
      | gap => exact out (by simp [hst])
      | reporting => exact out (by simp [hst])
      | playing =>
        have turn : s.purgeCue m i = s.enterEnding (.slot i) .purged := by simp only [State.purgeCue, hc, hm, hst, if_true]
        obtain ⟨eq, -⟩ := State.enterEnding_eq hc .purged
        rw [turn]
        exact set _ (some (c.fadingAs .purged s.now)) (by rw [eq]) (by simp only [Cue.purgedBy, hm, hst, if_true])
      | ending =>
        have turn : s.purgeCue m i = s.setCue (.slot i) (some { c with endCause := some .purged }) := by
          simp only [State.purgeCue, hc, hm, hst, if_true]
        rw [turn]
        exact set _ (some { c with endCause := some .purged }) rfl (by simp only [Cue.purgedBy, hm, hst, if_true])

theorem State.purgeCues_slot (m : Side) (l : List (Fin 24)) (hn : l.Nodup) (s : State) (j : Fin 24) :
    (l.foldl (fun t i => t.purgeCue m i) s).sched.table[j] =
      if j ∈ l then (s.sched.table[j]).bind fun c => c.purgedBy m s.now else s.sched.table[j] := by
  induction l generalizing s with
  | nil => simp
  | cons i l ih =>
    rw [List.nodup_cons] at hn
    rw [List.foldl_cons, ih hn.2, State.purgeCue_slot, (s.purgeCue_frame m i).now]
    by_cases hj : j = i
    · subst hj
      simp [hn.1]
    · simp [hj]

/-- The purge: each slot, the markers and the posting sequence. -/
theorem State.purge_sched (s : State) (m : Side) :
    (∀ j : Fin 24, (s.purge m).sched.table[j] = (s.sched.table[j]).bind fun c => c.purgedBy m s.now) ∧
      (s.purge m).sched.markers.get m = [] ∧ (s.purge m).sched.nextPosting.get m = 0 := by
  have turns := State.purgeCues_slot m (List.finRange 24) (List.nodup_finRange 24) s
  unfold State.purge
  generalize (List.finRange 24).foldl (fun t i => t.purgeCue m i) s = x at *
  refine ⟨fun j => ?_, PerSide.get_set_same _ _ _, PerSide.get_set_same _ _ _⟩
  have h := turns j
  rw [if_pos (List.mem_finRange j)] at h
  exact h

/-- A machine without cues purges its markers and its posting sequence alone. -/
theorem State.purge_of_none (h : ∀ (i : Fin 24) c, s.sched.table[i] = some c → c.ofMachine m = false) : s.purge m =
    { s with sched := { s.sched with markers := s.sched.markers.set m [], nextPosting := s.sched.nextPosting.set m 0 } } := by
  have quiet (l : List (Fin 24)) : l.foldl (fun t i => t.purgeCue m i) s = s := by
    induction l with
    | nil => rfl
    | cons i l ih => rw [List.foldl_cons, State.purgeCue_of_not (h i), ih]
  rw [State.purge, quiet]
  rfl

/-! ### ATTACH (R18) -/

theorem State.linkRefusal_attach : s.linkRefusal m .attach [] = none := by simp [State.linkRefusal, alwaysTaken, lenAllowed]

theorem State.attachEffects_sched (s : State) (m : Side) :
    (s.attachEffects m).sched = ((((s.onLink m Link.attach).attachAt m)).purge m).sched := by
  rw [State.attachEffects_eq]
  split <;> rfl

theorem patternOwner_eq_iff (p : Fin 32) (m : Side) : patternOwner p = some m ↔
    (m = .w ∧ 8 ≤ p.val ∧ p.val ≤ 19) ∨ (m = .d ∧ 20 ≤ p.val) := by
  unfold patternOwner
  cases m <;> split_ifs <;> simp <;> omega

/-- ATTACH where the machine has no cue: its link cleared, and FOCUS marked when nobody held focus (R18, R32, R35). -/
theorem State.attachEffects_of_none (hfa : s.FocusAttached)
    (hnone : ∀ (i : Fin 24) c, s.sched.table[i] = some c → c.ofMachine m = false) : s.attachEffects m =
      { ({ (s.onCtx m fun _ => attachedContext) with
          focus := some (s.focus.getD m),
          sched := { s.sched with markers := s.sched.markers.set m [], nextPosting := s.sched.nextPosting.set m 0 } } :
            State).attachRest m with
        links := s.links.modify m fun l => if s.focus = none then l.attach.setFocusMark else l.attach } := by
  rw [State.attachEffects_eq, State.purge_of_none (s := (s.onLink m Link.attach).attachAt m) (by exact hnone)]
  generalize hc : (s.onLink m Link.attach).attachAt m = x at *
  by_cases hf : s.focus = none
  · rw [if_pos hf]
    have links : x.links = s.links.modify m Link.attach := by rw [← hc]; rfl
    have attached (n : Side) : x.attached n = if n = m then true else false := by
      have : x.context n = if n = m then attachedContext else s.context n := by
        rw [← hc]
        show (s.ctx.modify m fun _ => attachedContext).get n = _
        rw [PerSide.get_modify]
        rfl
      rw [State.attached, this]
      split
      · rfl
      · exact hfa.2 hf n
    have marked (y : Sched) : ((({ x with sched := y } : State).attachRest m).onAttachedLinks Link.setFocusMark).links =
        s.links.modify m fun l => if s.focus = none then l.attach.setFocusMark else l.attach := by
      show PerSide.mk (if x.attached .w then x.links.w.setFocusMark else x.links.w)
        (if x.attached .d then x.links.d.setFocusMark else x.links.d) = _
      rw [attached, attached, links]
      simp only [hf, if_true]
      cases m <;> rfl
    have only (y : State) (f : Link → Link) : y.onAttachedLinks f = { y with links := (y.onAttachedLinks f).links } := rfl
    rw [only, marked, ← hc]
    rfl
  · rw [if_neg hf, ← hc]
    simp only [hf, if_false]
    rfl

/-- The slots, lamps and patterns that an ATTACH returns to their reset values, as the statement writes them. -/
theorem State.attachRest_eq (s : State) (m : Side) : s.attachRest m = { s with
    tone := { s.tone with patterns := Vector.ofFn fun p : Fin 32 =>
      if (m = Side.w ∧ 8 ≤ p.val ∧ p.val ≤ 19) ∨ (m = Side.d ∧ 20 ≤ p.val) then none else s.tone.patterns[p] },
    display := { s.display with
      slots := Vector.ofFn fun i : Fin 16 =>
        if (m = Side.w ∧ i.val < 8) ∨ (m = Side.d ∧ 8 ≤ i.val) then
          { s.display.slots[i] with staged := Vector.replicate 16 0, marks := Vector.replicate 4 true }
        else s.display.slots[i],
      ringLevels := s.display.ringLevels.set m { bright := 48, background := 4 } },
    panel := { s.panel with summary := s.panel.summary.set m 0, mask := s.panel.mask.set m 511 } } := by
  have patterns : (Vector.ofFn fun p : Fin 32 => if patternOwner p = some m then none else s.tone.patterns[p]) =
      Vector.ofFn fun p : Fin 32 =>
        if (m = Side.w ∧ 8 ≤ p.val ∧ p.val ≤ 19) ∨ (m = Side.d ∧ 20 ≤ p.val) then none else s.tone.patterns[p] :=
    congrArg Vector.ofFn (funext fun p => if_congr (patternOwner_eq_iff p m) rfl rfl)
  have slots : (Vector.ofFn fun i : Fin 16 =>
        if (i.val < 8) = (m = .w) then { s.display.slots[i] with staged := blankPicture, marks := allMarks }
        else s.display.slots[i]) = Vector.ofFn fun i : Fin 16 =>
        if (m = Side.w ∧ i.val < 8) ∨ (m = Side.d ∧ 8 ≤ i.val) then
          { s.display.slots[i] with staged := Vector.replicate 16 0, marks := Vector.replicate 4 true }
        else s.display.slots[i] := by
    refine congrArg Vector.ofFn (funext fun i => if_congr ?_ rfl rfl)
    cases m <;> simp
  simp only [State.attachRest, State.blankSlots, State.onTone, State.onDisplay, State.onPanel, Tone.undefineOf, Panel.attach,
    patterns, slots]
  rfl

/-- Settles O11: with no cue of the machine in the table by its next state, and with any cues by the purge's slots. -/
theorem attachResetsAndPurges : Obligations.AttachResetsAndPurges := by
  refine ⟨fun s m note h hfa hnone => ?_, fun s m note h => ?_⟩
  · have attach := (State.attachEffects_of_none hfa hnone).trans (congrArg (fun y : State => ({ y with
        links := s.links.modify m fun l => if s.focus = none then l.attach.setFocusMark else l.attach } : State))
      (State.attachRest_eq _ m))
    have languages : byteOf (s.attachEffects m).attachLanguages =
        if s.partState = .starting then 0 else BitVec.ofNat 8 s.languageCount := by
      have same : (s.attachEffects m).attachLanguages = s.attachLanguages := by rw [attach]; rfl
      rw [same]
      unfold State.attachLanguages
      cases s.partState <;> rfl
    have answered := exec_taken_arb h .attach note State.linkRefusal_attach (by decide)
      (t := s.attachEffects m) (r := [1, byteOf (s.attachEffects m).attachLanguages]) rfl (u := s.attachEffects m)
      (State.settleArb_of_not_due _ (by rw [attach]; exact h.1.2.1)) (by
        rw [attach]
        show ((s.links.modify m _).get m.other).atRest
        rw [PerSide.get_modify_of_ne _ _ (Side.other_ne m)]
        exact h.1.2.link _)
    have ports : (s.attachEffects m).ports = s.attachEffects m :=
      State.ports_of_rest (by rw [attach]; exact h.1.2.2.1) (by rw [attach]; exact h.1.2.2.2.1)
    rw [ports, languages] at answered
    refine answered.trans ?_
    rw [attach]
    by_cases hf : s.focus = none
    · simp only [hf, if_true]
      rfl
    · obtain ⟨n, hn⟩ := Option.ne_none_iff_exists'.1 hf
      simp only [hn, reduceCtorEq, if_false]
      rfl
  · obtain ⟨u, hu, hsched, -⟩ := exec_taken_next h .attach note State.linkRefusal_attach (by decide)
      (t := s.attachEffects m) (r := [1, byteOf (s.attachEffects m).attachLanguages]) rfl
    generalize ht : s.attachEffects m = t at *
    have purged : t.sched = (((s.onLink m Link.attach).attachAt m).purge m).sched := ht ▸ s.attachEffects_sched m
    obtain ⟨slots, markers, posting⟩ := ((s.onLink m Link.attach).attachAt m).purge_sched m
    rw [← purged] at slots markers posting
    have slot (j : Fin 24) : t.sched.table[j] = (s.sched.table[j]).bind fun c => c.purgedBy m s.now := slots j
    have cues := t.settleArb_cues
    have places := t.settleArb_places
    have count : u.machineCount m = 0 := by
      have none_left : t.machineSlots m = ∅ := by
        rw [Finset.eq_empty_iff_forall_notMem]
        intro j hj
        obtain ⟨d, hd, hm⟩ := State.mem_machineSlots.1 hj
        rw [slot, Option.bind_eq_some_iff] at hd
        obtain ⟨c, -, hc⟩ := hd
        rw [Cue.purgedBy_ofMachine hc] at hm
        cases hm
      have same : u.machineSlots m = t.settleArb.machineSlots m := by
        ext j
        rw [State.mem_machineSlots, State.mem_machineSlots, hsched]
      rw [State.machineCount_eq, same, cues.machineSlots, none_left, Finset.card_empty]
    refine ⟨u, hu, count, ?_, ?_, fun i c hc => ?_⟩
    · rw [hsched]
      exact places.no_markers m markers
    · rw [hsched, places.1, posting]
    · have now := slot i
      rw [hc, Option.bind_some] at now
      rw [hsched]
      refine ⟨fun hm hp he => ?_, fun hm hst => ?_, fun hm hst => ?_, fun hm => ?_⟩
      · refine (cues i).eq_none.2 (now.trans ?_)
        unfold Cue.purgedBy
        rw [if_pos hm]
        cases hst : c.state with
        | playing => exact absurd hst hp
        | ending => exact absurd hst he
        | waiting => rfl
        | held => rfl
        | gap => rfl
        | reporting => rfl
      · refine cues.asleep (now.trans ?_) (.inr (.inl rfl))
        simp only [Cue.purgedBy, hm, hst, if_true]
        rfl
      · refine cues.asleep (now.trans ?_) (.inr (.inl hst))
        simp only [Cue.purgedBy, hm, hst, if_true]
      · rw [Cue.purgedBy_of_not hm] at now
        obtain ⟨d, hd, hk⟩ := cues.get now
        obtain ⟨h1, h2, h3, h4⟩ := Cue.Kept.entry _ _ hk
        exact ⟨d, hd, h1.symm, h2.symm, h4.symm⟩

end Sys2Proof.Machine
end

section
/-! SUPPORT. The assembly of an utterance (R101 to R113): what each item gives, and what becomes of the entries that are due. -/

namespace Sys2Proof.Machine

variable {s t u : State} {m : Side}

/-! ### Entries due, the limit and the result (R110 to R113) -/

/-- The entry a piece gives: none for an absent code (R109, R110). -/
def State.pieceEntry (s : State) (language : Nat) : Piece → Option UttEntry
  | .code c => (s.findFragment language c).map .fragment
  | .silence ms => some (.silence ms)

theorem Assembly.take_of_cut {a : Assembly} (h : a.cut = true) (l : Nat) (p : Piece) : Assembly.take s l a p = a := by
  simp [Assembly.take, h]

theorem Assembly.take_some {a : Assembly} (h : a.cut = false) {l : Nat} {p : Piece} {e : UttEntry} (hp : s.pieceEntry l p = some e) :
    Assembly.take s l a p = a.push e := by
  cases p with
  | silence ms => cases hp; simp [Assembly.take, h]
  | code c =>
    cases hf : s.findFragment l c with
    | none => simp [State.pieceEntry, hf] at hp
    | some f =>
      simp only [State.pieceEntry, hf, Option.map_some, Option.some.injEq] at hp
      simp [Assembly.take, h, hf, hp]

theorem Assembly.take_none {a : Assembly} (h : a.cut = false) {l : Nat} {p : Piece} (hp : s.pieceEntry l p = none) :
    Assembly.take s l a p = { a with skipped := true } := by
  cases p with
  | silence ms => cases hp
  | code c =>
    have hf : s.findFragment l c = none := by simpa [State.pieceEntry] using hp
    simp [Assembly.take, h, hf]

theorem Assembly.foldl_of_cut {a : Assembly} (h : a.cut = true) (l : Nat) (ps : List Piece) : ps.foldl (Assembly.take s l) a = a := by
  induction ps with
  | nil => rfl
  | cons p ps ih => rw [List.foldl_cons, Assembly.take_of_cut h, ih]

/-- What an assembly makes of the entries due: the first 48, cut when there are more, and skipping the absent codes (R110, R112). -/
theorem Assembly.foldl_take (l : Nat) (ps : List Piece) (a : Assembly) (hcut : a.cut = false) (hlen : a.entries.length ≤ 48) :
    let due := ps.map (s.pieceEntry l)
    let r := ps.foldl (Assembly.take s l) a
    r.entries = (a.entries ++ due.filterMap id).take 48 ∧
      ((r.skipped = true ∨ r.cut = true) ↔ a.skipped = true ∨ none ∈ due ∨ 48 < a.entries.length + (due.filterMap id).length) := by
  induction ps generalizing a with
  | nil =>
    refine ⟨?_, ?_⟩
    · simp [List.take_of_length_le hlen]
    · simp [hcut, Nat.not_lt.2 hlen]
  | cons p ps ih =>
    simp only [List.foldl_cons, List.map_cons]
    cases hp : s.pieceEntry l p with
    | none =>
      rw [Assembly.take_none hcut hp]
      obtain ⟨h1, h2⟩ := ih { a with skipped := true } hcut hlen
      refine ⟨h1, h2.trans ?_⟩
      simp
    | some e =>
      rw [Assembly.take_some hcut hp]
      by_cases hroom : a.entries.length < 48
      · have pushed : a.push e = { a with entries := a.entries ++ [e] } := if_pos hroom
        rw [pushed]
        obtain ⟨h1, h2⟩ := ih { a with entries := a.entries ++ [e] } hcut (by simp; omega)
        refine ⟨h1.trans (by simp), h2.trans ?_⟩
        simp only [List.length_append, List.length_cons, List.length_nil, List.mem_cons, List.filterMap_cons, id, reduceCtorEq,
          false_or]
        generalize (List.filterMap _ (ps.map (s.pieceEntry l))).length = n
        rw [show a.entries.length + (0 + 1) + n = a.entries.length + (n + 1) by omega]
      · have pushed : a.push e = { a with cut := true } := if_neg hroom
        rw [pushed, Assembly.foldl_of_cut rfl]
        have full : a.entries.length = 48 := by omega
        refine ⟨?_, ?_⟩
        · rw [List.take_append_of_le_length (by omega), List.take_of_length_le (by omega)]
        · simp only [List.filterMap_cons, id, List.length_cons, or_true, true_iff]
          exact .inr (.inr (by omega))

/-- The assembly of a list of items, by the entries its pieces make due. -/
theorem State.assembleItems_eq (s : State) (c : Context) (items : List PhraseItem) :
    let flags := s.languageFlags c.language
    let due := (items.flatMap (itemPieces flags.1 flags.2 c)).map (s.pieceEntry c.language)
    (s.assembleItems c items).entries = (due.filterMap id).take 48 ∧ ((s.assembleItems c items).isPartial = true ↔
      48 < (due.filterMap id).length ∨ none ∈ due ∨ due.filterMap id = []) := by
  intro flags due
  obtain ⟨h1, h2⟩ := Assembly.foldl_take (s := s) c.language (items.flatMap (itemPieces flags.1 flags.2 c))
    { entries := [], skipped := false, cut := false } rfl (by simp)
  refine ⟨h1, ?_⟩
  have empty : (s.assembleItems c items).entries = [] ↔ due.filterMap id = [] := by
    rw [State.assembleItems, h1]
    simp [due]
  have parts : (s.assembleItems c items).isPartial = true ↔
      ((s.assembleItems c items).skipped = true ∨ (s.assembleItems c items).cut = true) ∨ (s.assembleItems c items).entries = [] := by
    simp [Assembly.isPartial, List.isEmpty_iff]
  rw [parts, empty]
  refine (or_congr h2 Iff.rfl).trans ?_
  simp only [Bool.false_eq_true, false_or, List.length_nil, Nat.zero_add]
  tauto

/-! ### Numbers (R104, R105) -/

theorem numberCodes_eq (order join : Bool) (n : Nat) : numberCodes order join n =
    if n = 0 then [0]
    else (if 1000 ≤ n then [n / 1000, 29] else []) ++ (if 100 ≤ n % 1000 then [n % 1000 / 100, 28] else []) ++
      (if n % 100 ≠ 0 ∧ join = true ∧ 100 ≤ n then [30] else []) ++
      (if n % 100 = 0 then [] else if n % 100 < 20 then [n % 100]
        else if n % 10 = 0 then [18 + n % 100 / 10]
        else if order then [n % 10, 30, 18 + n % 100 / 10] else [18 + n % 100 / 10, n % 10]) := by
  have ten : n % 100 % 10 = n % 10 := by omega
  have thousand : (0 < n / 1000) = (1000 ≤ n) := by rw [eq_iff_iff]; omega
  have hundred : (0 < n % 1000 / 100) = (100 ≤ n % 1000) := by rw [eq_iff_iff]; omega
  have last : (0 < n % 100) = (n % 100 ≠ 0) := by rw [eq_iff_iff]; omega
  unfold numberCodes tensCodes
  simp only [ten, thousand, hundred, last]

theorem numberCodes_length (order join : Bool) (n : Nat) (h : n ≤ 9999) :
    1 ≤ (numberCodes order join n).length ∧ (numberCodes order join n).length ≤ 8 := by
  have tens (r : Nat) : (tensCodes order r).length ≤ 3 ∧ (r ≠ 0 → 1 ≤ (tensCodes order r).length) := by
    unfold tensCodes
    split_ifs <;> simp_all
  unfold numberCodes
  dsimp only
  by_cases h0 : n = 0
  · rw [if_pos h0]
    simp
  · rw [if_neg h0]
    obtain ⟨h3, h1⟩ := tens (n % 100)
    generalize tensCodes order (n % 100) = l at *
    simp only [List.length_append]
    split_ifs <;> simp only [List.length_cons, List.length_nil] <;> omega

/-! ### The lookup of a code (R86, R110) -/

theorem State.lookupFragment_eq (s : State) (l k : Nat) : (s.lookupFragment l k).map UttEntry.fragment =
    match s.store.state, s.store.catalog with
    | .ok, some cat => match (cat.languages[l]?).bind fun x => x.entries[k]? with
      | some e =>
        if e.count ≠ 0 ∧ e.start + e.count ≤ cat.sizeBytes then some (.fragment { e with scale := min e.scale 8 }) else none
      | none => none
    | _, _ => none := by
  unfold State.lookupFragment
  cases s.store.state <;> cases s.store.catalog <;> try rfl
  rename_i cat
  dsimp only
  cases cat.languages[l]? with
  | none => rfl
  | some lang =>
    dsimp only [Option.bind_some]
    cases lang.entries[k]? with
    | none => rfl
    | some e =>
      dsimp only
      by_cases h0 : e.count = 0 <;> by_cases h1 : e.start + e.count ≤ cat.sizeBytes <;> simp [liesInside, h0, h1]

/-- Settles O30. -/
theorem utteranceAssembled : Obligations.UtteranceAssembled := by
  refine ⟨fun s c items => ?_, numberCodes_length⟩
  intro flags number counted codes found entryOf due
  have hnumber (n : Nat) : number n = numberCodes flags.1 flags.2 n := (numberCodes_eq _ _ _).symm
  have hcounted (n w : Nat) : counted n w = numberCodes flags.1 flags.2 n ++ [unitWord w n] := by
    show number n ++ [if n = 1 then 32 + 2 * w else 33 + 2 * w] = _
    rw [hnumber]
    rfl
  have hentry (k : Nat) : entryOf k = (s.findFragment c.language k).map UttEntry.fragment := by
    have hfound (l j : Nat) : found l j = (s.lookupFragment l j).map UttEntry.fragment := (s.lookupFragment_eq l j).symm
    show (match found c.language k with
      | some e => some e
      | none => if c.language = 0 then none else found 0 k) = _
    rw [hfound, hfound]
    unfold State.findFragment
    cases s.lookupFragment c.language k with
    | some e => rfl
    | none => by_cases h : c.language = 0 <;> simp [h]
  have hdue : due = (items.flatMap (itemPieces flags.1 flags.2 c)).map (s.pieceEntry c.language) := by
    have piece (k : Nat) : s.pieceEntry c.language (.code k) = entryOf k := (hentry k).symm
    have spoken (i : PhraseItem) (hi : ∀ p, i ≠ .pause p) : itemPieces flags.1 flags.2 c i = (codes i).map Piece.code := by
      cases i with
      | fragment k => rfl
      | number n w =>
        cases w with
        | none =>
          show (numberCodes flags.1 flags.2 n ++ []).map Piece.code = (number n).map Piece.code
          rw [hnumber, List.append_nil]
        | some w =>
          show (numberCodes flags.1 flags.2 n ++ [unitWord w n]).map Piece.code = (counted n w).map Piece.code
          rw [hcounted]
      | pause p => exact absurd rfl (hi p)
      | field f =>
        refine congrArg (List.map Piece.code) ?_
        cases f with
        | remaining =>
          show remainingCodes flags.1 flags.2 c.remaining = if c.remaining < 60 then counted c.remaining 0
            else counted (c.remaining / 60) 1 ++ if c.remaining % 60 = 0 then [] else 30 :: counted (c.remaining % 60) 0
          simp only [hcounted, remainingCodes]
          by_cases h60 : c.remaining < 60
          · simp only [h60, if_true]
            rfl
          · by_cases h0 : c.remaining % 60 = 0
            · simp only [h60, h0, if_false, if_true, Nat.lt_irrefl]
              rfl
            · simp only [h60, h0, if_false, Nat.pos_of_ne_zero h0, if_true]
              rfl
        | temperature =>
          show temperatureCodes flags.1 flags.2 c.temperature = if c.temperature < 0 then 31 :: counted c.temperature.natAbs 2
            else counted c.temperature.natAbs 2
          simp only [hcounted, temperatureCodes]
          split <;> simp [unitDegree]
        | speed =>
          show numberCodes flags.1 flags.2 c.speed ++ [unitWord unitRevolution c.speed] = counted c.speed 3
          rw [hcounted]
          rfl
        | program => rfl
        | phase =>
          show [69 + phaseIndex c.phase] = [match c.phase with
            | .idle => 69
            | .fill => 70
            | .wash => 71
            | .rinse => 72
            | .spin => 73
            | .dry => 74
            | .cool => 75
            | .done => 76
            | .fault => 77]
          cases c.phase <;> rfl
    rw [List.map_flatMap]
    refine List.flatMap_congr fun i _ => ?_
    by_cases hi : ∃ p, i = .pause p
    · obtain ⟨p, rfl⟩ := hi
      rfl
    · have hi : ∀ p, i ≠ .pause p := fun p h => hi ⟨p, h⟩
      rw [spoken i hi, List.map_map, show s.pieceEntry c.language ∘ Piece.code = entryOf from funext piece]
      cases i with
      | pause p => exact absurd rfl (hi p)
      | _ => rfl
  rw [hdue]
  exact s.assembleItems_eq c items

end Sys2Proof.Machine
end

section
/-! SUPPORT. The start of a table cue with sound (R65, R66, R71, R72): what it is given, its record, its utterance and its pattern. -/

namespace Sys2Proof.Machine

variable {s t u : State} {m : Side} {i : Fin 24} {c : Cue}

/-! ### What a start gives, and the record (R66) -/

theorem State.given_eq (s : State) (r : CueRef) (v : Option (Fin 4)) (c : Cue) : s.given r v c = { s with
    sched := { s.sched with
      path := if s.needsPath c then { s.sched.path with holder := some r } else s.sched.path,
      voices := match v with
        | some v => s.sched.voices.set v { s.sched.voices[v] with holder := some r }
        | none => s.sched.voices } } := by
  unfold State.given
  cases v <;> dsimp only <;> split <;> rfl

/-- Without reservations of its own, a start takes resources and drops nothing. -/
theorem State.given_unreserved {r : CueRef} (h : s.Unreserved r) (v : Option (Fin 4)) (c : Cue) :
    (s.given r v c).dropReservations r = s.given r v c := by
  refine State.dropReservations_of_unreserved ⟨?_, fun w => ?_⟩
  · rw [State.given_eq]
    show (if s.needsPath c then { s.sched.path with holder := some r } else s.sched.path).reservation ≠ some r
    split <;> exact h.1
  · rw [(s.given_sched r v c).2.2 w]
    exact h.2 w

/-- The record of a started table cue, PARTIAL as its assembly is (R66 steps 3 to 5, R113). -/
def State.startRecord (s : State) (c : Cue) : Cue :=
  let c' := c.started (s.needsPath c) s.sched.nextStart s.now
  if s.needsPath c = true ∧ (s.assemble c).isPartial = true then c'.markPartial else c'

/-- The start of a table cue up to its first phase: `x` is the part once it is given its resources and its reservations are gone. -/
theorem State.startCue_slot {v : Option (Fin 4)} {P : Resource} {V : Vector Resource 4} (hc : s.sched.table[i] = some c)
    (ho : c.origin = .machine m) (hgive : (s.given (.slot i) v c).dropReservations (.slot i) =
      { s with sched := { s.sched with path := P, voices := V } }) :
    ∃ p : State, s.startCue (.slot i) v = p.beginFirstPhase (.slot i) (c.started (s.needsPath c) s.sched.nextStart s.now) ∧
      p = { s with
        sched := { s.sched.withStart i (s.startRecord c) m with path := P, voices := V },
        utt := if s.needsPath c then { entries := (s.assemble c).entries, owner := some (.slot i) } else s.utt,
        display := s.displayOfStart p } ∧
      p.RingChosen s.display.ringEffect := by
  have placed := s.placed_slot (i := i) v ho
  rw [hgive] at placed
  have start := State.startCue_eq (s := s) (r := .slot i) v hc
  rw [placed] at start
  have record : (if s.needsPath c = true then (({ s with sched := { s.sched with path := P, voices := V } } : State).onSched fun sc =>
        sc.withStart i (c.started (s.needsPath c) s.sched.nextStart s.now) m).assembleFor (.slot i) c
      else ({ s with sched := { s.sched with path := P, voices := V } } : State).onSched fun sc =>
        sc.withStart i (c.started (s.needsPath c) s.sched.nextStart s.now) m) = { s with
        sched := { s.sched.withStart i (s.startRecord c) m with path := P, voices := V },
        utt := if s.needsPath c then { entries := (s.assemble c).entries, owner := some (.slot i) } else s.utt } := by
    cases hn : s.needsPath c with
    | false =>
      simp only [State.startRecord, hn, Bool.false_eq_true, if_false, false_and]
      rfl
    | true =>
      have asm (x : Sched) : ({ s with sched := x } : State).assemble c = s.assemble c := by
        unfold State.assemble State.assemblyContext
        rfl
      simp only [if_true, State.assembleFor, State.startRecord, hn, State.onSched, asm, true_and]
      cases hp : (s.assemble c).isPartial with
      | false => rfl
      | true =>
        simp only [if_true, State.markTableCue, State.modCue, State.setCue, State.onSched, State.cue?, State.setUtt, Sched.setCue,
          Sched.cue?, Sched.withStart]
        simp only [Cue.markPartial, Vector.getElem_set_self, Option.map_some, Fin.getElem_fin, Vector.set_set]
        rfl
  rw [record] at start
  obtain ⟨eq, ring⟩ := State.startDisplay_eq ({ s with
        sched := { s.sched.withStart i (s.startRecord c) m with path := P, voices := V },
        utt := if s.needsPath c then { entries := (s.assemble c).entries, owner := some (.slot i) } else s.utt } : State)
  exact ⟨_, start, eq, ring⟩

/-! ### Voices (R59, R65) -/

theorem State.voiceOf_eq_none {r : CueRef} : s.voiceOf r = none ↔ ∀ v : Fin 4, (s.sched.voices[v]).holder ≠ some r := by
  have all (v : Fin 4) : v ∈ allVoices := by revert v; decide
  simp only [State.voiceOf, List.find?_eq_none, decide_eq_true_eq]
  exact ⟨fun h v => h v (all v), fun h v _ => h v⟩

/-- A cue that holds no other voice is heard on the one it is given. -/
theorem State.voiceOf_of_only {r : CueRef} {v : Fin 4} (hv : (s.sched.voices[v]).holder = some r)
    (h : ∀ w : Fin 4, w ≠ v → (s.sched.voices[w]).holder ≠ some r) : s.voiceOf r = some v := by
  rw [State.voiceOf, find_allVoices]
  exact ⟨by simpa using hv, fun w hw => by simpa using h w (ne_of_lt hw)⟩

/-- Of voices 1 to 3, the first that meets a test. -/
theorem find_tableVoices {p : Fin 4 → Bool} {v : Fin 4} (hv : v ≠ 0) (hp : p v = true) (hlow : ∀ w : Fin 4, w ≠ 0 → w < v → p w = false) :
    tableVoices.find? p = some v := by
  unfold tableVoices
  match v, hv, hp, hlow with
  | 0, hv, _, _ => exact absurd rfl hv
  | 1, _, hp, _ => simp [hp]
  | 2, _, hp, hlow => simp [hp, hlow 1 (by decide) (by decide)]
  | 3, _, hp, hlow => simp [hp, hlow 1 (by decide) (by decide), hlow 2 (by decide) (by decide)]

theorem Resource.free_iff (x : Resource) : (x.holder.isNone && x.reservation.isNone) = true ↔ x = ⟨none, none⟩ := by
  obtain ⟨h, r⟩ := x
  cases h <;> cases r <;> simp

theorem State.noReservedVoice {r : CueRef} (h : s.Unreserved r) :
    (tableVoices.find? fun v => (s.sched.voices[v]).holder.isNone && (s.sched.voices[v]).reservedFor r) = none := by
  rw [List.find?_eq_none]
  exact fun v _ => by simp only [Resource.reservedFor, h.2 v, decide_false, Bool.and_false, Bool.false_eq_true, not_false_eq_true]

/-- Without reservations of its own, a cue is offered the lowest free and unreserved voice (R65 step 1). -/
theorem State.availableVoice_lowest {r : CueRef} {v : Fin 4} (h : s.Unreserved r) (hv : v ≠ 0) (hfree : s.sched.voices[v] = ⟨none, none⟩)
    (hlow : ∀ w : Fin 4, w ≠ 0 → w < v → s.sched.voices[w] ≠ ⟨none, none⟩) : s.availableVoice r = some v := by
  unfold State.availableVoice
  rw [s.noReservedVoice h]
  refine find_tableVoices hv ((Resource.free_iff _).2 hfree) fun w hw hlt => ?_
  rw [← Bool.not_eq_true]
  exact mt (Resource.free_iff _).1 (hlow w hw hlt)

theorem State.judgeVoice_available {r : CueRef} {v : Fin 4} (ht : c.tone ≠ none) (h : s.availableVoice r = some v) :
    s.judgeVoice r c = .available (some v) := by
  simp [State.judgeVoice, Cue.needsVoice, ht, h]

theorem State.needsPath_iff : s.needsPath c = true ↔ c.speech ≠ none ∧ s.store.state = .ok := by
  simp [State.needsPath, Option.isSome_iff_ne_none]

theorem State.judgePath_available {r : CueRef} (hn : s.needsPath c = true) (hh : s.sched.path.holder = none)
    (hr : s.sched.path.reservation = none ∨ s.sched.path.reservation = some r) : s.judgePath r c = .available none := by
  simp [State.judgePath, hn, hh, hr]

/-! ### The sound of the first phase (R71, R72, R118, R124, R136) -/

/-- A fragment of an assembled list holds bytes (R86). -/
theorem State.assembleItems_count {x : Context} {items : List PhraseItem} {f : FragEntry}
    (h : UttEntry.fragment f ∈ (s.assembleItems x items).entries) : f.count ≠ 0 := by
  rw [(s.assembleItems_eq x items).1] at h
  have hmem := List.mem_of_mem_take h
  rw [List.mem_filterMap] at hmem
  obtain ⟨e, he, hid⟩ := hmem
  obtain ⟨p, -, hp⟩ := List.mem_map.1 he
  rw [show e = _ from hid] at hp
  have lookup (l k : Nat) (hk : s.lookupFragment l k = some f) : f.count ≠ 0 := by
    unfold State.lookupFragment at hk
    repeat' split at hk
    all_goals first
      | (rename_i hne
         cases hk
         exact fun h0 => hne (.inl h0))
      | cases hk
  cases p with
  | silence ms => cases hp
  | code k =>
    simp only [State.pieceEntry, Option.map_eq_some_iff, UttEntry.fragment.injEq] at hp
    obtain ⟨g, hg, rfl⟩ := hp
    unfold State.findFragment at hg
    split at hg
    · cases hg
      rename_i hk
      exact lookup _ _ hk
    · split at hg
      · cases hg
      · exact lookup _ _ hg

/-- Channel S has a list's first fragment to fetch, and the Stream is PRIMING (R118, R124). -/
def State.streaming (s : State) (f : FragEntry) (es : List UttEntry) : State :=
  { s with
    store := { s.store with chanS := { active := true, index := 2, address := f.start, count := f.count } },
    stream := { idleStream with state := .priming, threshold := min (utteranceData es) 256 } }

/-- A voice has begun a pattern (R136). -/
def State.withPattern (s : State) (v : Fin 4) (q : Fin 32) (p : Pattern) : State :=
  { s with tone := { s.tone with voices := s.tone.voices.set v (voiceAt q p) } }

theorem State.startSpeech_fragment {f : FragEntry} {rest : List UttEntry} (hu : s.utt.entries = .fragment f :: rest)
    (hc : f.count ≠ 0) (hst : s.stream = idleStream) : s.startSpeech = s.streaming f (.fragment f :: rest) := by
  have pos : 0 < min (utteranceData (.fragment f :: rest)) 256 := by
    simp only [utteranceData, List.map_cons, List.sum_cons]
    omega
  have stream : s.stream.start s.utt.entries =
      { idleStream with state := .priming, threshold := min (utteranceData (.fragment f :: rest)) 256 } := by
    rw [hu, hst]
    unfold Stream.start Stream.prime
    simp only [idleStream, List.length_nil, Nat.not_le.2 pos, if_false]
  unfold State.startSpeech State.streaming
  simp only [State.onStore, State.onStream]
  rw [stream, hu]
  simp [ChannelS.load, firstFragment]

theorem beginVoice_eq (q : Fin 32) (p : Pattern) : beginVoice q p = voiceAt q p := by
  unfold beginVoice voiceAt stepCounts
  cases p.steps <;> rfl

theorem State.beginPattern_eq {v : Fin 4} {q : Fin 32} {p : Pattern} (h : s.tone.patterns[q] = some p) :
    s.beginPattern v q = s.withPattern v q p := by
  unfold State.beginPattern
  rw [h]
  simp only [State.onVoice, State.onTone, State.withPattern, beginVoice_eq]

theorem State.beginTone_eq {r : CueRef} {v : Fin 4} {part : TonePart} {p : Pattern} (hc : s.cue? r = some c) (hv : s.voiceOf r = some v)
    (ht : c.tone = some part) (hp : s.tone.patterns[part.pattern] = some p) : s.beginTone r = s.withPattern v part.pattern p := by
  unfold State.beginTone
  simp only [hc, hv, ht]
  exact State.beginPattern_eq hp

theorem State.beginTone_slot {v : Fin 4} {part : TonePart} {p : Pattern} (hc : s.sched.table[i] = some c) (hv : s.voiceOf (.slot i) = some v)
    (ht : c.tone = some part) (hp : s.tone.patterns[part.pattern] = some p) : s.beginTone (.slot i) = s.withPattern v part.pattern p :=
  State.beginTone_eq (r := .slot i) hc hv ht hp

theorem State.beginUtterance_fragment {r : CueRef} {f : FragEntry} {rest : List UttEntry} (hu : s.utt.entries = .fragment f :: rest)
    (hc : f.count ≠ 0) (hst : s.stream = idleStream) : s.beginUtterance r = s.streaming f (.fragment f :: rest) := by
  rw [State.beginUtterance, hu]
  simp only [List.isEmpty_cons, Bool.false_eq_true, if_false]
  exact State.startSpeech_fragment hu hc hst

/-- An IDLE port is given to channel S as an utterance starts, unless a check can begin (R116). -/
theorem State.ports_streams {f : FragEntry} {es : List UttEntry} (hcheck : s.checkCanBegin = false) (hcount : f.count ≠ 0) :
    (s.streaming f es).ports = { s.streaming f es with
      store := { (s.streaming f es).store with port := if s.store.port = .idle then .s else s.store.port } } := by
  have no : (s.streaming f es).checkCanBegin = false := hcheck
  have wants : (s.streaming f es).eligibleS = true := by
    simp [State.eligibleS, ChannelS.dataLeft, State.streaming, idleStream, Nat.pos_of_ne_zero hcount]
  rw [State.ports, State.grantRace_of_not _ no, State.tryBeginCheck_of_not _ no, State.portDecide]
  cases hp : (s.streaming f es).store.port <;> simp only [wants, if_true] <;>
    simp only [State.streaming] at hp <;> simp only [hp, if_true, reduceCtorEq, if_false] <;> first | rfl | (rw [← hp]; rfl)

theorem State.ports_streaming {f : FragEntry} {es : List UttEntry} (hcheck : s.store.check = .idle) (hcount : f.count ≠ 0) :
    (s.streaming f es).ports = { s.streaming f es with
      store := { (s.streaming f es).store with port := if s.store.port = .idle then .s else s.store.port } } :=
  State.ports_streams (by simp [State.checkCanBegin, hcheck]) hcount

/-! ### The records and the first phases by the parts of a cue (R71, R72) -/

/-- The record of a cue that starts with sound (R66): its phase, and whether its speech plays. -/
def Cue.soundingAs (c : Cue) (plays : Bool) (phase : CuePhase) (serial : Nat) : Cue :=
  { c with state := .playing, phase := some phase, latestStart := serial, speechPlays := plays, utteranceEnded := false,
           patternEnded := false, gapTimer := none, fade := none, endCause := none, holdTimer := none }

theorem Cue.started_speaking (h : c.tone = none) (n now : Nat) : c.started true n now = c.soundingAs true .main n := by
  simp [Cue.started, Cue.soundingAs, Cue.firstPhase, Cue.timing?, h]

theorem Cue.started_toned (hs : c.speech = none) {part : TonePart} (ht : c.tone = some part) (n now : Nat) :
    c.started false n now = c.soundingAs false .main n := by
  simp [Cue.started, Cue.soundingAs, Cue.firstPhase, Cue.timing?, hs, ht]

theorem Cue.started_twoPart {part : TonePart} (ht : c.tone = some part) (n now : Nat) :
    c.started true n now = c.soundingAs true (if part.timing = .before then .lead else .main) n := by
  cases hb : part.timing <;> simp [Cue.started, Cue.soundingAs, Cue.firstPhase, Cue.timing?, ht, hb]

/-- Speech alone: the utterance begins. -/
theorem State.beginFirstPhase_speaking {r : CueRef} {n : Nat} (h : c.tone = none) :
    s.beginFirstPhase r (c.soundingAs true .main n) = s.beginUtterance r := by
  simp [State.beginFirstPhase, Cue.soundingAs, Cue.timing?, Cue.firstPhase, h]

/-- Tone alone: the pattern begins, whatever the timing. -/
theorem State.beginFirstPhase_toned {r : CueRef} {n : Nat} {part : TonePart} (h : c.tone = some part) :
    s.beginFirstPhase r (c.soundingAs false .main n) = s.beginTone r := by
  simp [State.beginFirstPhase, Cue.soundingAs, Cue.timing?, h]

/-- Both parts: the pattern alone BEFORE, both WITH, the utterance alone AFTER. -/
theorem State.beginFirstPhase_twoPart {r : CueRef} {n : Nat} {part : TonePart} (h : c.tone = some part) :
    s.beginFirstPhase r (c.soundingAs true (if part.timing = .before then .lead else .main) n) =
      match part.timing with
      | .before => s.beginTone r
      | .together => (s.beginTone r).beginUtterance r
      | .after => s.beginUtterance r := by
  cases hb : part.timing <;> simp [State.beginFirstPhase, Cue.soundingAs, Cue.timing?, Cue.firstPhase, h, hb]

/-! ### A candidate's turn among no others -/

/-- With nothing else to serve, the arbitration that a candidate sets off comes to its turn. -/
theorem State.WithSlot.settles (h : s.WithSlot t i c) (hs : s.NothingToServe) (hdue : t.sched.arbDue = false)
    (hc : t.isCandidate c = true) (he : c.cls ≠ .echo) (ho : c.origin = .machine m) (hserve : t.serve (.slot i) = u)
    (hu : u.sched.arbDue = false) (hf : u.sched.feedback.pending = none) : t.setArb.settleArb = u := by
  refine State.settleArb_one (r := .slot i) rfl ?_ ?_ hu hf
  · exact h.candidates hs hc he ho
  · rw [State.setArb_clearArb hdue, hserve]

theorem State.isCandidate_of_idle (hw : c.state = .waiting) (h : s.store.check = .idle ∨ s.needsPath c = false) :
    s.isCandidate c = true := by
  rcases h with h | h <;> simp [State.isCandidate, State.checkActive, hw, h]

theorem State.serve_available {r : CueRef} (hc : s.candidate? r = some c) (hw : c.state = .waiting) {v : Option (Fin 4)}
    (hp : s.judgePath r c = .notNeeded ∨ s.judgePath r c = .available none)
    (hv : (s.judgeVoice r c = .notNeeded ∧ v = none) ∨ s.judgeVoice r c = .available v) : s.serve r = s.startCue r v := by
  have voice : (s.judgeVoice r c).voice? = v := by
    rcases hv with ⟨h, rfl⟩ | h <;> rw [h] <;> rfl
  rw [State.serve_starts hc hw ?_ ?_, voice]
  · rcases hp with h | h <;> rw [h] <;> exact ⟨rfl, rfl⟩
  · rcases hv with ⟨h, -⟩ | h <;> rw [h] <;> exact ⟨rfl, rfl⟩

theorem State.posted_needsPath (s : State) (m : Side) (i : Fin 24) (c x : Cue) : (s.posted m i x).needsPath c = s.needsPath c := rfl

theorem State.posted_assemble (s : State) (m : Side) (i : Fin 24) (c x : Cue) : (s.posted m i x).assemble c = s.assemble c := by
  unfold State.assemble State.assemblyContext
  rfl

/-- The record of a cue that starts with sound, PARTIAL as its assembly is (R66, R113). -/
theorem State.startRecord_sounding {plays : Bool} {phase : CuePhase} (hn : s.needsPath c = plays)
    (h : c.started plays s.sched.nextStart s.now = c.soundingAs plays phase s.sched.nextStart) :
    s.startRecord c = { c.soundingAs plays phase s.sched.nextStart with
      flags := { c.flags with isPartial := c.flags.isPartial || (plays && (s.assemble c).isPartial) } } := by
  unfold State.startRecord
  rw [hn, h]
  cases plays <;> cases (s.assemble c).isPartial <;> simp [Cue.markPartial, Cue.soundingAs]

/-- CUE_POST of a cue that is the only candidate comes to its turn (R40, R61, R63). -/
theorem exec_cuePost_serves (h : s.ServesRequest m) {note : Bool} {p : List Byte} {r : CuePostReq} {tone : Option TonePart} {i : Fin 24}
    (hl : lenAllowed .cuePost p = true) (hr : parseCuePost p = some r)
    (hparts : r.speech ≠ none ∨ r.tone ≠ none ∨ r.scene ≠ none ∨ r.lamp ≠ none) (hpost : s.PostsInto m r.id i)
    (hscene : r.scene = none) (htone : r.tone = tone.map (fun t => (t.pattern.val, t.timing)))
    (hpattern : ∀ t, tone = some t → (s.tone.patterns[t.pattern]).isSome = true ∧
      (t.pattern.val < 8 ∨ (m = .w ∧ t.pattern.val < 20) ∨ (m = .d ∧ 20 ≤ t.pattern.val)))
    (hnone : s.NothingToServe) (hbar : s.store.check = .idle ∨ s.needsPath (s.newCue m r tone none) = false)
    (hserve : (s.posted m i (s.newCue m r tone none)).serve (.slot i) = u) (hdue : u.sched.arbDue = s.sched.arbDue)
    (hidle : u.sched.feedback.pending = s.sched.feedback.pending) (hlinks : u.links = s.links) :
    exec (.cuePost m note p) s = .next (u.ports.done m .cuePost note) :=
  exec_cuePost_arb h hl hr hparts hpost (scene := none) hscene htone hpattern
    ((s.posted_withSlot m i (s.newCue m r tone none)).settles hnone h.atRest.2.1 (State.isCandidate_of_idle rfl hbar)
      (parseCuePost_cls hr) rfl hserve (hdue.trans h.atRest.2.1) (hidle.trans hnone.2)) hlinks

/-- CUE_POST of a cue that is served at once and starts: `x` is the part with the cue PLAYING, its list assembled, and `begins` what its
first phase does (R62, R65, R66, R71, R72). -/
theorem exec_cuePost_starts (h : s.ServesRequest m) {note : Bool} {p : List Byte} {r : CuePostReq} {tone : Option TonePart} {i : Fin 24}
    (hl : lenAllowed .cuePost p = true) (hr : parseCuePost p = some r)
    (hparts : r.speech ≠ none ∨ r.tone ≠ none ∨ r.scene ≠ none ∨ r.lamp ≠ none) (hpost : s.PostsInto m r.id i)
    (hscene : r.scene = none) (htone : r.tone = tone.map (fun t => (t.pattern.val, t.timing)))
    (hpattern : ∀ t, tone = some t → (s.tone.patterns[t.pattern]).isSome = true ∧
      (t.pattern.val < 8 ∨ (m = .w ∧ t.pattern.val < 20) ∨ (m = .d ∧ 20 ≤ t.pattern.val)))
    (hnone : s.NothingToServe) (hbar : s.store.check = .idle ∨ s.needsPath (s.newCue m r tone none) = false)
    {v : Option (Fin 4)} {P : Resource} {V : Vector Resource 4}
    (hserve : (s.posted m i (s.newCue m r tone none)).serve (.slot i) = (s.posted m i (s.newCue m r tone none)).startCue (.slot i) v)
    (hgive : ((s.posted m i (s.newCue m r tone none)).given (.slot i) v (s.newCue m r tone none)).dropReservations (.slot i) =
      { s.posted m i (s.newCue m r tone none) with
        sched := { (s.posted m i (s.newCue m r tone none)).sched with path := P, voices := V } })
    {begins : State → State} (hkeep : ∀ x, (begins x).sched = x.sched ∧ (begins x).links = x.links)
    (hbegins : ∀ x : State, x.sched.table[i] = some (s.startRecord (s.newCue m r tone none)) → x.sched.voices = V →
      x.utt = (if s.needsPath (s.newCue m r tone none) then
        { entries := (s.assemble (s.newCue m r tone none)).entries, owner := some (.slot i) } else s.utt) →
      x.stream = s.stream → x.tone = s.tone →
      x.beginFirstPhase (.slot i) ((s.newCue m r tone none).started (s.needsPath (s.newCue m r tone none)) s.sched.nextStart s.now) =
        begins x) :
    ∃ x : State, exec (.cuePost m note p) s = .next ((begins x).ports.done m .cuePost note) ∧
      x = { s with
        sched := { (s.sched.posted m).withStart i (s.startRecord (s.newCue m r tone none)) m with path := P, voices := V },
        utt := if s.needsPath (s.newCue m r tone none) then
          { entries := (s.assemble (s.newCue m r tone none)).entries, owner := some (.slot i) } else s.utt,
        display := s.displayOfStart x } ∧
      x.RingChosen s.display.ringEffect := by
  have with_slot := s.posted_withSlot m i (s.newCue m r tone none)
  obtain ⟨x, start, eq, ring⟩ := State.startCue_slot with_slot.slot rfl hgive
  have record : (s.posted m i (s.newCue m r tone none)).startRecord (s.newCue m r tone none) = s.startRecord (s.newCue m r tone none) := by
    unfold State.startRecord
    rw [s.posted_assemble]
    rfl
  have eq : x = { s with
        sched := { (s.sched.posted m).withStart i (s.startRecord (s.newCue m r tone none)) m with path := P, voices := V },
        utt := if s.needsPath (s.newCue m r tone none) then
          { entries := (s.assemble (s.newCue m r tone none)).entries, owner := some (.slot i) } else s.utt,
        display := s.displayOfStart x } := by
    refine eq.trans ?_
    rw [record, s.posted_assemble, s.posted_needsPath]
    simp only [State.posted, State.onSched, Sched.withStart, Sched.posted, Vector.set_set]
    rfl
  have table : x.sched.table[i] = some (s.startRecord (s.newCue m r tone none)) := by
    rw [eq]
    simp only [Sched.withStart, Vector.getElem_set_fin, if_pos]
  have first := hbegins x table (by rw [eq]) (by rw [eq]) (by rw [eq]) (by rw [eq])
  refine ⟨x, ?_, eq, ring⟩
  refine exec_cuePost_serves h hl hr hparts hpost hscene htone hpattern hnone hbar (hserve.trans (start.trans first)) ?_ ?_ ?_
  · rw [(hkeep x).1, eq]
    rfl
  · rw [(hkeep x).1, eq]
    rfl
  · rw [(hkeep x).2, eq]

/-- Settles O31. -/
theorem speakingCueStarts : Obligations.SpeakingCueStarts := by
  intro s m note p r items i f rest h hl hr hsp htn hsc hlp hid hquota hfree hlow hmark hnone hst hck hpath hvoices hstream hlist
  have hcount : f.count ≠ 0 := State.assembleItems_count (s := s) (x := s.context m) (items := items) (by rw [hlist]; simp)
  have htone : r.tone = (none : Option TonePart).map fun t => (t.pattern.val, t.timing) := htn
  have hunres : (s.posted m i (s.newCue m r none none)).Unreserved (.slot i) := ⟨by
    show s.sched.path.reservation ≠ _
    rw [hpath]
    simp, hvoices⟩
  have need : s.needsPath (s.newCue m r none none) = true := State.needsPath_iff.2 ⟨by simp [State.newCue, hsp], hst⟩
  have asm : s.assemble (s.newCue m r none none) = s.assembleItems (s.context m) items := by
    simp only [State.assemble, State.assemblyContext, State.newCue, hsp, Option.getD_some]
  have give : ((s.posted m i (s.newCue m r none none)).given (.slot i) none (s.newCue m r none none)).dropReservations (.slot i) =
      { s.posted m i (s.newCue m r none none) with sched := { (s.posted m i (s.newCue m r none none)).sched with
        path := ⟨some (.slot i), none⟩, voices := s.sched.voices } } := by
    rw [State.given_unreserved hunres, State.given_eq, s.posted_needsPath, need, if_pos rfl]
    simp only [State.posted, State.onSched, Sched.posted, hpath]
  obtain ⟨x, exec_eq, eq, ring⟩ := exec_cuePost_starts h (note := note) hl hr (by simp [hsp]) ⟨hid, hquota, hfree, hlow, hmark⟩ hsc htone
    (fun t ht => by cases ht) hnone (.inl hck) (State.serve_available (c := s.newCue m r none none) (v := none)
      (by simp [State.candidate?, State.posted, State.onSched]) rfl
      (.inr (State.judgePath_available need (congrArg (·.holder) hpath) (.inl (congrArg (·.reservation) hpath))))
      (.inl ⟨State.judgeVoice_of_no_tone rfl, rfl⟩)) give (begins := fun x => x.streaming f (.fragment f :: rest)) (fun x => ⟨rfl, rfl⟩)
    fun x _ _ hutt hst _ => by
      rw [need, Cue.started_speaking rfl, State.beginFirstPhase_speaking rfl]
      exact State.beginUtterance_fragment (by rw [hutt, need, if_pos rfl, asm, hlist]) hcount (hst.trans hstream)
  rw [State.ports_streaming (by rw [eq]; exact hck) hcount] at exec_eq
  refine ⟨_, exec_eq, ?_, ring⟩
  rw [State.startRecord_sounding need (Cue.started_speaking rfl _ _), need, if_pos rfl, asm, hlist] at eq
  simp only [State.newCue, hsp, hlp, Cue.soundingAs, Bool.false_or, Bool.true_and] at eq
  rw [eq]
  rfl

/-- What a cue with a tone part is given on a voice of its own, reserving nothing (R65, R66). -/
theorem State.posted_given_voice {x : Cue} (hu : s.Unreserved (.slot i)) {v : Fin 4} (hv : s.sched.voices[v] = ⟨none, none⟩) :
    ((s.posted m i x).given (.slot i) (some v) c).dropReservations (.slot i) = { s.posted m i x with
      sched := { (s.posted m i x).sched with
        path := if s.needsPath c then { s.sched.path with holder := some (.slot i) } else s.sched.path,
        voices := s.sched.voices.set v ⟨some (.slot i), none⟩ } } := by
  rw [State.given_unreserved (s := s.posted m i x) hu, State.given_eq, s.posted_needsPath]
  simp only [State.posted, State.onSched, Sched.posted, hv]

/-- A cue just given the voice `v`, holding no other, is heard on it. -/
theorem State.voiceOf_given {r : CueRef} {v : Fin 4} (ht : t.sched.voices = s.sched.voices.set v ⟨some r, none⟩) (hs : s.voiceOf r = none) :
    t.voiceOf r = some v := by
  refine State.voiceOf_of_only ?_ fun w hw => ?_
  · simp [ht]
  · rw [ht, Vector.getElem_set_fin, if_neg hw]
    exact State.voiceOf_eq_none.1 hs w

/-- Settles O32. -/
theorem toneCueStarts : Obligations.ToneCueStarts := by
  intro s m note p r q timing pat i v h hl hr hsp htn hsc hlp hpat hrange hpost hnone hunres hvoice hv hfree hlow
  have htone : r.tone = (some ⟨q, timing⟩ : Option TonePart).map fun t => (t.pattern.val, t.timing) := htn
  have silent : (s.newCue m r (some ⟨q, timing⟩) none).speech = none := hsp
  have need : s.needsPath (s.newCue m r (some ⟨q, timing⟩) none) = false := by simp [State.needsPath, silent]
  have give := s.posted_given_voice (m := m) (x := s.newCue m r (some ⟨q, timing⟩) none) (c := s.newCue m r (some ⟨q, timing⟩) none)
    hunres hfree
  simp only [need, Bool.false_eq_true, if_false] at give
  obtain ⟨x, exec_eq, eq, ring⟩ := exec_cuePost_starts h (note := note) hl hr (by simp [htn]) hpost hsc htone
    (fun t ht => by cases ht; exact ⟨by simp [hpat], hrange⟩) hnone (.inr need)
    (State.serve_available (c := s.newCue m r (some ⟨q, timing⟩) none) (v := some v)
      (by simp [State.candidate?, State.posted, State.onSched]) rfl (.inl (State.judgePath_of_no_need need))
      (.inr (State.judgeVoice_available nofun (State.availableVoice_lowest (s := s.posted m i _) hunres hv hfree hlow)))) give
    (begins := fun x => x.withPattern v q pat) (fun x => ⟨rfl, rfl⟩) fun x hx hxv _ _ hxt => by
      rw [need, Cue.started_toned silent rfl, State.beginFirstPhase_toned rfl]
      rw [State.startRecord_sounding need (Cue.started_toned silent rfl _ _)] at hx
      exact State.beginTone_slot (part := ⟨q, timing⟩) hx (State.voiceOf_given (s := s) hxv hvoice) rfl (hxt ▸ hpat)
  have settled : (x.withPattern v q pat).ports = x.withPattern v q pat :=
    State.ports_of_rest (by rw [eq]; exact h.atRest.2.2.1) (by rw [eq]; exact h.atRest.2.2.2.1)
  rw [settled] at exec_eq
  refine ⟨_, exec_eq, ?_⟩
  rw [State.startRecord_sounding need (Cue.started_toned silent rfl _ _), need] at eq
  simp only [State.newCue, Cue.soundingAs, Bool.false_or, Bool.false_and, Bool.false_eq_true, if_false] at eq
  rw [eq]
  rfl

/-- Settles O33, by the timing: each begins its own sound. -/
theorem twoPartCueStarts : Obligations.TwoPartCueStarts := by
  intro s m note p r items q timing pat i v f rest h hl hr hsp htn hsc hlp hpat hrange hpost hnone hunres hvoice hst hck hpath hv hfree
    hlow hstream hlist
  have hcount : f.count ≠ 0 := State.assembleItems_count (s := s) (x := s.context m) (items := items) (by rw [hlist]; simp)
  have htone : r.tone = (some ⟨q, timing⟩ : Option TonePart).map fun t => (t.pattern.val, t.timing) := htn
  have need : s.needsPath (s.newCue m r (some ⟨q, timing⟩) none) = true := State.needsPath_iff.2 ⟨by simp [State.newCue, hsp], hst⟩
  have asm : s.assemble (s.newCue m r (some ⟨q, timing⟩) none) = s.assembleItems (s.context m) items := by
    simp only [State.assemble, State.assemblyContext, State.newCue, hsp, Option.getD_some]
  have give := s.posted_given_voice (m := m) (x := s.newCue m r (some ⟨q, timing⟩) none) (c := s.newCue m r (some ⟨q, timing⟩) none)
    hunres hfree
  simp only [need, if_true, hpath] at give
  obtain ⟨x, exec_eq, eq, ring⟩ := exec_cuePost_starts h (note := note) hl hr (by simp [htn]) hpost hsc htone
    (fun t ht => by cases ht; exact ⟨by simp [hpat], hrange⟩) hnone (.inl hck)
    (State.serve_available (c := s.newCue m r (some ⟨q, timing⟩) none) (v := some v)
      (by simp [State.candidate?, State.posted, State.onSched]) rfl
      (.inr (State.judgePath_available need (congrArg (·.holder) hpath) (.inl (congrArg (·.reservation) hpath))))
      (.inr (State.judgeVoice_available nofun (State.availableVoice_lowest (s := s.posted m i _) hunres hv hfree hlow)))) give
    (begins := fun x => match timing with
      | .before => x.withPattern v q pat
      | .together => (x.withPattern v q pat).streaming f (.fragment f :: rest)
      | .after => x.streaming f (.fragment f :: rest)) (fun x => by cases timing <;> exact ⟨rfl, rfl⟩) fun x hx hxv hutt hxs hxt => by
      rw [need, Cue.started_twoPart rfl, State.beginFirstPhase_twoPart rfl]
      rw [State.startRecord_sounding need (Cue.started_twoPart rfl _ _)] at hx
      rw [need, if_pos rfl, asm, hlist] at hutt
      have tone : x.beginTone (.slot i) = x.withPattern v q pat :=
        State.beginTone_slot (part := ⟨q, timing⟩) hx (State.voiceOf_given (s := s) hxv hvoice) rfl (hxt ▸ hpat)
      have speech : x.beginUtterance (.slot i) = x.streaming f (.fragment f :: rest) :=
        State.beginUtterance_fragment (by rw [hutt]) hcount (hxs.trans hstream)
      cases timing with
      | before => exact tone
      | together =>
        show (x.beginTone (.slot i)).beginUtterance (.slot i) = _
        rw [tone]
        exact State.beginUtterance_fragment (s := x.withPattern v q pat) (congrArg (·.entries) hutt) hcount (hxs.trans hstream)
      | after => exact speech
  have record := State.startRecord_sounding need (Cue.started_twoPart (c := s.newCue m r (some ⟨q, timing⟩) none) rfl _ _)
  rw [record, need, if_pos rfl, asm, hlist] at eq
  simp only [State.newCue, Cue.soundingAs, Bool.false_or, Bool.true_and] at eq
  have check : x.store.check = .idle := by rw [eq]; exact hck
  cases timing with
  | before =>
    have settled : (x.withPattern v q pat).ports = x.withPattern v q pat :=
      State.ports_of_rest (by simp [State.checkCanBegin, State.withPattern, check]) (by rw [eq]; exact h.atRest.2.2.2.1)
    refine ⟨_, exec_eq, ?_⟩
    dsimp only
    rw [settled, eq]
    simp only [State.newCue, hstream]
    rfl
  | together =>
    refine ⟨_, exec_eq, ?_⟩
    dsimp only
    rw [State.ports_streaming (by exact check) hcount, eq]
    rfl
  | after =>
    refine ⟨_, exec_eq, ?_⟩
    dsimp only
    rw [State.ports_streaming check hcount, eq]
    rfl

end Sys2Proof.Machine
end

section
/-! SUPPORT. Preemption (R64, R65, R67, R68): the victims, what is reserved, and the wait of a cue that outranks nobody. -/

namespace Sys2Proof.Machine

variable {s t u : State} {m : Side} {i : Fin 24} {c : Cue}

/-! ### A victim (R68) -/

/-- A preempted table cue: its count raised, its fade begun, DISPLACED if it is a CHIME or a PROMPT preempted for the third time (R68). -/
def Cue.cutAt (x : Cue) (now : Nat) : Cue :=
  { x with preempts := x.preempts + 1 }.fadingAs
    (if x.cls = CueClass.chime ∨ (x.cls = CueClass.prompt ∧ 3 ≤ x.preempts + 1) then .displaced else .preempted) now

theorem victimCause_eq (c : Cue) : victimCause c =
    if c.cls = CueClass.chime ∨ (c.cls = CueClass.prompt ∧ 3 ≤ c.preempts) then .displaced else .preempted := by
  unfold victimCause
  cases c.cls <;> simp

theorem State.preemptVictim_slot {j : Fin 24} {x : Cue} (hx : s.sched.table[j] = some x) : let t := s.preemptVictim (.slot j)
    t = { s with sched := { s.sched with table := s.sched.table.set j (some (x.cutAt s.now)) }, display := s.displayOfEnd t } := by
  have record : s.preemptVictim (.slot j) =
      (s.setCue (.slot j) (some { x with preempts := x.preempts + 1 })).enterEnding (.slot j)
        (victimCause { x with preempts := x.preempts + 1 }) := by
    have hcue : s.cue? (.slot j) = some x := hx
    rw [State.preemptVictim, hcue]
  have at_slot : (s.setCue (.slot j) (some { x with preempts := x.preempts + 1 })).sched.table[j] =
      some { x with preempts := x.preempts + 1 } := by
    simp [State.setCue, State.onSched, Sched.setCue]
  rw [record]
  refine (State.enterEnding_eq at_slot _).1.trans ?_
  rw [victimCause_eq]
  simp only [State.setCue, State.onSched, Sched.setCue, Vector.set_set]
  rfl

theorem State.preemptVictim_narration {x : Cue} (hx : s.sched.narration.current = some x) (hcls : x.cls = .echo) :
    let t := s.preemptVictim .narration
    t = { s with
      sched := { s.sched with narration := { s.sched.narration with current := some (x.fadingAs .preempted s.now) } },
      display := s.displayOfEnd t } := by
  have hcue : s.cue? .narration = some x := hx
  have record : s.preemptVictim .narration =
      (s.setCue .narration (some (x.fadingAs .preempted s.now))).leftPlaying.chooseRing := by
    rw [State.preemptVictim, hcue]
    have cause : victimCause x = .preempted := by rw [victimCause, hcls]
    simp only [State.enterEnding, State.modCue, cause]
    rfl
  rw [record]
  exact (State.endDisplay_eq _).1

/-- While one cue plays, the end of another's play leaves the idle timer; so two ends change the display as the last one says. -/
theorem State.displayOfEnd_twice {v : State} (ht : t.display = s.displayOfEnd u) (hnow : t.now = s.now)
    (h : v.anyPlaying = true → u.anyPlaying = true) : t.displayOfEnd v = s.displayOfEnd v := by
  unfold State.displayOfEnd
  rw [ht, hnow]
  unfold State.displayOfEnd
  cases hv : v.anyPlaying with
  | false => simp
  | true => simp [h hv]

theorem State.anyPlaying_of_slot {j : Fin 24} {x : Cue} (hx : s.sched.table[j] = some x) (hp : x.state = .playing) : s.anyPlaying = true := by
  have mem : (j, x) ∈ s.tableCues := (s.mem_tableCues j x).2 hx
  simp only [State.anyPlaying, Bool.or_eq_true, List.any_eq_true, decide_eq_true_eq]
  exact .inl (.inl ⟨_, mem, hp⟩)

/-! ### What is reserved for the cue that preempts (R68) -/

/-- The reservations of a preempting cue. -/
def Sched.reserve (sc : Sched) (r : CueRef) (path voice : Judgement) : Sched :=
  { sc with
    path := match path with
      | .notNeeded => sc.path
      | _ => { sc.path with reservation := some r }
    voices := match voice.voice? with
      | some v => sc.voices.set v { sc.voices[v] with reservation := some r }
      | none => sc.voices }

theorem State.preempt_eq (s : State) (r : CueRef) (path voice : Judgement) : s.preempt r path voice =
    ((path.victim?.toList ++ voice.victim?.toList).dedup.foldl State.preemptVictim s).onSched fun sc => sc.reserve r path voice := by
  unfold State.preempt Sched.reserve
  dsimp only
  generalize (path.victim?.toList ++ voice.victim?.toList).dedup.foldl State.preemptVictim s = x
  cases path <;> cases voice.voice? <;> rfl

theorem State.serve_preempts {r : CueRef} (hc : s.candidate? r = some c) (hw : c.state = .waiting) {path voice : Judgement}
    (hp : s.judgePath r c = path) (hv : s.judgeVoice r c = voice) (hpb : path.isBlocked = false) (hvb : voice.isBlocked = false)
    (hvictim : path.victim?.isSome || voice.victim?.isSome) : s.serve r = s.preempt r path voice := by
  simp [State.serve, hc, hw, hp, hv, hpb, hvb, hvictim]

theorem State.serve_blocked {r : CueRef} (hc : s.candidate? r = some c)
    (h : s.judgePath r c = .blocked ∨ s.judgeVoice r c = .blocked) : s.serve r = s := by
  simp only [State.serve, hc]
  rcases h with h | h <;> simp [h, Judgement.isBlocked]

/-! ### The path's holder and the voice victim (R64, R65) -/

theorem State.judgePath_held {r q : CueRef} {x : Cue} (hn : s.needsPath c = true) (hh : s.sched.path.holder = some q) (hx : s.cue? q = some x)
    (hp : x.state = .playing) : s.judgePath r c = if c.cls.rank < x.cls.rank then .preemptable q none else .blocked := by
  simp [State.judgePath, hn, hh, hx, hp, Cue.outranks]

theorem State.reservedVoiceFading_of_none {r : CueRef} (h : s.Unreserved r) : s.reservedVoiceFading r = false := by
  simp only [State.reservedVoiceFading, List.any_eq_false, Resource.reservedFor]
  exact fun v _ => by rw [decide_eq_false (h.2 v), Bool.false_and]; exact Bool.false_ne_true

/-- With no voice available and none of its own, a cue is judged by the voice victim. -/
theorem State.judgeVoice_unavailable {r q : CueRef} {v : Fin 4} {x : Cue} (ht : c.tone ≠ none) (hu : s.Unreserved r)
    (hall : ∀ w : Fin 4, w ≠ 0 → s.sched.voices[w] ≠ ⟨none, none⟩) (hvictim : s.voiceVictim = some (v, q, x)) :
    s.judgeVoice r c = if c.cls.rank < x.cls.rank then .preemptable q (some v) else .blocked := by
  have none_free : s.availableVoice r = none := by
    unfold State.availableVoice
    rw [s.noReservedVoice hu]
    refine List.find?_eq_none.2 fun w hw => mt (Resource.free_iff _).1 (hall w ?_)
    rintro rfl
    revert hw
    decide
  simp [State.judgeVoice, Cue.needsVoice, ht, none_free, s.reservedVoiceFading_of_none hu, hvictim, Cue.outranks]

/-- Of a list, the element that goes before every other is the one that a search for the best ends with. -/
theorem foldl_best {α : Type} {before : α → α → Bool} {b : α} (l : List α) (x : α) (hb : b ∈ x :: l)
    (h : ∀ y ∈ x :: l, y = b ∨ (before b y = true ∧ before y b = false)) :
    l.foldl (fun best y => if before y best then y else best) x = b := by
  induction l generalizing x with
  | nil => exact (List.mem_singleton.1 hb).symm
  | cons y l ih =>
    have hy := h y (by simp)
    have hx := h x (by simp)
    rw [List.foldl_cons]
    refine ih _ ?_ fun z hz => ?_
    · rcases hx with rfl | ⟨hbx, hxb⟩
      · rcases hy with rfl | ⟨-, hyb⟩
        · simp
        · simp [hyb]
      · simp only [List.mem_cons] at hb
        rcases hb with rfl | rfl | hb
        · exact absurd (hbx.symm.trans hxb) (by decide)
        · simp [hbx]
        · exact List.mem_cons_of_mem _ hb
    · rcases List.mem_cons.1 hz with rfl | hz
      · split
        · exact hy
        · exact hx
      · exact h z (by simp [hz])

theorem State.mem_victimVoices {v : Fin 4} {q : CueRef} {x : Cue} : (v, q, x) ∈ s.victimVoices ↔
    v ≠ 0 ∧ s.sched.voices[v] = ⟨some q, none⟩ ∧ s.cue? q = some x ∧ x.state = .playing := by
  have table : v ∈ tableVoices ↔ v ≠ 0 := by revert v; decide
  unfold State.victimVoices
  rw [List.mem_filterMap]
  constructor
  · rintro ⟨w, hw, hmatch⟩
    rcases hres : s.sched.voices[w] with ⟨holder, res⟩
    rw [hres] at hmatch
    cases res with
    | some _ => cases holder <;> cases hmatch
    | none =>
      cases holder with
      | none => cases hmatch
      | some h =>
        dsimp only at hmatch
        split at hmatch
        · split at hmatch
          · cases hmatch
            exact ⟨table.1 hw, hres, by assumption, by assumption⟩
          · cases hmatch
        · cases hmatch
  · rintro ⟨hv, hres, hq, hx⟩
    exact ⟨v, table.2 hv, by simp [hres, hq, hx]⟩

theorem State.voiceVictim_eq {v : Fin 4} {q : CueRef} {x : Cue} (hv : v ≠ 0) (hres : s.sched.voices[v] = ⟨some q, none⟩)
    (hq : s.cue? q = some x) (hx : x.state = .playing)
    (hbest : ∀ (w : Fin 4) h y, w ≠ 0 → w ≠ v → s.sched.voices[w] = ⟨some h, none⟩ → s.cue? h = some y → y.state = .playing →
      y.cls.rank < x.cls.rank ∨ (y.cls.rank = x.cls.rank ∧ y.latestStart < x.latestStart)) : s.voiceVictim = some (v, q, x) := by
  have mem : (v, q, x) ∈ s.victimVoices := State.mem_victimVoices.2 ⟨hv, hres, hq, hx⟩
  have best (p : Fin 4 × CueRef × Cue) (hp : p ∈ s.victimVoices) :
      p = (v, q, x) ∨ (victimBefore x p.2.2 = true ∧ victimBefore p.2.2 x = false) := by
    obtain ⟨w, h, y⟩ := p
    obtain ⟨hw, hwres, hy, hyp⟩ := State.mem_victimVoices.1 hp
    by_cases hwv : w = v
    · subst hwv
      rw [hres] at hwres
      cases hwres
      rw [hq] at hy
      cases hy
      exact .inl rfl
    · refine .inr ?_
      have := hbest w h y hw hwv hwres hy hyp
      simp only [victimBefore, Bool.or_eq_true, Bool.and_eq_true, decide_eq_true_eq, Bool.or_eq_false_iff, Bool.and_eq_false_iff,
        decide_eq_false_iff_not]
      omega
  unfold State.voiceVictim
  cases hl : s.victimVoices with
  | nil => simp [hl] at mem
  | cons p l =>
    rw [hl] at mem best
    exact congrArg some (foldl_best (before := fun a b => victimBefore a.2.2 b.2.2) l p mem best)

/-! ### Posts that preempt, and posts that wait -/

/-- The table with a cue posted into a slot that was free keeps the other slots. -/
theorem State.posted_other {j : Fin 24} {x : Cue} (hi : s.sched.table[i] = none) (hx : s.sched.table[j] = some x) :
    j ≠ i ∧ (s.posted m i c).sched.table[j] = some x := by
  have ne : j ≠ i := fun e => by simp [e, hi] at hx
  exact ⟨ne, by simp only [State.posted, State.onSched, Vector.getElem_set_fin, if_neg ne, hx]⟩

theorem State.posted_cue? {q : CueRef} {z : Cue} (hc : c.state = .waiting) (hz : (s.posted m i c).cue? q = some z)
    (hp : z.state = .playing) : s.cue? q = some z := by
  match q, hz with
  | .narration, hz => exact hz
  | .feedback, hz => exact hz
  | .slot j, hz =>
    have slot : (if j = i then some c else s.sched.table[j]) = some z :=
      (Vector.getElem_set_fin s.sched.table i j (some c)).symm.trans hz
    split at slot
    · cases slot
      exact absurd (hc.symm.trans hp) (by decide)
    · exact slot

/-- The voice victim is not touched by a post. -/
theorem State.posted_voiceVictim {k : Fin 24} {v : Fin 4} {y : Cue} (hi : s.sched.table[i] = none) (hc : c.state = .waiting) (hv : v ≠ 0)
    (hk : s.sched.voices[v] = ⟨some (.slot k), none⟩) (hy : s.sched.table[k] = some y) (hplay : y.state = .playing)
    (hbest : ∀ (w : Fin 4) h z, w ≠ 0 → w ≠ v → s.sched.voices[w] = ⟨some h, none⟩ → s.cue? h = some z → z.state = .playing →
      z.cls.rank < y.cls.rank ∨ (z.cls.rank = y.cls.rank ∧ z.latestStart < y.latestStart)) :
    (s.posted m i c).voiceVictim = some (v, .slot k, y) :=
  State.voiceVictim_eq (s := s.posted m i c) hv hk (State.posted_other hi hy).2 hplay fun w q z hw hwv hres hz hzp =>
    hbest w q z hw hwv hres (State.posted_cue? hc hz hzp) hzp

/-- A posted cue that is no candidate, or whose turn changes nothing, waits (R40, R67). -/
theorem exec_cuePost_waits (h : s.ServesRequest m) {note : Bool} {p : List Byte} {r : CuePostReq} {tone : Option TonePart}
    (hl : lenAllowed .cuePost p = true) (hr : parseCuePost p = some r)
    (hparts : r.speech ≠ none ∨ r.tone ≠ none ∨ r.scene ≠ none ∨ r.lamp ≠ none) (hpost : s.PostsInto m r.id i)
    (hscene : r.scene = none) (htone : r.tone = tone.map (fun t => (t.pattern.val, t.timing)))
    (hpattern : ∀ t, tone = some t → (s.tone.patterns[t.pattern]).isSome = true ∧
      (t.pattern.val < 8 ∨ (m = .w ∧ t.pattern.val < 20) ∨ (m = .d ∧ 20 ≤ t.pattern.val)))
    (hnone : s.NothingToServe) (hserve : s.isCandidate (s.newCue m r tone none) = true →
      (s.posted m i (s.newCue m r tone none)).serve (.slot i) = s.posted m i (s.newCue m r tone none)) :
    exec (.cuePost m note p) s = .next ((s.posted m i (s.newCue m r tone none)).done m .cuePost note) := by
  have with_slot := s.posted_withSlot m i (s.newCue m r tone none)
  have same : (s.posted m i (s.newCue m r tone none)).isCandidate (s.newCue m r tone none) = s.isCandidate (s.newCue m r tone none) := rfl
  have ports : (s.posted m i (s.newCue m r tone none)).ports = s.posted m i (s.newCue m r tone none) :=
    State.ports_of_rest h.atRest.2.2.1 h.atRest.2.2.2.1
  have settled : (s.posted m i (s.newCue m r tone none)).setArb.settleArb = s.posted m i (s.newCue m r tone none) := by
    cases hc : s.isCandidate (s.newCue m r tone none) with
    | true => exact with_slot.settles hnone h.atRest.2.1 (same.trans hc) (parseCuePost_cls hr) rfl (hserve hc) h.atRest.2.1 hnone.2
    | false =>
      have nothing : (s.posted m i (s.newCue m r tone none)).setArb.NothingToServe := with_slot.nothingToServe hnone (same.trans hc)
      rw [State.settleArb_nothing nothing, State.setArb_clearArb (s := s.posted m i _) h.atRest.2.1]
  have done := exec_cuePost_arb h (note := note) hl hr hparts hpost (scene := none) hscene htone hpattern settled rfl
  rwa [ports] at done

/-- The state after a post that preempts: only the scheduler and the display have changed. -/
theorem exec_cuePost_preempts (h : s.ServesRequest m) {note : Bool} {p : List Byte} {r : CuePostReq} {tone : Option TonePart}
    (hl : lenAllowed .cuePost p = true) (hr : parseCuePost p = some r)
    (hparts : r.speech ≠ none ∨ r.tone ≠ none ∨ r.scene ≠ none ∨ r.lamp ≠ none) (hpost : s.PostsInto m r.id i)
    (hscene : r.scene = none) (htone : r.tone = tone.map (fun t => (t.pattern.val, t.timing)))
    (hpattern : ∀ t, tone = some t → (s.tone.patterns[t.pattern]).isSome = true ∧
      (t.pattern.val < 8 ∨ (m = .w ∧ t.pattern.val < 20) ∨ (m = .d ∧ 20 ≤ t.pattern.val)))
    (hnone : s.NothingToServe) (hbar : s.store.check = .idle ∨ s.needsPath (s.newCue m r tone none) = false) {sc : Sched} {d : Display}
    (hserve : (s.posted m i (s.newCue m r tone none)).serve (.slot i) = u) (hu : u = { s with sched := sc, display := d })
    (hdue : sc.arbDue = s.sched.arbDue) (hidle : sc.feedback.pending = s.sched.feedback.pending)
    (hfree : s.store.check = .idle ∨ sc.path = s.sched.path) :
    exec (.cuePost m note p) s = .next (u.done m .cuePost note) := by
  subst hu
  have noCheck : ({ s with sched := sc, display := d } : State).checkCanBegin = false := by
    rcases hfree with hck | hpath
    · simp [State.checkCanBegin, hck]
    · have := h.atRest.2.2.1
      unfold State.checkCanBegin at this ⊢
      rw [hpath]
      exact this
  have done := exec_cuePost_serves h (note := note) hl hr hparts hpost hscene htone hpattern hnone hbar hserve hdue hidle rfl
  rwa [State.ports_of_rest noCheck h.atRest.2.2.2.1] at done

/-- A preemption whose victims leave `y` behind, and which reserves what the judgements say. -/
theorem State.preempt_of_victims {r : CueRef} {path voice : Judgement} {l : List CueRef}
    (hv : (path.victim?.toList ++ voice.victim?.toList).dedup = l) {y : State} (hy : l.foldl State.preemptVictim s = y) {sc : Sched}
    (heq : y = { s with sched := sc, display := s.displayOfEnd y }) : let t := s.preempt r path voice
    t = { s with sched := sc.reserve r path voice, display := s.displayOfEnd t } := by
  intro t
  have ht : t = y.onSched fun sc => sc.reserve r path voice := by
    show State.preempt _ _ _ _ = _
    rw [State.preempt_eq, hv, hy]
  have display : s.displayOfEnd t = s.displayOfEnd y := by
    unfold State.displayOfEnd
    rw [ht]
    rfl
  rw [display]
  exact ht.trans (congrArg (fun z : State => z.onSched fun sc => sc.reserve r path voice) heq)

/-- The preemption of one table cue. -/
theorem State.preempt_one {r : CueRef} {x : Cue} {j : Fin 24} {path voice : Judgement} (hx : s.sched.table[j] = some x)
    (hv : (path.victim?.toList ++ voice.victim?.toList).dedup = [.slot j]) : let t := s.preempt r path voice
    t = { s with
      sched := ({ s.sched with table := s.sched.table.set j (some (x.cutAt s.now)) } : Sched).reserve r path voice,
      display := s.displayOfEnd t } :=
  State.preempt_of_victims hv rfl (State.preemptVictim_slot hx)

/-- The preemption of two table cues. -/
theorem State.preempt_two {r : CueRef} {x y : Cue} {j k : Fin 24} {path voice : Judgement} (hx : s.sched.table[j] = some x)
    (hy : s.sched.table[k] = some y) (hplay : y.state = .playing) (hjk : k ≠ j)
    (hv : (path.victim?.toList ++ voice.victim?.toList).dedup = [.slot j, .slot k]) : let t := s.preempt r path voice
    t = { s with
      sched := ({ s.sched with
        table := (s.sched.table.set j (some (x.cutAt s.now))).set k (some (y.cutAt s.now)) } : Sched).reserve r path voice,
      display := s.displayOfEnd t } := by
  have first := State.preemptVictim_slot hx
  generalize hp : s.preemptVictim (.slot j) = p at first
  have now : p.now = s.now := by rw [first]
  have sched : p.sched = { s.sched with table := s.sched.table.set j (some (x.cutAt s.now)) } := by rw [first]
  have still : p.sched.table[k] = some y := by rw [sched]; simp only [Vector.getElem_set_fin, if_neg hjk, hy]
  have second := State.preemptVictim_slot still
  generalize hq : p.preemptVictim (.slot k) = q at second
  dsimp only at first second
  have display : p.displayOfEnd q = s.displayOfEnd q :=
    State.displayOfEnd_twice (congrArg (·.display) first) now fun _ => State.anyPlaying_of_slot still hplay
  refine State.preempt_of_victims hv (y := q) (by rw [List.foldl_cons, List.foldl_cons, List.foldl_nil, hp, hq]) ?_
  rw [display, sched, now] at second
  refine second.trans ?_
  rw [first]

theorem State.posted_candidate (s : State) (m : Side) (i : Fin 24) (c : Cue) : (s.posted m i c).candidate? (.slot i) = some c := by
  simp [State.candidate?, State.posted, State.onSched]

/-- Settles O34. -/
theorem speechPreempts : Obligations.SpeechPreempts := by
  refine ⟨?_, ?_, ?_⟩
  · intro s m note p r items i j x h hl hr hsp htn hsc hlp hid hquota hfree hlow hmark hnone hst hck hpath hx hplay hrank
    have htone : r.tone = (none : Option TonePart).map fun t => (t.pattern.val, t.timing) := htn
    have need : s.needsPath (s.newCue m r none none) = true := State.needsPath_iff.2 ⟨by simp [State.newCue, hsp], hst⟩
    have other := State.posted_other (m := m) (c := s.newCue m r none none) hfree hx
    have judged : (s.posted m i (s.newCue m r none none)).judgePath (.slot i) (s.newCue m r none none) = .preemptable (.slot j) none :=
      (State.judgePath_held (s := s.posted m i (s.newCue m r none none)) (q := .slot j) need (congrArg (·.holder) hpath) other.2 hplay).trans
        (if_pos hrank)
    have eq := State.preempt_one (r := .slot i) (path := .preemptable (.slot j) none) (voice := .notNeeded) other.2 rfl
    have serve := State.serve_preempts (s := s.posted m i (s.newCue m r none none)) (r := .slot i) (c := s.newCue m r none none)
      (s.posted_candidate m i _) rfl judged (State.judgeVoice_of_no_tone rfl) rfl rfl rfl
    generalize State.preempt _ _ _ _ = u at eq serve
    refine ⟨u, exec_cuePost_preempts h hl hr (by simp [hsp]) ⟨hid, hquota, hfree, hlow, hmark⟩ hsc htone (fun t ht => by cases ht) hnone
      (.inl hck) serve eq rfl rfl (.inl hck), eq.trans ?_⟩
    unfold Sched.reserve
    simp only [State.posted, State.onSched]
    rw [show (s.sched.posted m).path = ⟨some (.slot j), none⟩ from hpath, State.newCue, hsp, hlp]
    rfl
  · intro s m note p r items i x h hl hr hsp htn hsc hlp hcls hpost hnone hst hck hpath hx hplay hecho
    have htone : r.tone = (none : Option TonePart).map fun t => (t.pattern.val, t.timing) := htn
    have need : s.needsPath (s.newCue m r none none) = true := State.needsPath_iff.2 ⟨by simp [State.newCue, hsp], hst⟩
    have outranked : (s.newCue m r none none).cls.rank < x.cls.rank := by
      rw [hecho, show (s.newCue m r none none).cls = .alarm from hcls]
      decide
    have judged : (s.posted m i (s.newCue m r none none)).judgePath (.slot i) (s.newCue m r none none) = .preemptable .narration none :=
      (State.judgePath_held (s := s.posted m i (s.newCue m r none none)) (q := .narration) need (congrArg (·.holder) hpath) hx hplay).trans
        (if_pos outranked)
    have victim := State.preemptVictim_narration (s := s.posted m i (s.newCue m r none none)) hx hecho
    have eq := State.preempt_of_victims (r := .slot i) (path := .preemptable .narration none) (voice := .notNeeded) rfl rfl victim
    have serve := State.serve_preempts (s := s.posted m i (s.newCue m r none none)) (r := .slot i) (c := s.newCue m r none none)
      (s.posted_candidate m i _) rfl judged (State.judgeVoice_of_no_tone rfl) rfl rfl rfl
    generalize State.preempt _ _ _ _ = u at eq serve
    refine ⟨u, exec_cuePost_preempts h hl hr (by simp [hsp]) hpost hsc htone (fun t ht => by cases ht) hnone
      (.inl hck) serve eq rfl rfl (.inl hck), eq.trans ?_⟩
    unfold Sched.reserve
    simp only [State.posted, State.onSched]
    rw [show (s.sched.posted m).path = ⟨some .narration, none⟩ from hpath]
    rfl
  · intro s m note p r items q timing i j x h hl hr hsp htn hsc hlp hpat hrange hpost hnone hunres hst hck hpath hx hplay c cut
    have htone : r.tone = (some ⟨q, timing⟩ : Option TonePart).map fun t => (t.pattern.val, t.timing) := htn
    have hpattern (t : TonePart) (ht : some ⟨q, timing⟩ = some t) : (s.tone.patterns[t.pattern]).isSome = true ∧
        (t.pattern.val < 8 ∨ (m = .w ∧ t.pattern.val < 20) ∨ (m = .d ∧ 20 ≤ t.pattern.val)) := by
      cases ht
      exact ⟨Option.isSome_iff_ne_none.2 hpat, hrange⟩
    have need : s.needsPath c = true := State.needsPath_iff.2 ⟨by simp [c, State.newCue, hsp], hst⟩
    have other := State.posted_other (m := m) (c := c) hpost.2.2.1 hx
    have judged : (s.posted m i c).judgePath (.slot i) c = if r.cls.rank < x.cls.rank then .preemptable (.slot j) none else .blocked :=
      State.judgePath_held (s := s.posted m i c) (q := .slot j) need (congrArg (·.holder) hpath) other.2 hplay
    refine ⟨fun v hrank hv hfree hlow => ?_, fun k v y hrank hv hall hk hy hyplay hyrank hbest => ?_, fun hrank => ?_⟩
    · have voice : (s.posted m i c).judgeVoice (.slot i) c = .available (some v) :=
        State.judgeVoice_available nofun (State.availableVoice_lowest (s := s.posted m i c) hunres hv hfree hlow)
      have eq := State.preempt_one (r := .slot i) (path := .preemptable (.slot j) none) (voice := .available (some v)) other.2 rfl
      have serve := State.serve_preempts (s.posted_candidate m i c) rfl (judged.trans (if_pos hrank)) voice rfl rfl rfl
      generalize State.preempt _ _ _ _ = u at eq serve
      refine ⟨u, exec_cuePost_preempts h hl hr (by simp [hsp]) hpost hsc htone hpattern hnone (.inl hck) serve eq rfl rfl (.inl hck),
        eq.trans ?_⟩
      unfold Sched.reserve
      simp only [State.posted, State.onSched, Judgement.voice?]
      rw [show (s.sched.posted m).path = ⟨some (.slot j), none⟩ from hpath, show (s.sched.posted m).voices[v] = ⟨none, none⟩ from hfree]
      rfl
    · have still := State.posted_other (m := m) (c := c) hpost.2.2.1 hy
      have victim := State.posted_voiceVictim (m := m) (c := c) hpost.2.2.1 rfl hv hk hy hyplay hbest
      have voice : (s.posted m i c).judgeVoice (.slot i) c = .preemptable (.slot k) (some v) :=
        (State.judgeVoice_unavailable (s := s.posted m i c) (c := c) (Option.some_ne_none _) hunres hall victim).trans (if_pos hyrank)
      have serve := State.serve_preempts (s.posted_candidate m i c) rfl (judged.trans (if_pos hrank)) voice rfl rfl rfl
      have reserved (T : Vector (Option Cue) 24) : ({ s.sched.posted m with table := T } : Sched).reserve (.slot i)
          (.preemptable (.slot j) none) (.preemptable (.slot k) (some v)) = { s.sched.posted m with
            table := T, path := ⟨some (.slot j), some (.slot i)⟩,
            voices := s.sched.voices.set v ⟨some (.slot k), some (.slot i)⟩ } := by
        unfold Sched.reserve
        simp only [Judgement.voice?]
        rw [show (s.sched.posted m).path = ⟨some (.slot j), none⟩ from hpath,
          show (s.sched.posted m).voices[v] = ⟨some (.slot k), none⟩ from hk]
        rfl
      have eq : let t := (s.posted m i c).preempt (.slot i) (.preemptable (.slot j) none) (.preemptable (.slot k) (some v))
          t = { s with
            sched := ({ s.sched.posted m with
              table := ((s.sched.table.set i (some c)).set j (some (cut x))).set k (some (cut y)) } : Sched).reserve (.slot i)
                (.preemptable (.slot j) none) (.preemptable (.slot k) (some v)),
            display := s.displayOfEnd t } := by
        by_cases hkj : k = j
        · subst hkj
          obtain rfl : x = y := by simpa [hx] using hy
          have one := State.preempt_one (r := .slot i) (path := .preemptable (.slot k) none) (voice := .preemptable (.slot k) (some v))
            other.2 (by simp [Judgement.victim?])
          refine one.trans ?_
          rw [Vector.set_set]
          rfl
        · exact State.preempt_two other.2 still.2 hyplay hkj (by simp [Judgement.victim?, Ne.symm hkj])
      generalize State.preempt _ _ _ _ = u at eq serve
      refine ⟨u, exec_cuePost_preempts h hl hr (by simp [hsp]) hpost hsc htone hpattern hnone (.inl hck) serve eq rfl rfl (.inl hck),
        eq.trans ?_⟩
      rw [reserved]
    · have waits := exec_cuePost_waits h (note := note) hl hr (by simp [hsp]) hpost hsc htone hpattern hnone fun _ =>
        State.serve_blocked (s.posted_candidate m i c) (.inl (judged.trans (if_neg (Nat.not_lt.2 hrank))))
      exact waits

/-- Settles O35. -/
theorem voicePreempts : Obligations.VoicePreempts := by
  intro s m note p r q timing i j v x h hl hr htn hsc hlp hpat hrange hpost hnone hunres hv hall hj hx hplay hbest c
  have htone : r.tone = (some ⟨q, timing⟩ : Option TonePart).map fun t => (t.pattern.val, t.timing) := htn
  have hpattern (t : TonePart) (ht : some ⟨q, timing⟩ = some t) : (s.tone.patterns[t.pattern]).isSome = true ∧
      (t.pattern.val < 8 ∨ (m = .w ∧ t.pattern.val < 20) ∨ (m = .d ∧ 20 ≤ t.pattern.val)) := by
    cases ht
    exact ⟨Option.isSome_iff_ne_none.2 hpat, hrange⟩
  have victim := State.posted_voiceVictim (m := m) (c := c) hpost.2.2.1 rfl hv hj hx hplay hbest
  have voice : (s.posted m i c).judgeVoice (.slot i) c = if r.cls.rank < x.cls.rank then .preemptable (.slot j) (some v) else .blocked :=
    State.judgeVoice_unavailable (s := s.posted m i c) nofun hunres hall victim
  have still := State.posted_other (m := m) (c := c) hpost.2.2.1 hx
  refine ⟨fun hrank hsp => ?_, fun hrank => ?_⟩
  · rw [if_pos hrank] at voice
    obtain ⟨path, judged, open_path, victims, reserved⟩ : ∃ path : Judgement, (s.posted m i c).judgePath (.slot i) c = path ∧
        path.isBlocked = false ∧ path.victim? = none ∧ ∀ T, ({ s.sched.posted m with table := T } : Sched).reserve (.slot i) path
          (.preemptable (.slot j) (some v)) = { s.sched.posted m with
            table := T, voices := s.sched.voices.set v ⟨some (.slot j), some (.slot i)⟩,
            path := if r.speech = none then s.sched.path else ⟨none, some (.slot i)⟩ } := by
      have voices : (s.sched.posted m).voices[v] = ⟨some (.slot j), none⟩ := hj
      by_cases hsn : r.speech = none
      · refine ⟨.notNeeded, State.judgePath_of_no_need (by simp [State.needsPath, c, State.newCue, hsn]), rfl, rfl, fun T => ?_⟩
        unfold Sched.reserve
        simp only [Judgement.voice?]
        rw [voices, if_pos hsn]
        rfl
      · obtain ⟨hst, -, hpath⟩ := hsp.resolve_left hsn
        have need : s.needsPath c = true := State.needsPath_iff.2 ⟨hsn, hst⟩
        refine ⟨.available none, State.judgePath_available (s := s.posted m i c) need (congrArg (·.holder) hpath)
          (.inl (congrArg (·.reservation) hpath)), rfl, rfl, fun T => ?_⟩
        unfold Sched.reserve
        simp only [Judgement.voice?]
        rw [voices, if_neg hsn, show (s.sched.posted m).path = ⟨none, none⟩ from hpath]
        rfl
    have serve := State.serve_preempts (s.posted_candidate m i c) rfl judged voice open_path rfl (by rw [victims]; rfl)
    have eq := State.preempt_one (r := .slot i) (path := path) (voice := .preemptable (.slot j) (some v)) still.2
      (by rw [victims]; rfl)
    generalize State.preempt _ _ _ _ = u at eq serve
    have eq : u = _ := eq
    rw [show (s.posted m i c).sched = { s.sched.posted m with table := s.sched.table.set i (some c) } from rfl, reserved] at eq
    have bar : s.store.check = .idle ∨ s.needsPath c = false :=
      hsp.elim (fun hsn => .inr (by simp [State.needsPath, c, State.newCue, hsn])) fun hok => .inl hok.2.1
    refine ⟨u, exec_cuePost_preempts h hl hr (by simp [htn]) hpost hsc htone hpattern hnone bar serve eq rfl rfl ?_, eq⟩
    exact hsp.elim (fun hsn => .inr (if_pos hsn)) fun hok => .inl hok.2.1
  · have waits := exec_cuePost_waits h (note := note) hl hr (by simp [htn]) hpost hsc htone hpattern hnone fun _ =>
      State.serve_blocked (s.posted_candidate m i c) (.inr (voice.trans (if_neg (Nat.not_lt.2 hrank))))
    exact waits

end Sys2Proof.Machine
end

section
/-! SUPPORT. The end of a play with what the cue held (R74 to R76): what it frees, and the arbitration that this sets off. -/

namespace Sys2Proof.Machine

variable {s t u : State} {m : Side} {i : Fin 24} {c : Cue} {v : Option (Fin 4)}

/-! ### What a cue frees (R74, R76, R99, R120, R128, R140) -/

/-- What a holder gives up: the speech path with the utterance, channel S, its burst and the ring, and its voice. -/
def State.freedBy (s : State) (r : CueRef) (v : Option (Fin 4)) : State :=
  { s with
    sched := { s.sched with
      path := if s.sched.path.holder = some r then { s.sched.path with holder := none } else s.sched.path,
      voices := match v with
        | some v => s.sched.voices.set v { s.sched.voices[v] with holder := none }
        | none => s.sched.voices },
    utt := if s.sched.path.holder = some r then { entries := [], owner := none } else s.utt,
    stream := if s.sched.path.holder = some r then idleStream else s.stream,
    store := if s.sched.path.holder = some r then
        { s.store with chanS := idleChannelS, port := if s.store.port = .s then .idle else s.store.port }
      else s.store,
    tone := match v with
      | some v => { s.tone with voices := s.tone.voices.set v idleVoice }
      | none => s.tone }

theorem State.freed_eq (s : State) (i : Fin 24) (v : Option (Fin 4)) : s.freed i v = s.freedBy (.slot i) v := rfl

theorem State.freePath_held {r : CueRef} (h : s.sched.path.holder = some r) : s.freePath r = (s.freedBy r none).setArb := by
  rw [State.freePath, if_pos h]
  unfold State.freedBy
  simp only [h, if_true]
  rfl

theorem State.freePath_other {r : CueRef} (h : s.sched.path.holder ≠ some r) : s.freePath r = s := if_neg h

theorem State.freedBy_none {r : CueRef} (h : s.sched.path.holder ≠ some r) : s.freedBy r none = s := by
  unfold State.freedBy
  simp only [if_neg h]

theorem State.freedBy_voice {r : CueRef} {v : Fin 4} (h : s.sched.path.holder ≠ some r) : s.freedBy r (some v) = { s with
    sched := { s.sched with voices := s.sched.voices.set v { s.sched.voices[v] with holder := none } },
    tone := { s.tone with voices := s.tone.voices.set v idleVoice } } := by
  unfold State.freedBy
  simp only [if_neg h]

/-- A holder of anything frees what it holds, and an arbitration follows. -/
theorem State.freeResources_frees {r : CueRef} (hv : s.voiceOf r = v) (h : s.sched.path.holder = some r ∨ v ≠ none) :
    s.freeResources r = (s.freedBy r v).setArb := by
  by_cases hp : s.sched.path.holder = some r
  · rw [State.freeResources, State.freePath_held hp]
    have same : (s.freedBy r none).setArb.voiceOf r = v := hv
    cases v with
    | none => rw [State.freeVoice, same]
    | some v =>
      rw [State.freeVoice, same]
      rfl
  · rw [State.freeResources, State.freePath_other hp, State.freeVoice, hv]
    obtain ⟨v, rfl⟩ := Option.ne_none_iff_exists'.1 (h.resolve_left hp)
    unfold State.freedBy
    simp only [if_neg hp]
    rfl

theorem State.freedBy_frame (s : State) (r : CueRef) (v : Option (Fin 4)) : (s.freedBy r v).sched.table = s.sched.table ∧
    (s.freedBy r v).links = s.links ∧ (s.freedBy r v).display = s.display ∧ (s.freedBy r v).now = s.now :=
  ⟨rfl, rfl, rfl, rfl⟩

theorem State.freedBy_store (s : State) (r : CueRef) (v : Option (Fin 4)) : (s.freedBy r v).store.state = s.store.state ∧
    (s.freedBy r v).store.check = s.store.check := by
  unfold State.freedBy
  dsimp only
  split <;> exact ⟨rfl, rfl⟩

/-- What is given up stays reserved for whom it was. -/
theorem State.freed_reservations (s : State) (i : Fin 24) (v : Option (Fin 4)) :
    (s.freed i v).sched.path.reservation = s.sched.path.reservation ∧
      ∀ w : Fin 4, ((s.freed i v).sched.voices[w]).reservation = (s.sched.voices[w]).reservation := by
  refine ⟨?_, fun w => ?_⟩
  · show (if s.sched.path.holder = some (.slot i) then { s.sched.path with holder := none } else s.sched.path).reservation = _
    split <;> rfl
  · cases v with
    | none => rfl
    | some v =>
      show (s.sched.voices.set v { s.sched.voices[v] with holder := none })[w].reservation = _
      rw [Vector.getElem_set_fin]
      split
      · subst w
        rfl
      · rfl

theorem State.EndsQuietly.freed (h : s.EndsQuietly m i) : (s.freed i v).EndsQuietly m i := by
  obtain ⟨hm, hheld, hp, hv⟩ := h
  obtain ⟨path, voices⟩ := s.freed_reservations i v
  exact ⟨hm, hheld, path ▸ hp, fun w => voices w ▸ hv w⟩

/-- Ports at rest stay so when the path is given up and nothing waits for it. -/
theorem State.ports_freed (hs : s.sched.path.holder ≠ some (.slot i) →
      s.checkCanBegin = false ∧ (s.store.port = .idle → s.eligibleS = false ∧ s.eligibleG = false))
    (hq : s.FreesQuietly i) (hst : t.store = (s.freed i v).store) (hstream : t.stream = (s.freed i v).stream)
    (hpath : t.sched.path = (s.freed i v).sched.path) : t.ports = t := by
  by_cases held : s.sched.path.holder = some (.slot i)
  · obtain ⟨hck, hg, -⟩ := hq held
    have store : t.store = { s.store with chanS := idleChannelS, port := if s.store.port = .s then .idle else s.store.port } :=
      hst.trans (if_pos held)
    refine State.ports_of_rest ?_ fun _ => ⟨?_, ?_⟩
    · simp [State.checkCanBegin, store, hck]
    · simp [State.eligibleS, store, idleChannelS, ChannelS.dataLeft]
    · simp [State.eligibleG, store, hg]
  · obtain ⟨hc, hp⟩ := hs held
    have store : t.store = s.store := hst.trans (if_neg held)
    have path : t.sched.path = s.sched.path := hpath.trans (if_neg held)
    have stream : t.stream = s.stream := hstream.trans (if_neg held)
    refine State.ports_of_rest ?_ fun h => ?_
    · unfold State.checkCanBegin at hc ⊢
      rw [store, path]
      exact hc
    · unfold State.eligibleS State.eligibleG at hp ⊢
      rw [store, stream]
      exact hp (store ▸ h)

/-! ### An arbitration that finds nothing, and the slots it leaves -/

theorem State.setArb_setArb (s : State) : s.setArb.setArb = s.setArb := rfl

/-- An arbitration that finds nothing changes nothing. -/
theorem State.settle_setArb (hn : t.NothingToServe) (harb : t.sched.arbDue = false) : t.setArb.settle = t.settle := by
  have settled : t.setArb.settleArb = t := by
    rw [State.settleArb_nothing (s := t.setArb) hn, State.setArb_clearArb harb]
  rw [State.settle_of_arb settled, State.settle_of_arb (State.settleArb_of_not_due _ harb)]

theorem State.setArb_endDisplay (s : State) : s.setArb.leftPlaying.chooseRing = s.leftPlaying.chooseRing.setArb := by
  have left : s.setArb.leftPlaying = s.leftPlaying.setArb := by
    unfold State.leftPlaying
    have same : s.setArb.anyPlaying = s.anyPlaying := rfl
    rw [same]
    split <;> rfl
  rw [left]
  rfl

theorem State.WithSlot.of_set (ht : t.sched.table = s.sched.table.set i (some c))
    (hn : t.sched.narration.pending = s.sched.narration.pending) (hf : t.sched.feedback.pending = s.sched.feedback.pending)
    (hst : t.store.state = s.store.state) (hck : t.store.check = s.store.check) : s.WithSlot t i c where
  slot := by rw [ht, Vector.getElem_set_fin, if_pos rfl]
  others j hj := by rw [ht, Vector.getElem_set_fin, if_neg hj]
  narration := hn
  feedback := hf
  state := hst
  check := hck

/-! ### The end of a play of a cue that holds something (R74, R75) -/

section ends

variable (hc : s.sched.table[i] = some c) (hv : s.voiceOf (.slot i) = v) (hheld : s.sched.path.holder = some (.slot i) ∨ v ≠ none)
include hc hv hheld

theorem State.endOfPlay_frees : s.endOfPlay (.slot i) =
    (if 0 < c.repeatsLeft then (s.freed i v).setArb.enterGap i c
      else (s.freed i v).setArb.enterReporting i .completed).leftPlaying.chooseRing := by
  rw [State.endOfPlay_slot hc, State.freeResources_frees hv hheld]
  rfl

/-- Its repeats over, or its gap of 0 over after its deadline, the cue is COMPLETED. -/
theorem State.endOfPlay_reports (ho : c.origin = .machine m) (hq : s.EndsQuietly m i)
    (h : c.repeatsLeft = 0 ∨ (c.gapLength = 0 ∧ c.deadlinePassed = true)) : ∃ t : State, s.endOfPlay (.slot i) = t.setArb ∧
      t = { (s.freed i v).reported i { c with repeatsLeft := c.repeatsLeft - 1 } m .completed with display := s.displayOfEnd t } ∧
      t.RingChosen s.display.ringEffect := by
  have quiet : (s.freed i v).setArb.EndsQuietly m i := EndsQuietly.freed (v := v) hq
  have slot : (s.freed i v).setArb.sched.table[i] = some c := hc
  obtain ⟨eq, ring⟩ := ((s.freed i v).reported i { c with repeatsLeft := c.repeatsLeft - 1 } m .completed).endDisplay_eq
  refine ⟨_, ?_, eq, ring⟩
  rw [State.endOfPlay_frees hc hv hheld, ← State.setArb_endDisplay]
  split
  · rw [State.enterGap_late (by omega) (h.resolve_left (by omega)).2 ho quiet]
    rfl
  · have none_left : { c with repeatsLeft := c.repeatsLeft - 1 } = c := by
      rw [show c.repeatsLeft - 1 = c.repeatsLeft by omega]
    rw [none_left, State.enterReporting_quiet slot ho quiet]
    rfl

/-- With repeats and a gap left, the cue enters GAP. -/
theorem State.endOfPlay_gaps (hr : 0 < c.repeatsLeft) (hg : 0 < c.gapLength) : ∃ t : State, s.endOfPlay (.slot i) = t.setArb ∧
      t = { s.freed i v with
        sched := { (s.freed i v).sched with
          table := s.sched.table.set i (some
            { c with state := .gap, phase := none, holdTimer := none, repeatsLeft := c.repeatsLeft - 1,
                     gapTimer := some (s.now + c.gapLength * 100000) }) },
        display := s.displayOfEnd t } ∧
      t.RingChosen s.display.ringEffect := by
  obtain ⟨eq, ring⟩ := ((s.freed i v).setCue (.slot i) (some
    { c with state := .gap, phase := none, holdTimer := none, repeatsLeft := c.repeatsLeft - 1,
             gapTimer := some (s.now + c.gapLength * 100000) })).endDisplay_eq
  refine ⟨_, ?_, eq, ring⟩
  rw [State.endOfPlay_frees hc hv hheld, ← State.setArb_endDisplay, if_pos hr, State.enterGap_timed hg]
  rfl

/-- With repeats left and a gap of 0 the cue waits for its next play at once. -/
theorem State.endOfPlay_replays (hr : 0 < c.repeatsLeft) (hg : c.gapLength = 0) (hd : c.deadlinePassed = false) :
    ∃ t : State, s.endOfPlay (.slot i) = t.setArb ∧
      t = { s.freed i v with
        sched := { (s.freed i v).sched with table := s.sched.table.set i (some c.replay) }, display := s.displayOfEnd t } ∧
      t.RingChosen s.display.ringEffect := by
  obtain ⟨eq, ring⟩ := ((s.freed i v).setCue (.slot i) (some c.replay)).endDisplay_eq
  refine ⟨_, ?_, eq, ring⟩
  rw [State.endOfPlay_frees hc hv hheld, ← State.setArb_endDisplay, if_pos hr, State.enterGap_replays hg hd]
  rfl

end ends

/-! ### The turn of a WAITING table cue that starts with sound (R65, R66, R71, R72) -/

theorem voices_unreserved {V : Vector Resource 4} {r : CueRef} (h : ∀ v : Fin 4, (V[v]).reservation ≠ some r) :
    (Vector.ofFn fun v : Fin 4 => (V[v]).unreserve r) = V := by
  apply Vector.ext
  intro v hv
  rw [Vector.getElem_ofFn]
  exact Resource.unreserve_of_ne (h ⟨v, hv⟩)

theorem Resource.unreserve_own {x : Resource} {r : CueRef} (h : x.reservation = none ∨ x.reservation = some r) :
    x.unreserve r = { x with reservation := none } := by
  obtain ⟨q, e⟩ := x
  rcases h with h | h <;> simp only at h <;> subst h <;> simp [Resource.unreserve]

/-- A WAITING cue's turn: `x` is the part with the cue PLAYING on the resources `P` and `V`, and `begins` what its first phase does. -/
theorem State.serve_begins (hc : s.sched.table[i] = some c) (ho : c.origin = .machine m) {P : Resource} {V : Vector Resource 4}
    (hserve : s.serve (.slot i) = s.startCue (.slot i) v)
    (hgive : (s.given (.slot i) v c).dropReservations (.slot i) = { s with sched := { s.sched with path := P, voices := V } })
    {begins : State → State}
    (hbegins : ∀ x : State, x.sched.table[i] = some (s.startRecord c) → x.sched.voices = V →
      x.utt = (if s.needsPath c then { entries := (s.assemble c).entries, owner := some (.slot i) } else s.utt) →
      x.stream = s.stream → x.tone = s.tone →
      x.beginFirstPhase (.slot i) (c.started (s.needsPath c) s.sched.nextStart s.now) = begins x) :
    ∃ x : State, s.serve (.slot i) = begins x ∧
      x = { s with
        sched := { s.sched.withStart i (s.startRecord c) m with path := P, voices := V },
        utt := if s.needsPath c then { entries := (s.assemble c).entries, owner := some (.slot i) } else s.utt,
        display := s.displayOfStart x } ∧
      x.RingChosen s.display.ringEffect := by
  obtain ⟨x, start, eq, ring⟩ := State.startCue_slot hc ho hgive
  refine ⟨x, hserve.trans (start.trans (hbegins x ?_ ?_ ?_ ?_ ?_)), eq, ring⟩
  · rw [eq]
    simp only [Sched.withStart, Vector.getElem_set_fin, if_pos]
  all_goals rw [eq]

/-- A cue with tone alone and a voice available starts its pattern on it. -/
theorem State.serve_toned {v : Fin 4} {part : TonePart} {p : Pattern} (hc : s.sched.table[i] = some c) (hw : c.state = .waiting)
    (ho : c.origin = .machine m) (hsp : c.speech = none) (ht : c.tone = some part) (hpat : s.tone.patterns[part.pattern] = some p)
    (hv : s.availableVoice (.slot i) = some v) {V : Vector Resource 4}
    (hgive : (s.given (.slot i) (some v) c).dropReservations (.slot i) = { s with sched := { s.sched with voices := V } })
    (hV : ∀ x : State, x.sched.voices = V → x.voiceOf (.slot i) = some v) :
    ∃ x : State, s.serve (.slot i) = x.withPattern v part.pattern p ∧
      x = { s with
        sched := { s.sched.withStart i (c.soundingAs false .main s.sched.nextStart) m with voices := V },
        display := s.displayOfStart x } ∧
      x.RingChosen s.display.ringEffect := by
  have need : s.needsPath c = false := by simp [State.needsPath, hsp]
  have record := State.startRecord_sounding (s := s) need (Cue.started_toned hsp ht _ _)
  have serve := State.serve_available (r := .slot i) hc hw (.inl (State.judgePath_of_no_need need))
    (.inr (State.judgeVoice_available (by simp [ht]) hv))
  obtain ⟨x, served, eq, ring⟩ := State.serve_begins hc ho serve hgive (P := s.sched.path) (begins := fun x => x.withPattern v part.pattern p)
    fun x hx hxv _ _ hxt => by
      rw [need, Cue.started_toned hsp ht, State.beginFirstPhase_toned ht]
      rw [record] at hx
      exact State.beginTone_slot hx (hV x hxv) ht (hxt ▸ hpat)
  refine ⟨x, served, ?_, ring⟩
  rw [record, need] at eq
  simp only [Bool.false_and, Bool.or_false, Bool.false_eq_true, if_false] at eq
  exact eq

/-- A cue with speech alone and the path available starts its utterance on it. -/
theorem State.serve_speaking {f : FragEntry} {rest : List UttEntry} {items : List PhraseItem} (hc : s.sched.table[i] = some c)
    (hw : c.state = .waiting) (ho : c.origin = .machine m) (hsp : c.speech = some items) (ht : c.tone = none)
    (hst : s.store.state = .ok) (hstream : s.stream = idleStream)
    (hlist : (s.assembleItems (s.context m) items).entries = .fragment f :: rest)
    (hh : s.sched.path.holder = none) (hr : s.sched.path.reservation = none ∨ s.sched.path.reservation = some (.slot i))
    (hv : ∀ v : Fin 4, (s.sched.voices[v]).reservation ≠ some (.slot i)) :
    ∃ x : State, s.serve (.slot i) = x.streaming f (.fragment f :: rest) ∧
      x = { s with
        sched := { s.sched.withStart i
            { c.soundingAs true .main s.sched.nextStart with
              flags := { c.flags with isPartial := c.flags.isPartial || (s.assembleItems (s.context m) items).isPartial } } m with
          path := ⟨some (.slot i), none⟩ },
        utt := { entries := .fragment f :: rest, owner := some (.slot i) },
        display := s.displayOfStart x } ∧
      x.RingChosen s.display.ringEffect ∧ f.count ≠ 0 := by
  have hcount : f.count ≠ 0 := State.assembleItems_count (s := s) (x := s.context m) (items := items) (by rw [hlist]; simp)
  have need : s.needsPath c = true := State.needsPath_iff.2 ⟨by simp [hsp], hst⟩
  have asm : s.assemble c = s.assembleItems (s.context m) items := by
    simp only [State.assemble, State.assemblyContext, hsp, ho, Option.getD_some]
  have record := State.startRecord_sounding (s := s) need (Cue.started_speaking ht _ _)
  have serve := State.serve_available (r := .slot i) hc hw (v := none) (.inr (State.judgePath_available need hh hr))
    (.inl ⟨State.judgeVoice_of_no_tone ht, rfl⟩)
  have give : (s.given (.slot i) none c).dropReservations (.slot i) =
      { s with sched := { s.sched with path := ⟨some (.slot i), none⟩, voices := s.sched.voices } } := by
    rw [State.given_eq, need, if_pos rfl]
    unfold State.dropReservations
    simp only [State.onSched]
    rw [voices_unreserved hv, Resource.unreserve_own (x := ⟨some (.slot i), s.sched.path.reservation⟩) hr]
  obtain ⟨x, served, eq, ring⟩ := State.serve_begins hc ho serve give (begins := fun x => x.streaming f (.fragment f :: rest))
    fun x _ _ hutt hxs _ => by
      rw [need, Cue.started_speaking ht, State.beginFirstPhase_speaking ht]
      exact State.beginUtterance_fragment (by rw [hutt, need, if_pos rfl, asm, hlist]) hcount (hxs.trans hstream)
  refine ⟨x, served, ?_, ring, hcount⟩
  rw [record, need, asm, if_pos rfl, hlist] at eq
  simp only [Bool.true_and] at eq
  exact eq

/-! ### Settling after what a cue held is free -/

/-- With no arbitration due, settling comes to the ports and the links. -/
theorem State.settle_of_ports (hs : s.Settled) (hdue : t.sched.arbDue = false) (hports : t.ports = u) (hl : u.links = s.links) :
    t.settle = u := by
  have rest (n : Side) : (u.link n).atRest := by
    unfold State.link
    rw [hl]
    exact hs.link n
  rw [State.settle_of_arb (State.settleArb_of_not_due _ hdue), hports, State.txChoose_of_rest _ .w (rest .w),
    State.txChoose_of_rest _ .d (rest .d)]

section settles

variable {z : State} {d : Display} (hl : z.links = s.links) (hn : z.NothingToServe) (harb : z.sched.arbDue = false)
  (hp : z.sched.path.holder ≠ some (.slot i) → z.checkCanBegin = false ∧ (z.store.port = .idle → z.eligibleS = false ∧ z.eligibleG = false))
  (hq : z.FreesQuietly i)
include hl hn harb hp hq

/-- A cue that is reported as it frees what it held leaves its report to send. -/
theorem State.settle_freed_reported (hs : s.Settled) {o : CueOutcome}
    (ht : t = { (z.freed i v).reported i c m o with display := d }) :
    t.setArb.settle = t.onLink m fun l => l.sends (.done (s.doneReport m c o)) := by
  obtain ⟨state, check⟩ := z.freedBy_store (.slot i) v
  have with_slot : z.WithSlot t i (c.toReporting o) := by
    subst ht
    exact .of_set rfl rfl rfl state check
  have nothing : t.NothingToServe := with_slot.nothingToServe hn (by simp [State.isCandidate, Cue.toReporting])
  have due : t.sched.arbDue = false := by
    subst ht
    exact harb
  rw [State.settle_setArb nothing due]
  refine State.settle_report hs due ?_ ?_
  · subst ht
    exact State.ports_freed (v := v) hp hq rfl rfl rfl
  · subst ht
    have report : (z.freed i v).doneReport m c o = s.doneReport m c o := by
      unfold State.doneReport State.link
      rw [show (z.freed i v).links = s.links from hl]
    unfold State.reported
    dsimp only
    rw [report, show (z.freed i v).links = s.links from hl]

/-- A cue that keeps its slot, not WAITING, as it frees what it held leaves nothing to do. -/
theorem State.settle_freed_kept (hs : s.Settled) (hw : c.state ≠ .waiting)
    (ht : t = { z.freed i v with
      sched := { (z.freed i v).sched with table := z.sched.table.set i (some c) }, display := d }) : t.setArb.settle = t := by
  obtain ⟨state, check⟩ := z.freedBy_store (.slot i) v
  have with_slot : z.WithSlot t i c := by
    subst ht
    exact .of_set rfl rfl rfl state check
  have nothing : t.NothingToServe := with_slot.nothingToServe hn (by simp [State.isCandidate, hw])
  have due : t.sched.arbDue = false := by
    subst ht
    exact harb
  have links : t.links = s.links := by
    subst ht
    exact hl
  have ports : t.ports = t := by
    subst ht
    exact State.ports_freed (v := v) hp hq rfl rfl rfl
  rw [State.settle_setArb nothing due, State.settle_of_ports hs due ports links]

end settles

/-! ### The end of a step (R136, R137, R140) -/

theorem exec_stepEnd_up (h : s.resetHeld = false) (v : Fin 4) : exec (.stepEnd v) s = .next (s.stepEnd v).settle :=
  running_of_up h fun s => (s.stepEnd v).settle

/-- A step that is over leads to the next, or, at the end of the pattern, to its cue. -/
theorem State.stepEnd_next {v : Fin 4} {x : Voice} (hp : (s.tone.voices[v]).playing = true) (hc : (s.tone.voices[v]).countsLeft = 0)
    (hx : (s.tone.voices[v]).nextStep = some x) : s.stepEnd v = s.onVoice v fun _ => x := by
  have isOver : (s.tone.voices[v]).stepOver = true := (Voice.stepOver_iff _).2 ⟨hp, hc⟩
  simp only [State.stepEnd, isOver, if_true, hx]

theorem State.stepEnd_pattern {v : Fin 4} {r : CueRef} (hp : (s.tone.voices[v]).playing = true) (hc : (s.tone.voices[v]).countsLeft = 0)
    (hx : (s.tone.voices[v]).nextStep = none) (hr : (s.sched.voices[v]).holder = some r) :
    s.stepEnd v = (s.stopVoice v).patternEnded r := by
  have isOver : (s.tone.voices[v]).stepOver = true := (Voice.stepOver_iff _).2 ⟨hp, hc⟩
  simp only [State.stepEnd, isOver, if_true, hx, hr]

theorem Voice.nextStep_step {x : Voice} {p : Pattern} {st : ToneStep} (hp : x.copy = some p) (hst : p.steps[x.stepIndex + 1]? = some st) :
    x.nextStep = some { x with stepIndex := x.stepIndex + 1, countsLeft := st.duration * 10000, phase := 0 } := by
  have lt : x.stepIndex + 1 < p.steps.length := (List.getElem?_eq_some_iff.1 hst).1
  simp only [Voice.nextStep, hp, if_pos lt, stepCounts, hst]

theorem Voice.nextStep_loop {x : Voice} {p : Pattern} {st : ToneStep} (hp : x.copy = some p) (hlast : p.steps.length ≤ x.stepIndex + 1)
    (hl : x.loopIndex < p.loops) (hst : p.steps[0]? = some st) : x.nextStep = some
      { x with stepIndex := 0, loopIndex := x.loopIndex + 1, countsLeft := st.duration * 10000, phase := 0 } := by
  simp only [Voice.nextStep, hp, if_neg (Nat.not_lt.2 hlast), if_pos hl, stepCounts, hst]

theorem Voice.nextStep_end {x : Voice} {p : Pattern} (hp : x.copy = some p) (hlast : p.steps.length ≤ x.stepIndex + 1)
    (hl : p.loops ≤ x.loopIndex) : x.nextStep = none := by
  simp only [Voice.nextStep, hp, if_neg (Nat.not_lt.2 hlast), if_neg (Nat.not_lt.2 hl)]

/-- The end of the pattern of a feedback cue is the end of its play. -/
theorem State.patternEnded_feedback {r : CueRef} (hc : s.cue? r = some c) (hst : c.state = .playing) (hph : c.phase = some .main)
    (ht : c.tone ≠ none) (hsp : c.speechPlays = false) : s.patternEnded r = s.endOfPlay r := by
  have timing : c.timing? = none := by
    unfold Cue.timing?
    cases c.tone <;> simp [hsp]
  simp only [State.patternEnded, hc, hst, hph, timing, if_true, Option.isSome_iff_ne_none.2 ht]

/-- Settles O37. -/
theorem stepEndMovesPattern : Obligations.StepEndMovesPattern := by
  intro s v p hs
  refine ⟨fun h => ?_, fun hp hc hcopy => ⟨fun st hst => ?_, fun st hlast hl hst => ?_, fun c hv hlast hl hfb hst hph ht hsp hh hpath hn => ?_⟩⟩
  · have still : s.stepEnd v = s := by
      refine if_neg fun isOver => ?_
      obtain ⟨hp, hc⟩ := (Voice.stepOver_iff _).1 isOver
      exact h.elim (fun h => Bool.false_ne_true (h.symm.trans hp)) fun h => h hc
    rw [exec_stepEnd_up hs.1, still, State.settle_of_settled _ hs.2]
  · rw [exec_stepEnd_up hs.1, State.stepEnd_next hp hc (Voice.nextStep_step hcopy hst)]
    exact congrArg _ (State.settle_of_settled _ hs.2)
  · rw [exec_stepEnd_up hs.1, State.stepEnd_next hp hc (Voice.nextStep_loop hcopy (List.getElem?_eq_none_iff.1 hlast) hl hst)]
    exact congrArg _ (State.settle_of_settled _ hs.2)
  · have ended := State.stepEnd_pattern hp hc (Voice.nextStep_end hcopy (List.getElem?_eq_none_iff.1 hlast) hl) hh
    have hcue : (s.stopVoice v).cue? .feedback = some c := hfb
    have voice : (s.stopVoice v).voiceOf .feedback = some v := by
      rw [State.voiceOf, find_allVoices]
      refine ⟨decide_eq_true hh, fun w hw => ?_⟩
      rw [hv] at hw
      exact absurd hw (Fin.not_lt_zero w)
    have free := State.freeResources_frees voice (.inr nofun)
    obtain ⟨eq, ring⟩ := (((s.stopVoice v).freedBy .feedback (some v)).setCue .feedback none).endDisplay_eq
    have ends : s.stepEnd v =
        (((s.stopVoice v).freedBy .feedback (some v)).setCue .feedback none).leftPlaying.chooseRing.setArb := by
      rw [ended, State.patternEnded_feedback hcue hst hph ht hsp]
      simp only [State.endOfPlay, hcue, free]
      exact State.setArb_endDisplay (((s.stopVoice v).freedBy .feedback (some v)).setCue .feedback none)
    rw [State.freedBy_voice (s := s.stopVoice v) hpath] at eq ends
    generalize State.chooseRing _ = t at eq ends
    have eq : t = { s with
        tone := { s.tone with voices := s.tone.voices.set v idleVoice },
        sched := { s.sched with
          feedback := { pending := none, current := none },
          voices := s.sched.voices.set v { s.sched.voices[v] with holder := none } },
        display := { s.display with
          idleTimer := if t.anyPlaying then s.display.idleTimer else some (s.now + 60000000),
          ringEffect := t.display.ringEffect } } := by
      refine eq.trans ?_
      have idle : s.sched.feedback.pending = none := hn.2
      simp only [State.stopVoice, State.onVoice, State.onTone, State.setCue, State.onSched, Sched.setCue, Vector.set_set, idle]
      rfl
    refine ⟨t, ?_, eq⟩
    rw [exec_stepEnd_up hs.1, ends, State.settle_setArb ?_ (by rw [eq]; exact hs.2.1), State.settle_of_settled]
    · rw [eq]
      exact hs.2
    · rw [eq]
      exact ⟨hn.1, rfl⟩

/-! ### The end of a table cue's pattern (R71 to R75) -/

theorem Cue.timing?_eq {part : TonePart} (h : c.tone = some part) : c.timing? = if c.speechPlays then some part.timing else none := by
  simp only [Cue.timing?, h]

/-- The end of the pattern is the end of a play with tone alone, of TAIL, and of MAIN under WITH with the utterance ended. -/
theorem State.patternEnded_ends {r : CueRef} {part : TonePart} (hc : s.cue? r = some c) (hst : c.state = .playing) (ht : c.tone = some part)
    (h : c.phase = some .tail ∨ (c.phase = some .main ∧ c.speechPlays = false) ∨
      (c.phase = some .main ∧ part.timing = .together ∧ c.utteranceEnded = true)) : s.patternEnded r = s.endOfPlay r := by
  have timing := Cue.timing?_eq ht
  simp only [State.patternEnded, hc, hst, if_true]
  rcases h with h | ⟨h, hsp⟩ | ⟨h, htg, hu⟩
  · rw [h]
  · rw [h, timing, hsp]
    simp [ht]
  · rw [h, timing]
    cases c.speechPlays <;> simp [htg, hu, ht]

/-- Freeing what slot `i` holds after its voice was stopped. -/
theorem State.stopVoice_freed {v : Fin 4} : (s.stopVoice v).freed i (some v) = s.freed i (some v) := by
  unfold State.freed
  simp only [State.stopVoice, State.onVoice, State.onTone, Vector.set_set]
  rfl

theorem State.voiceOf_holder {r : CueRef} {v : Fin 4} (h : s.voiceOf r = some v) : (s.sched.voices[v]).holder = some r := by
  rw [State.voiceOf, find_allVoices] at h
  exact of_decide_eq_true h.1

/-- Settles O38. -/
theorem patternEndsPhase : Obligations.PatternEndsPhase := by
  intro s v i c m p part hs hplaying hcounts hcopy hlast hloops hvoice hc ho hst ht quiet
  have ended := State.stepEnd_pattern hplaying hcounts (Voice.nextStep_end hcopy hlast hloops) (State.voiceOf_holder hvoice)
  have hcue : (s.stopVoice v).cue? (.slot i) = some c := hc
  have timing := Cue.timing?_eq ht
  refine ⟨fun f rest hph hsp hutt hcount hstream => ?_, fun hph hsp htg hu => ?_, fun hph hnone hfree => ?_⟩
  · have main : (s.stopVoice v).patternEnded (.slot i) =
        ((s.stopVoice v).setCue (.slot i) (some { c with phase := some .main })).beginUtterance (.slot i) := by
      simp only [State.patternEnded, hcue, hst, hph, if_true, State.modCue, Option.map_some]
    have speaks := State.beginUtterance_fragment (s := (s.stopVoice v).setCue (.slot i) (some { c with phase := some .main }))
      (r := .slot i) hutt (by omega) hstream
    have ports := State.ports_streams (s := (s.stopVoice v).setCue (.slot i) (some { c with phase := some .main })) (f := f)
      (es := .fragment f :: rest) hs.2.2.1 (by omega)
    rw [exec_stepEnd_up hs.1, ended, main, speaks, State.settle_of_ports hs.2 (by exact hs.2.1) ports rfl]
    rfl
  · have recorded : (s.stopVoice v).patternEnded (.slot i) = (s.stopVoice v).setCue (.slot i) (some { c with patternEnded := true }) := by
      simp only [State.patternEnded, hcue, hst, hph, if_true, timing, hsp, htg, hu, State.modCue, Option.map_some]
      rfl
    rw [exec_stepEnd_up hs.1, ended, recorded]
    exact congrArg _ (State.settle_of_settled _ hs.2)
  · have ends : s.stepEnd v = (s.stopVoice v).endOfPlay (.slot i) := ended.trans (State.patternEnded_ends hcue hst ht hph)
    have voice : (s.stopVoice v).voiceOf (.slot i) = some v := hvoice
    have nothing : (s.stopVoice v).NothingToServe := hnone
    have ports : (s.stopVoice v).checkCanBegin = false ∧
        ((s.stopVoice v).store.port = .idle → (s.stopVoice v).eligibleS = false ∧ (s.stopVoice v).eligibleG = false) :=
      ⟨hs.2.2.1, hs.2.2.2.1⟩
    have freed := State.stopVoice_freed (s := s) (i := i) (v := v)
    rw [exec_stepEnd_up hs.1, ends]
    refine ⟨fun hr hq => ?_, fun hr hg => ?_, fun hr hg hd hq => ?_, fun q hr hg hd he hsp hq hu hpath hv hres hlow => ?_⟩
    · obtain ⟨t, end_eq, eq, -⟩ := State.endOfPlay_reports hcue voice (.inr nofun) ho (m := m) hq (.inl hr)
      have one_left : { c with repeatsLeft := c.repeatsLeft - 1 } = c := by rw [show c.repeatsLeft - 1 = c.repeatsLeft by omega]
      refine ⟨t, ?_, ?_⟩
      · rw [end_eq]
        exact congrArg _ (State.settle_freed_reported (s := s) (z := s.stopVoice v)
          (c := { c with repeatsLeft := c.repeatsLeft - 1 }) rfl nothing hs.2.1 (fun _ => ports) hfree hs.2 eq)
      · rw [freed, one_left] at eq
        exact eq
    · obtain ⟨t, end_eq, eq, -⟩ := State.endOfPlay_gaps hcue voice (.inr nofun) hr hg
      refine ⟨t, ?_, ?_⟩
      · rw [end_eq]
        exact congrArg _ (State.settle_freed_kept (s := s) (z := s.stopVoice v) rfl nothing hs.2.1 (fun _ => ports) hfree hs.2 (by exact nofun) eq)
      · rw [freed] at eq
        exact eq
    · obtain ⟨t, end_eq, eq, -⟩ := State.endOfPlay_reports hcue voice (.inr nofun) ho (m := m) hq (.inr ⟨hg, hd⟩)
      refine ⟨t, ?_, ?_⟩
      · rw [end_eq]
        exact congrArg _ (State.settle_freed_reported (s := s) (z := s.stopVoice v)
          (c := { c with repeatsLeft := c.repeatsLeft - 1 }) rfl nothing hs.2.1 (fun _ => ports) hfree hs.2 eq)
      · rw [freed] at eq
        exact eq
    · obtain ⟨t, end_eq, eq, -⟩ := State.endOfPlay_replays hcue voice (.inr nofun) hr hg hd
      rw [freed] at eq
      have path : (s.freed i (some v)).sched.path = s.sched.path := if_neg hpath
      have voices : t.sched.voices = s.sched.voices.set v ⟨none, none⟩ := by
        have idle : ({ s.sched.voices[v] with holder := none } : Resource) = ⟨none, none⟩ := congrArg (Resource.mk none) hres
        rw [eq, ← idle]
        rfl
      have with_slot : s.WithSlot t i c.replay := by
        obtain ⟨state, check⟩ := s.freedBy_store (.slot i) (some v)
        rw [eq]
        exact .of_set rfl rfl rfl state check
      have due : t.sched.arbDue = false := by
        rw [eq]
        exact hs.2.1
      have pattern : t.tone.patterns[part.pattern] = some q := by
        rw [eq]
        exact hq
      have unreserved : t.Unreserved (.slot i) := by
        refine ⟨?_, fun w => ?_⟩
        · rw [eq]
          show (s.freed i (some v)).sched.path.reservation ≠ _
          rw [path]
          exact hu.1
        · rw [voices, Vector.getElem_set_fin]
          split
          · exact nofun
          · exact hu.2 w
      have available : t.availableVoice (.slot i) = some v :=
        State.availableVoice_lowest unreserved hv (by rw [voices, Vector.getElem_set_fin, if_pos rfl]) fun w hw hlt => by
          rw [voices, Vector.getElem_set_fin, if_neg (ne_of_lt hlt)]
          exact hlow w hw hlt
      have own : s.sched.voices[v] = ⟨some (.slot i), none⟩ := by
        have h := State.voiceOf_holder hvoice
        cases hx : s.sched.voices[v] with
        | mk holder reservation =>
          rw [hx] at h hres
          exact congrArg₂ Resource.mk h hres
      have mine : t.sched.voices.set v { t.sched.voices[v] with holder := some (.slot i) } = s.sched.voices := by
        rw [voices, Vector.set_set, Vector.getElem_set_fin, if_pos rfl, ← own]
        exact Vector.set_getElem_self _
      have give : (t.given (.slot i) (some v) c.replay).dropReservations (.slot i) =
          { t with sched := { t.sched with voices := s.sched.voices } } := by
        have need : t.needsPath c.replay = false := by simp [State.needsPath, Cue.replay, hsp]
        rw [State.given_unreserved unreserved, State.given_eq, need]
        simp only [Bool.false_eq_true, if_false]
        rw [mine]
      obtain ⟨x, served, eqx, -⟩ := State.serve_toned with_slot.slot rfl ho hsp ht pattern available give fun x hx => by
        rw [← hvoice, State.voiceOf, hx]
        rfl
      have settled : t.setArb.settleArb = x.withPattern v part.pattern q :=
        with_slot.settles hnone due (State.isCandidate_of_idle rfl (.inr (by simp [State.needsPath, Cue.replay, hsp]))) he ho served
          (by rw [eqx]; exact due) (by rw [eqx, eq]; exact hnone.2)
      have final : x.withPattern v part.pattern q = { s with
          sched := s.sched.withStart i { c.soundingAs false .main s.sched.nextStart with repeatsLeft := c.repeatsLeft - 1 } m,
          tone := { s.tone with voices := s.tone.voices.set v (voiceAt part.pattern q) },
          display := s.displayOfStart (x.withPattern v part.pattern q) } := by
        rw [State.withPattern, eqx, eq, State.freed_eq, State.freedBy_voice hpath]
        simp only [Sched.withStart, Vector.set_set]
        rfl
      refine ⟨x.withPattern v part.pattern q, ?_, final⟩
      rw [end_eq, State.settle_of_arb_settled settled]
      rw [final]
      exact hs.2

end Sys2Proof.Machine
end

section
/-! SUPPORT. The output sample event (R79, R81, R125 to R127, R149): the SILENT flags that only it sets, the Stream, and the end of an
utterance. -/

namespace Sys2Proof.Machine

variable {s t u : State} {m : Side} {i : Fin 24} {c : Cue}

/-! ### SILENT is set by the sample event alone (R79) -/

/-- The SILENT flag of the cue in a slot. -/
def State.silentAt (s : State) (i : Fin 24) : Option Bool := (s.sched.table[i]).map fun c => c.flags.silent

theorem State.silentAt_of_table (h : t.sched.table = s.sched.table) : t.silentAt = s.silentAt := by
  funext i
  rw [State.silentAt, State.silentAt, h]

theorem State.silentAt_setCue (s : State) (r : CueRef) (o : Option Cue)
    (h : ∀ i, r = .slot i → o.map (fun c => c.flags.silent) = s.silentAt i) : (s.setCue r o).silentAt = s.silentAt := by
  funext i
  rw [State.silentAt, State.setCue_table]
  split
  · exact h i ‹_›
  · rfl

theorem State.silentAt_modCue (s : State) (r : CueRef) (f : Cue → Cue) (h : ∀ c : Cue, (f c).flags.silent = c.flags.silent) :
    (s.modCue r f).silentAt = s.silentAt := by
  refine s.silentAt_setCue r _ fun i hi => ?_
  subst hi
  show ((s.sched.table[i]).map f).map _ = _
  rw [State.silentAt, Option.map_map]
  exact Option.map_congr fun c _ => h c

theorem State.silentAt_slot (h : s.sched.table[i] = some c) : s.silentAt i = some c.flags.silent := by
  rw [State.silentAt, h]
  rfl

theorem State.silentAt_setSlot {d : Cue} (hc : s.sched.table[i] = some c) (h : d.flags.silent = c.flags.silent) :
    (s.setCue (.slot i) (some d)).silentAt = s.silentAt :=
  s.silentAt_setCue _ _ fun j hj => by
    cases hj
    rw [State.silentAt_slot hc, ← h]
    rfl

theorem State.silentAt_endReservations (s : State) (r : CueRef) : (s.endReservations r).silentAt = s.silentAt := by
  unfold State.endReservations
  split <;> exact State.silentAt_of_table rfl

theorem State.silentAt_releaseHeld (s : State) (m : Side) : (s.releaseHeld m).silentAt = s.silentAt := by
  funext i
  rw [State.silentAt, State.silentAt, State.releaseHeld_slot, Option.map_map]
  refine Option.map_congr fun c _ => ?_
  simp only [Function.comp_apply]
  split <;> rfl

theorem State.silentAt_leftPlaying (s : State) : s.leftPlaying.silentAt = s.silentAt :=
  State.silentAt_of_table (congrArg Sched.table s.leftPlaying_table)

theorem State.silentAt_endDisplay (s : State) : s.leftPlaying.chooseRing.silentAt = s.silentAt := s.silentAt_leftPlaying

theorem State.silentAt_enterReporting (s : State) (i : Fin 24) (o : CueOutcome) : (s.enterReporting i o).silentAt = s.silentAt := by
  unfold State.enterReporting
  split
  next => rfl
  next c hc =>
    have record : ((s.setCue (.slot i) (some (c.toReporting o))).endReservations (.slot i)).silentAt = s.silentAt :=
      (State.silentAt_endReservations _ _).trans (State.silentAt_setSlot hc rfl)
    dsimp only
    split
    · refine (State.silentAt_releaseHeld _ _).trans (.trans ?_ record)
      exact State.silentAt_of_table rfl
    · exact record

theorem State.silentAt_enterEnding (s : State) (r : CueRef) (e : EndCause) : (s.enterEnding r e).silentAt = s.silentAt :=
  (State.silentAt_endDisplay _).trans (s.silentAt_modCue r _ fun _ => rfl)

theorem State.silentAt_endGap (s : State) (i : Fin 24) : (s.endGap i).silentAt = s.silentAt := by
  unfold State.endGap
  split
  next => rfl
  next c hc =>
    split
    · exact s.silentAt_enterReporting i _
    · refine .trans ?_ (State.silentAt_setSlot (d := { c with state := .waiting, gapTimer := none }) hc rfl)
      exact State.silentAt_of_table rfl

theorem State.silentAt_enterGap (hc : s.sched.table[i] = some c) : (s.enterGap i c).silentAt = s.silentAt := by
  unfold State.enterGap
  dsimp only
  split
  · exact (State.silentAt_endGap _ i).trans (State.silentAt_setSlot hc rfl)
  · exact State.silentAt_setSlot hc rfl

theorem State.silentAt_freeResources (s : State) (r : CueRef) : (s.freeResources r).silentAt = s.silentAt :=
  State.silentAt_of_table (s.freeResources_table r)

theorem State.silentAt_endOfPlay (s : State) (r : CueRef) : (s.endOfPlay r).silentAt = s.silentAt := by
  unfold State.endOfPlay
  split
  next => rfl
  next c hc =>
    refine (State.silentAt_endDisplay _).trans (.trans ?_ (s.silentAt_freeResources r))
    match r, hc with
    | .slot i, hc =>
      have slot : (s.freeResources (.slot i)).sched.table[i] = some c := (congrArg (·[i]) (s.freeResources_table (.slot i))).trans hc
      dsimp only
      split
      · exact State.silentAt_enterGap slot
      · exact State.silentAt_enterReporting _ i _
    | .narration, _ => exact State.silentAt_setCue _ _ _ fun i hi => nomatch hi
    | .feedback, _ => exact State.silentAt_setCue _ _ _ fun i hi => nomatch hi

theorem State.silentAt_beginTone (s : State) (r : CueRef) : (s.beginTone r).silentAt = s.silentAt := by
  unfold State.beginTone State.beginPattern
  repeat' split
  all_goals exact State.silentAt_of_table rfl

theorem State.silentAt_utteranceEnded (s : State) (r : CueRef) : (s.utteranceEnded r).silentAt = s.silentAt := by
  unfold State.utteranceEnded
  split
  next => rfl
  next c _ =>
    split
    · split
      · split
        · exact s.silentAt_endOfPlay r
        · exact s.silentAt_modCue r _ fun _ => rfl
      · refine (State.silentAt_beginTone _ r).trans ?_
        exact (State.silentAt_of_table rfl).trans (s.silentAt_modCue r (fun c => { c with phase := some .tail }) fun _ => rfl)
      · exact s.silentAt_endOfPlay r
    · rfl

theorem State.silentAt_beginUtterance (s : State) (r : CueRef) : (s.beginUtterance r).silentAt = s.silentAt := by
  unfold State.beginUtterance
  split
  · exact s.silentAt_utteranceEnded r
  · exact State.silentAt_of_table rfl

theorem State.silentAt_beginFirstPhase (s : State) (r : CueRef) (c : Cue) : (s.beginFirstPhase r c).silentAt = s.silentAt := by
  have tone : (match c.timing? with
      | some .after => s
      | _ => if c.tone.isSome then s.beginTone r else s).silentAt = s.silentAt := by
    split
    · rfl
    · split
      · exact s.silentAt_beginTone r
      · rfl
  unfold State.beginFirstPhase
  dsimp only
  split
  · exact (State.silentAt_beginUtterance _ r).trans tone
  · exact tone

theorem State.silentAt_assembleFor (s : State) (r : CueRef) (c : Cue) : (s.assembleFor r c).silentAt = s.silentAt := by
  unfold State.assembleFor State.markTableCue
  dsimp only
  split
  · split
    · exact State.silentAt_modCue (s.setUtt _) _ _ fun _ => rfl
    · exact State.silentAt_of_table rfl
  · exact State.silentAt_of_table rfl

theorem Cue.started_silent (c : Cue) (b : Bool) (n now : Nat) : (c.started b n now).flags.silent = c.flags.silent := by
  unfold Cue.started
  dsimp only
  split <;> rfl

theorem State.silentAt_placed {r : CueRef} (hc : s.candidate? r = some c) (v : Option (Fin 4)) : (s.placed r v c).silentAt = s.silentAt := by
  have table : ((s.given r v c).dropReservations r).sched.table = s.sched.table := by
    rw [State.given_eq]
    rfl
  have started : (s.placed r v c).sched.table =
      (((s.given r v c).dropReservations r).sched.setCue r (some (c.started (s.needsPath c) s.sched.nextStart s.now))).table := by
    show ((Sched.serveMarker _ c).placeStarted r _).table = _
    cases r <;> simp only [Sched.placeStarted, Sched.setCue, Sched.serveMarker_table] <;> rfl
  refine (State.silentAt_of_table (started.trans (?_ : _ = (s.setCue r (some (c.started (s.needsPath c) s.sched.nextStart s.now))).sched.table))).trans
    (s.silentAt_setCue r _ fun i hi => ?_)
  · cases r <;> simp only [State.setCue, State.onSched, Sched.setCue, table]
  · subst hi
    rw [State.silentAt_slot (c := c) hc, Option.map_some, Cue.started_silent]

theorem State.silentAt_startCue (s : State) (r : CueRef) (v : Option (Fin 4)) : (s.startCue r v).silentAt = s.silentAt := by
  cases hc : s.candidate? r with
  | none => simp only [State.startCue, hc]
  | some c =>
    rw [State.startCue_eq v hc]
    have display (x : State) : x.wakeBacklight.stopIdle.chooseRing.silentAt = x.silentAt := State.silentAt_of_table rfl
    refine (State.silentAt_beginFirstPhase _ r _).trans ((display _).trans (.trans ?_ (State.silentAt_placed hc v)))
    split
    · exact State.silentAt_assembleFor _ r c
    · rfl

theorem State.silentAt_preemptVictim (s : State) (r : CueRef) : (s.preemptVictim r).silentAt = s.silentAt := by
  unfold State.preemptVictim
  split
  next => rfl
  next c hc =>
    refine (State.silentAt_enterEnding _ r _).trans (s.silentAt_setCue r _ fun i hi => ?_)
    subst hi
    rw [State.silentAt_slot (c := c) hc]
    rfl

theorem State.silentAt_foldl {α : Type} {f : State → α → State} (hf : ∀ (t : State) a, (f t a).silentAt = t.silentAt) (l : List α)
    (s : State) : (l.foldl f s).silentAt = s.silentAt := by
  induction l generalizing s with
  | nil => rfl
  | cons a l ih => exact (ih _).trans (hf s a)

theorem State.silentAt_serve (s : State) (r : CueRef) : (s.serve r).silentAt = s.silentAt := by
  unfold State.serve
  split
  next => rfl
  next c _ =>
    split
    · dsimp only
      split
      · rfl
      · split
        · rw [State.preempt_eq]
          exact (State.silentAt_of_table rfl).trans (State.silentAt_foldl State.silentAt_preemptVictim _ s)
        · exact s.silentAt_startCue r _
    · rfl

theorem State.silentAt_arbitrate (s : State) : s.arbitrate.silentAt = s.silentAt := by
  refine .trans ?_ (State.silentAt_foldl State.silentAt_serve s.candidates s)
  unfold State.arbitrate State.serveFeedback
  split
  · exact State.silentAt_startCue _ _ _
  · rfl

theorem State.silentAt_settleArb (s : State) : s.settleArb.silentAt = s.silentAt := by
  have runs (n : Nat) : (State.arbitrateFor n s).silentAt = s.silentAt := by
    induction n generalizing s with
    | zero => exact State.silentAt_of_table rfl
    | succ n ih =>
      unfold State.arbitrateFor
      split
      · exact ((ih _).trans (State.silentAt_arbitrate _)).trans (State.silentAt_of_table rfl)
      · rfl
  exact runs _

theorem State.silentAt_settle (s : State) : s.settle.silentAt = s.silentAt :=
  (State.silentAt_of_table (congrArg Sched.table s.settle_sched)).trans s.silentAt_settleArb

/-! ### The cues that sound unheard (R79, R149) -/

/-- The record of a cue at a sample event of state `s` at which it sounds. -/
def State.heardAs (s : State) (c : Cue) : Cue := if s.silentNow c then c.markSilent else c

theorem State.heardAs_twice (s : State) (c : Cue) : s.heardAs (s.heardAs c) = s.heardAs c := by
  unfold State.heardAs
  cases h : s.silentNow c with
  | false => simp [h]
  | true => simp [Cue.markSilent]

theorem State.modCue_slot (s : State) (j i : Fin 24) (f : Cue → Cue) :
    (s.modCue (.slot j) f).sched.table[i] = if j = i then (s.sched.table[i]).map f else s.sched.table[i] := by
  rw [State.modCue, State.setCue_table]
  by_cases h : j = i
  · subst h
    rw [if_pos rfl, if_pos rfl]
    rfl
  · rw [if_neg (by simp [h]), if_neg h]

/-- The marking of a list of sounding cues reaches the slots it names. -/
theorem State.markSilents_slots (s : State) (l : List CueRef) (i : Fin 24) (t : State)
    (h : t.sched.table[i] = s.sched.table[i] ∨ t.sched.table[i] = (s.sched.table[i]).map s.heardAs) :
    (l.foldl (fun t r => t.markTableCue r s.heardAs) t).sched.table[i] =
      if .slot i ∈ l then (s.sched.table[i]).map s.heardAs else t.sched.table[i] := by
  induction l generalizing t with
  | nil => simp
  | cons r l ih =>
    rw [List.foldl_cons]
    have step : (t.markTableCue r s.heardAs).sched.table[i] =
        if r = .slot i then (s.sched.table[i]).map s.heardAs else t.sched.table[i] := by
      match r with
      | .narration => rw [if_neg nofun]; rfl
      | .feedback => rw [if_neg nofun]; rfl
      | .slot j =>
        show (t.modCue (.slot j) s.heardAs).sched.table[i] = _
        rw [State.modCue_slot]
        by_cases hj : j = i
        · subst hj
          rw [if_pos rfl, if_pos rfl]
          rcases h with h | h
          · rw [h]
          · rw [h, Option.map_map]
            exact Option.map_congr fun c _ => s.heardAs_twice c
        · rw [if_neg hj, if_neg (by simp [hj])]
    rw [ih]
    · rw [step]
      by_cases hr : r = .slot i
      · simp [hr]
      · have : CueRef.slot i ≠ r := Ne.symm hr
        simp [hr, this]
    · rw [step]
      split
      · exact .inr rfl
      · exact h

theorem State.markSilents_slot (s : State) (i : Fin 24) : s.markSilents.sched.table[i] =
    if .slot i ∈ s.sounding then (s.sched.table[i]).map s.heardAs else s.sched.table[i] :=
  State.markSilents_slots s s.sounding i s (.inl rfl)

/-- A table cue sounds on the path while the Stream is not IDLE, and on a voice that plays. -/
theorem State.mem_sounding {r : CueRef} : r ∈ s.sounding ↔ (s.sched.path.holder = some r ∧ s.stream.state ≠ .idle) ∨
    ∃ v : Fin 4, (s.sched.voices[v]).holder = some r ∧ (s.tone.voices[v]).playing = true := by
  have all (v : Fin 4) : v ∈ allVoices := by revert v; decide
  unfold State.sounding
  rw [List.mem_append, List.mem_flatMap]
  refine or_congr ?_ ⟨fun ⟨v, _, hv⟩ => ⟨v, ?_⟩, fun ⟨v, hh, hp⟩ => ⟨v, all v, ?_⟩⟩
  · by_cases h : s.stream.state = .idle <;> simp [h]
  · split at hv
    · exact ⟨Option.mem_toList.1 hv, ‹_›⟩
    · simp at hv
  · rw [if_pos hp]
    exact Option.mem_toList.2 hh

/-- Every cue keeps its slot and its SILENT flag. -/
def State.KeepsSilent (s t : State) : Prop :=
  ∀ (i : Fin 24) c, s.sched.table[i] = some c → ∃ d, t.sched.table[i] = some d ∧ d.id = c.id ∧ d.flags.silent = c.flags.silent

theorem State.KeepsSilent.trans (h : s.KeepsSilent t) (k : t.KeepsSilent u) : s.KeepsSilent u := fun i c hc => by
  obtain ⟨d, hd, hid, hs⟩ := h i c hc
  obtain ⟨e, he, hid', hs'⟩ := k i d hd
  exact ⟨e, he, hid'.trans hid, hs'.trans hs⟩

theorem State.KeepsSilent.of_table (h : t.sched.table = s.sched.table) : s.KeepsSilent t := fun i c hc => ⟨c, by rw [h, hc], rfl, rfl⟩

theorem State.KeepsSilent.of_but {r : CueRef} (h : s.SameCuesBut r t) (hs : t.silentAt = s.silentAt) : s.KeepsSilent t := fun i c hc => by
  have rel := h i
  rw [hc] at rel
  have post : ∃ d, t.sched.table[i] = some d ∧ c.SamePost d := by
    cases hd : t.sched.table[i] with
    | none => simp [hd, SlotRel] at rel
    | some d =>
      rw [hd] at rel
      split at rel
      · exact ⟨d, rfl, rel⟩
      · exact ⟨d, rfl, rel.1⟩
  obtain ⟨d, hd, hpost⟩ := post
  have silent := congrFun hs i
  rw [State.silentAt_slot hd, State.silentAt_slot hc] at silent
  exact ⟨d, hd, by rw [hpost.1], Option.some.inj silent⟩

theorem State.settle_keepsSilent (s : State) : s.KeepsSilent s.settle := by
  have arb : s.KeepsSilent s.settleArb := .of_but (r := .narration) (s.settleArb_cues.but _) s.silentAt_settleArb
  exact arb.trans (.of_table (congrArg Sched.table s.settle_sched))

/-- The event's own marking aside, a sample event keeps every cue's SILENT flag. -/
theorem State.sampleEvent_keepsSilent (s : State) : s.markSilents.KeepsSilent s.sampleEvent := by
  have stalled (t : State) (r : CueRef) : t.KeepsSilent (t.markTableCue r Cue.markStalled) := by
    refine .of_but (r := r) (t.markTableCue_but r _ fun _ => ⟨rfl, fun h => h, fun h => h⟩) ?_
    unfold State.markTableCue
    split
    · exact t.silentAt_modCue _ _ fun _ => rfl
    · rfl
  have ended (t : State) (r : CueRef) : t.KeepsSilent (t.utteranceEnded r) := .of_but (t.utteranceEnded_but r) (t.silentAt_utteranceEnded r)
  have sound : s.markSilents.KeepsSilent ((s.markSilents.onMixer fun x =>
      { x with mixed := s.mix (s.stream.event s.utt.entries).out }).onStream fun _ => (s.stream.event s.utt.entries).stream) := .of_table rfl
  unfold State.sampleEvent
  dsimp only
  split
  next => exact sound
  next r _ =>
    split
    · split
      · exact (sound.trans (stalled _ r)).trans (ended _ r)
      · exact sound.trans (ended _ r)
    · split
      · exact sound.trans (stalled _ r)
      · exact sound

theorem Cue.purged_iff_cause : c.purged = false ↔ ¬(c.state = .ending ∧ c.endCause = some .purged) := by
  rw [← Cue.purged_iff, Bool.not_eq_true]

/-- Settles O40. -/
theorem silentMarked : Obligations.SilentMarked := by
  intro s hs
  refine ⟨_, exec_outputSampleEvent hs.1, ?_⟩
  intro i c hc own sounds unheard purge
  have level : s.levelUsed c = if c.cls = .alarm then max own 2 else own := by
    dsimp only [own]
    rw [State.levelUsed]
    cases c.origin with
    | machine m => rfl
    | panel =>
      simp only [State.panelLevel]
      cases s.focus <;> rfl
  have silent : s.silentNow c = true ↔ unheard ∧ ¬purge := by
    simp only [State.silentNow, Bool.and_eq_true, Bool.not_eq_true', Cue.purged_iff_cause, Bool.or_eq_true, decide_eq_true_eq, level]
    exact and_comm
  have marked := s.markSilents_slot i
  rw [hc, Option.map_some] at marked
  have heard : sounds ↔ CueRef.slot i ∈ s.sounding := State.mem_sounding.symm
  have keeps := s.sampleEvent_keepsSilent.trans s.sampleEvent.settle_keepsSilent
  by_cases hsound : CueRef.slot i ∈ s.sounding
  · rw [if_pos hsound] at marked
    obtain ⟨d, hd, hid, hsil⟩ := keeps i _ marked
    refine ⟨d, hd, hid.trans ?_, fun h => ?_, fun h => ?_⟩
    · unfold State.heardAs
      split <;> rfl
    · rw [hsil, State.heardAs, if_pos (silent.2 h.2)]
      rfl
    · rw [hsil, State.heardAs, if_neg fun hn => h ⟨heard.2 hsound, silent.1 hn⟩]
  · rw [if_neg hsound] at marked
    obtain ⟨d, hd, hid, hsil⟩ := keeps i _ marked
    exact ⟨d, hd, hid, fun h => absurd (heard.1 h.1) hsound, fun _ => hsil⟩

end Sys2Proof.Machine
end

section
/-! SUPPORT. The Stream at an output sample event (R81, R124 to R127), and the phases at the end of an utterance (R71 to R75). -/

namespace Sys2Proof.Machine

variable {s t u : State} {m : Side} {i : Fin 24} {c : Cue}

/-! ### What settling leaves when no arbitration is due -/

/-- The port's work leaves channel S where it is. -/
theorem State.ports_chanS (s : State) : s.ports.store.chanS = s.store.chanS := by
  have decide (t : State) : t.portDecide.store.chanS = t.store.chanS := by
    unfold State.portDecide
    split
    · split
      · rfl
      · split <;> rfl
    · rfl
  have begins (t : State) : t.tryBeginCheck.store.chanS = t.store.chanS := by
    unfold State.tryBeginCheck
    split <;> rfl
  have race (t : State) : t.grantRace.store.chanS = t.store.chanS := by
    unfold State.grantRace
    split <;> rfl
  rw [State.ports, decide, begins, race]

/-- What settling leaves of a state that no arbitration is due in. -/
theorem State.settle_keeps (h : s.sched.arbDue = false) : s.settle.sched = s.sched ∧ s.settle.stream = s.stream ∧
    s.settle.utt = s.utt ∧ s.settle.tone = s.tone ∧ s.settle.store.chanS = s.store.chanS := by
  rw [State.settle_of_arb (State.settleArb_of_not_due _ h)]
  obtain ⟨l, hl, -⟩ := s.ports.txChoose_eq .w
  obtain ⟨k, hk, -⟩ := (s.ports.txChoose .w).txChoose_eq .d
  rw [hk, hl]
  have frame := s.ports_eq
  exact ⟨congrArg (·.sched) frame, congrArg (·.stream) frame, congrArg (·.utt) frame, congrArg (·.tone) frame, s.ports_chanS⟩

/-- Settling after arbitrations that end in `u`: the port's work, and links that have nothing to send. -/
theorem State.settle_of_arb_ports {y : State} (hs : s.Settled) (h : t.settleArb = y) (hports : y.ports = u) (hl : u.links = s.links) :
    t.settle = u := by
  have rest (n : Side) : (u.link n).atRest := by
    unfold State.link
    rw [hl]
    exact hs.link n
  rw [State.settle_of_arb h, hports, State.txChoose_of_rest _ .w (rest .w), State.txChoose_of_rest _ .d (rest .d)]

/-- An assembly reads the catalog alone (R102, R110). -/
theorem State.assembleItems_congr (hst : t.store.state = s.store.state) (hcat : t.store.catalog = s.store.catalog) (x : Context)
    (items : List PhraseItem) : t.assembleItems x items = s.assembleItems x items := by
  have found : t.findFragment = s.findFragment := by
    funext l k
    unfold State.findFragment State.lookupFragment
    rw [hst, hcat]
  have takes : Assembly.take t = Assembly.take s := by
    funext l a p
    unfold Assembly.take
    rw [found]
  unfold State.assembleItems State.languageFlags
  rw [takes, hcat]

/-! ### The Stream's events (R125 to R127) -/

/-- An event at which the Stream has finished an entry: the last of a silence, or the last blend of a fragment without one. -/
def Stream.finishes (st : Stream) (es : List UttEntry) : Prop :=
  (st.part ≠ .samples ∧ st.eventsLeft ≤ 1) ∨
    (st.part = .samples ∧ st.half = .blend ∧ st.bytesLeft = 0 ∧ ∃ e, es[st.index - 1]? = some (.fragment e) ∧ e.silence = 0)

/-- The Stream after an entry. -/
def Stream.finished (st : Stream) : Stream :=
  { st with eventsLeft := 0, part := if st.part = .samples then .trailing else st.part }

theorem Stream.event_of_finishes {st : Stream} {es : List UttEntry} (hp : st.state = .playing) (h : st.finishes es) :
    ∃ out, st.event es = st.finished.advance es out := by
  rcases h with ⟨hpart, hleft⟩ | ⟨hpart, hhalf, hleft, e, he, hs⟩
  · refine ⟨0, ?_⟩
    rw [Stream.event, hp]
    unfold Stream.finished
    rw [if_neg hpart]
    cases hx : st.part with
    | samples => exact absurd hx hpart
    | trailing => simp only [if_pos hleft, hp]
    | silence => simp only [if_pos hleft, hp]
  · refine ⟨(st.lastOutput + st.blendTarget) / 2, ?_⟩
    rw [Stream.event_of_blend _ hp hpart hhalf]
    unfold Stream.blend Stream.finished
    simp only [hleft, lt_irrefl, if_false, he, hs, Nat.mul_zero, hpart, if_true]

theorem Stream.advance_some {st : Stream} {es : List UttEntry} {e : UttEntry} (h : es[st.index]? = some e) (out : Int) :
    st.advance es out = { out, stream := { st with index := st.index + 1 }.takeUp e, underrun := false, ended := false } := by
  simp only [Stream.advance, h]

theorem Stream.advance_none {st : Stream} {es : List UttEntry} (h : es[st.index]? = none) (out : Int) :
    st.advance es out = { out, stream := { st with index := st.index + 1, state := .idle }, underrun := false, ended := true } := by
  simp only [Stream.advance, h]

/-! ### The sample event of the part -/

/-- The sample event up to what the Stream reports to its owner. -/
def State.sampled (s : State) : State :=
  (s.markSilents.onMixer fun x => { x with mixed := s.mix (s.stream.event s.utt.entries).out }).onStream
    fun _ => (s.stream.event s.utt.entries).stream

/-- Only the records of cues are touched by the SILENT flags. -/
theorem State.markSilents_eq (s : State) : ∃ T, s.markSilents = { s with sched := { s.sched with table := T } } := by
  have marks (l : List CueRef) (f : Cue → Cue) (t : State) : ∃ T, l.foldl (fun t r => t.markTableCue r f) t =
      { t with sched := { t.sched with table := T } } := by
    induction l generalizing t with
    | nil => exact ⟨_, rfl⟩
    | cons r l ih =>
      obtain ⟨T, hT⟩ := ih (t.markTableCue r f)
      refine ⟨T, hT.trans ?_⟩
      cases r <;> rfl
  exact marks _ _ _

theorem State.sampled_eq (s : State) : s.sampled = { s with
    sched := { s.sched with table := s.markSilents.sched.table },
    mixer := { s.mixer with mixed := s.mix (s.stream.event s.utt.entries).out },
    stream := (s.stream.event s.utt.entries).stream } := by
  obtain ⟨T, hT⟩ := s.markSilents_eq
  unfold State.sampled
  rw [hT]
  rfl

/-- A table cue's record after the marking: only its flags may have changed. -/
theorem State.sampled_slot (hc : s.sched.table[i] = some c) :
    s.sampled.sched.table[i] = some c ∨ s.sampled.sched.table[i] = some (s.heardAs c) := by
  have marked := s.markSilents_slot i
  rw [hc, Option.map_some] at marked
  rw [s.sampled_eq]
  show s.markSilents.sched.table[i] = some c ∨ s.markSilents.sched.table[i] = some (s.heardAs c)
  rw [marked]
  by_cases h : CueRef.slot i ∈ s.sounding
  · exact .inr (if_pos h)
  · exact .inl (if_neg h)

theorem State.sampleEvent_unreported (hu : (s.stream.event s.utt.entries).underrun = false)
    (he : (s.stream.event s.utt.entries).ended = false) : s.sampleEvent = s.sampled := by
  unfold State.sampleEvent
  simp only [hu, he, Bool.false_eq_true, if_false]
  split <;> rfl

theorem State.sampled_utt (s : State) : s.sampled.utt = s.utt := by rw [s.sampled_eq]

/-- A Stream without an owner reports to nobody. -/
theorem State.sampleEvent_unowned (ho : s.utt.owner = none) : s.sampleEvent = s.sampled := by
  have owner := (congrArg Utterance.owner s.sampled_utt).trans ho
  show (match s.sampled.utt.owner with
    | none => s.sampled
    | some r => _) = _
  rw [owner]

theorem State.sampleEvent_underrun {r : CueRef} (ho : s.utt.owner = some r) (hu : (s.stream.event s.utt.entries).underrun = true)
    (he : (s.stream.event s.utt.entries).ended = false) : s.sampleEvent = s.sampled.markTableCue r Cue.markStalled := by
  have owner := (congrArg Utterance.owner s.sampled_utt).trans ho
  show (match s.sampled.utt.owner with
    | none => s.sampled
    | some r => if (s.stream.event s.utt.entries).ended then
        (if (s.stream.event s.utt.entries).underrun then s.sampled.markTableCue r Cue.markStalled else s.sampled).utteranceEnded r
      else if (s.stream.event s.utt.entries).underrun then s.sampled.markTableCue r Cue.markStalled else s.sampled) = _
  rw [owner]
  simp only [hu, he, if_true, Bool.false_eq_true, if_false]

theorem State.sampleEvent_ended {r : CueRef} (ho : s.utt.owner = some r) (hu : (s.stream.event s.utt.entries).underrun = false)
    (he : (s.stream.event s.utt.entries).ended = true) : s.sampleEvent = s.sampled.utteranceEnded r := by
  obtain ⟨T, hT⟩ := s.markSilents_eq
  unfold State.sampleEvent
  simp only [hu, he, Bool.false_eq_true, if_false, if_true]
  have owner : ((s.markSilents.onMixer fun x => { x with mixed := s.mix (s.stream.event s.utt.entries).out }).onStream
      fun _ => (s.stream.event s.utt.entries).stream).utt.owner = some r := by
    rw [hT]
    exact ho
  rw [owner]
  rfl

/-- An event that is neither an underrun nor the utterance's end gives the Stream its next state. -/
theorem State.sampleEvent_stream (hs : s.AtRest) {e : StreamEvent} (hev : s.stream.event s.utt.entries = e) (hu : e.underrun = false)
    (he : e.ended = false) : s.sampleEvent.settle.stream = e.stream := by
  rw [State.sampleEvent_unreported (hev ▸ hu) (hev ▸ he), (State.settle_keeps (by rw [s.sampled_eq]; exact hs.2.1)).2.1, s.sampled_eq]
  exact congrArg (·.stream) hev

/-- Settles O41. -/
theorem sampleAdvancesStream : Obligations.SampleAdvancesStream := by
  intro s hs hp
  refine ⟨_, exec_outputSampleEvent hs.1, fun hpart hhalf => ⟨fun b rest hring => ?_, fun hring => ?_⟩,
    fun hpart hhalf => ⟨fun hleft => ?_, fun e hleft he hsil => ?_⟩, fun hpart hleft => ?_, fun h => ⟨fun f hf => ?_, fun ms hms => ?_⟩⟩
  · have event := (Stream.event_of_consume s.utt.entries hp hpart hhalf).trans (by rw [Stream.consume, hring])
    rw [State.sampleEvent_stream hs event rfl rfl]
    rfl
  · have event : s.stream.event s.utt.entries =
        { out := 0, stream := { s.stream with stalled := true }, underrun := !s.stream.stalled, ended := false } :=
      (Stream.event_of_consume s.utt.entries hp hpart hhalf).trans (by simp only [Stream.consume, hring])
    have marked (r : CueRef) (hst : s.stream.stalled = false) (ho : s.utt.owner = some r) :
        s.sampleEvent = s.sampled.markTableCue r Cue.markStalled :=
      State.sampleEvent_underrun ho (by rw [event, hst]; rfl) (by rw [event])
    have due : s.sampled.sched.arbDue = false := by rw [s.sampled_eq]; exact hs.2.1
    have stream : s.sampled.stream = { s.stream with stalled := true } := by
      rw [s.sampled_eq]
      exact congrArg (·.stream) event
    have calm (r : CueRef) : (s.sampled.markTableCue r Cue.markStalled).sched.arbDue = s.sampled.sched.arbDue ∧
        (s.sampled.markTableCue r Cue.markStalled).stream = s.sampled.stream := by cases r <;> exact ⟨rfl, rfl⟩
    refine ⟨?_, fun i c hst ho hc => ?_⟩
    · cases hst : s.stream.stalled with
      | true => rw [State.sampleEvent_stream hs event (by rw [hst]; rfl) rfl, hst]
      | false =>
        cases ho : s.utt.owner with
        | none => rw [State.sampleEvent_unowned ho, (State.settle_keeps due).2.1, stream]
        | some r => rw [marked r hst ho, (State.settle_keeps ((calm r).1.trans due)).2.1, (calm r).2, stream]
    · rw [marked _ hst ho, (State.settle_keeps ((calm _).1.trans due)).1]
      obtain ⟨d, hd⟩ : ∃ d, s.sampled.sched.table[i] = some d := (State.sampled_slot hc).elim (fun h => ⟨_, h⟩) fun h => ⟨_, h⟩
      refine ⟨d.markStalled, ?_, rfl⟩
      show (s.sampled.modCue (.slot i) Cue.markStalled).sched.table[i] = _
      rw [State.modCue_slot, if_pos rfl, hd, Option.map_some]
  · have event : s.stream.event s.utt.entries =
        { out := (s.stream.lastOutput + s.stream.blendTarget) / 2, stream := { s.stream with half := .consume }, underrun := false, ended := false } :=
      (Stream.event_of_blend s.utt.entries hp hpart hhalf).trans (if_pos hleft)
    rw [State.sampleEvent_stream hs event rfl rfl]
  · have event : s.stream.event s.utt.entries =
        { out := (s.stream.lastOutput + s.stream.blendTarget) / 2, stream := { s.stream with part := .trailing, eventsLeft := 16 * e.silence }, underrun := false, ended := false } :=
      (Stream.event_of_blend s.utt.entries hp hpart hhalf).trans (by
        unfold Stream.blend
        simp only [hleft, lt_irrefl, if_false, he, if_pos hsil])
    rw [State.sampleEvent_stream hs event rfl rfl]
  · have event : s.stream.event s.utt.entries =
        { out := 0, stream := { s.stream with eventsLeft := s.stream.eventsLeft - 1 }, underrun := false, ended := false } := by
      rw [Stream.event, hp]
      cases hx : s.stream.part with
      | samples => exact absurd hx hpart
      | trailing => simp only [if_neg (Nat.not_le.2 hleft), hp, hx]
      | silence => simp only [if_neg (Nat.not_le.2 hleft), hp, hx]
    rw [State.sampleEvent_stream hs event rfl rfl]
  · obtain ⟨out, event⟩ := Stream.event_of_finishes hp h
    rw [State.sampleEvent_stream hs (event.trans (Stream.advance_some (st := s.stream.finished) hf out)) rfl rfl]
    simp only [Stream.takeUp, Stream.finished, hp]
  · obtain ⟨out, event⟩ := Stream.event_of_finishes hp h
    rw [State.sampleEvent_stream hs (event.trans (Stream.advance_some (st := s.stream.finished) hms out)) rfl rfl]
    simp only [Stream.takeUp, Stream.finished, hp]

/-! ### The end of an utterance (R71 to R75, R126, R128) -/

/-- The event after the last entry: the utterance has ended. -/
theorem Stream.event_last {st : Stream} {es : List UttEntry} (hp : st.state = .playing) (h : st.finishes es)
    (hnone : es[st.index]? = none) : (st.event es).underrun = false ∧ (st.event es).ended = true ∧
      (st.event es).stream = { st.finished with index := st.index + 1, state := .idle } := by
  obtain ⟨out, event⟩ := Stream.event_of_finishes hp h
  rw [event, Stream.advance_none (by exact hnone)]
  exact ⟨rfl, rfl, rfl⟩

/-- What the end of an utterance reads of its cue: the marking leaves it alone. -/
structure Cue.SameButFlags (c d : Cue) : Prop where
  eq : d = { c with flags := d.flags }

theorem State.heardAs_same (s : State) (c : Cue) : c.SameButFlags (s.heardAs c) := by
  unfold State.heardAs
  split <;> exact ⟨rfl⟩

/-- The state in which the utterance's end is reported. -/
theorem State.sampled_same (hc : s.sched.table[i] = some c) : ∃ d, s.sampled.sched.table[i] = some d ∧ c.SameButFlags d := by
  rcases State.sampled_slot hc with h | h
  · exact ⟨c, h, ⟨rfl⟩⟩
  · exact ⟨_, h, s.heardAs_same c⟩

theorem State.sampled_back {d : Cue} (hd : s.sampled.sched.table[i] = some d) : ∃ c, s.sched.table[i] = some c ∧ c.SameButFlags d := by
  cases hc : s.sched.table[i] with
  | none =>
    have marked := s.markSilents_slot i
    rw [hc, Option.map_none, ite_self] at marked
    rw [s.sampled_eq] at hd
    exact nomatch marked.symm.trans hd
  | some c =>
    obtain ⟨e, he, same⟩ := State.sampled_same hc
    rw [hd] at he
    cases he
    exact ⟨c, rfl, same⟩

theorem State.sampled_frame (s : State) : s.sampled.links = s.links ∧ s.sampled.store = s.store ∧ s.sampled.sched.path = s.sched.path ∧
    s.sampled.sched.voices = s.sched.voices ∧ s.sampled.sched.arbDue = s.sched.arbDue ∧ s.sampled.tone = s.tone ∧ s.sampled.ctx = s.ctx ∧
    s.sampled.now = s.now ∧ s.sampled.sched.markers = s.sched.markers ∧ s.sampled.sched.nextStart = s.sched.nextStart := by
  rw [s.sampled_eq]
  exact ⟨rfl, rfl, rfl, rfl, rfl, rfl, rfl, rfl, rfl, rfl⟩

/-- The marking makes no cue a candidate. -/
theorem State.sampled_nothing (h : s.NothingToServe) : s.sampled.NothingToServe := by
  obtain ⟨table, narr⟩ := State.candidates_eq_nil_iff.1 h.1
  have frame := s.sampled_eq
  refine ⟨State.candidates_eq_nil_iff.2 ⟨fun j d n hd hcls ho => ?_, fun d hd => ?_⟩, ?_⟩
  · obtain ⟨e, he, same⟩ := State.sampled_back hd
    have := table j e n he (by rw [same.eq] at hcls; exact hcls) (by rw [same.eq] at ho; exact ho)
    rw [same.eq]
    unfold State.isCandidate State.checkActive State.needsPath at this ⊢
    rw [s.sampled_frame.2.1]
    exact this
  · have hd' : s.sched.narration.pending = some d := by rw [frame] at hd; exact hd
    have := narr d hd'
    unfold State.isCandidate State.checkActive State.needsPath at this ⊢
    rw [s.sampled_frame.2.1]
    exact this
  · rw [frame]
    exact h.2

theorem State.EndsQuietly.sampled (h : s.EndsQuietly m i) : s.sampled.EndsQuietly m i := by
  obtain ⟨hm, hheld, hp, hv⟩ := h
  have frame := s.sampled_frame
  refine ⟨?_, fun j d hd hj hm => ?_, ?_, fun w => ?_⟩
  · rw [s.sampled_eq]; exact hm
  · obtain ⟨e, he, same⟩ := State.sampled_back hd
    rw [same.eq] at hm ⊢
    exact hheld j e he hj hm
  · rw [s.sampled_eq]; exact hp
  · rw [s.sampled_eq]; exact hv w

theorem State.FreesQuietly.sampled (h : s.FreesQuietly i) : s.sampled.FreesQuietly i := by
  rw [s.sampled_eq]
  exact h

/-- What the holder of the speech path leaves free. -/
theorem State.freed_held {v : Option (Fin 4)} (hp : s.sched.path.holder = some (.slot i)) : (s.freed i v).sched.path = ⟨none, s.sched.path.reservation⟩ ∧
    (s.freed i v).utt = ⟨[], none⟩ ∧ (s.freed i v).stream = idleStream ∧ (s.freed i v).store.chanS = idleChannelS :=
  ⟨if_pos hp, if_pos hp, if_pos hp, (congrArg Store.chanS (if_pos hp)).trans rfl⟩

theorem State.freed_voice (s : State) (i : Fin 24) (w : Fin 4) : ((s.freed i (some w)).sched.voices[w]).holder = none ∧
    (s.freed i (some w)).tone.voices[w] = idleVoice := by
  unfold State.freed
  simp only [Vector.getElem_set_fin, if_true, and_self]

/-- The utterance's end is the end of play with speech alone, under BEFORE, and under WITH with the pattern ended. -/
theorem State.utteranceEnded_ends {r : CueRef} (hc : s.cue? r = some c) (hst : c.state = .playing) (hph : c.phase = some .main)
    (hsp : c.speechPlays = true)
    (h : c.tone = none ∨ (∃ x, c.tone = some x ∧ (x.timing = .before ∨ (x.timing = .together ∧ c.patternEnded = true)))) :
    s.utteranceEnded r = s.endOfPlay r := by
  simp only [State.utteranceEnded, hc, hst, hph, hsp, and_self, if_true]
  rcases h with h | ⟨x, hx, h | ⟨h, hend⟩⟩
  · simp only [Cue.timing?, h]
  · simp only [Cue.timing?, hx, hsp, if_true, h]
  · simp only [Cue.timing?, hx, hsp, if_true, h, hend]

/-- Settles O42. -/
theorem utteranceEndsPhase : Obligations.UtteranceEndsPhase := by
  intro s i c m hs hp hnone ho hc horigin hst hph hsp hpath hlast
  obtain ⟨hunder, hended, hstream⟩ := Stream.event_last hp hlast hnone
  have event := State.sampleEvent_ended ho hunder hended
  obtain ⟨x, hx, same⟩ := State.sampled_same hc
  obtain ⟨links, store, path, voices, arb, tone, ctx, now, -, start⟩ := s.sampled_frame
  have zstream : s.sampled.stream = { s.stream.finished with index := s.stream.index + 1, state := .idle } := by
    rw [← hstream, s.sampled_eq]
  have held : s.sampled.sched.path.holder = some (.slot i) := path ▸ hpath
  have due : s.sampled.sched.arbDue = false := arb.trans hs.2.1
  obtain ⟨d, hd, hid, -⟩ := (s.sampleEvent_keepsSilent.trans s.sampleEvent.settle_keepsSilent) i x (by
    rw [s.sampled_eq] at hx
    exact hx)
  have xst : x.state = .playing := by rw [same.eq]; exact hst
  have xph : x.phase = some .main := by rw [same.eq]; exact hph
  have xsp : x.speechPlays = true := by rw [same.eq]; exact hsp
  have xo : x.origin = .machine m := by rw [same.eq]; exact horigin
  have ends (h : c.tone = none ∨ (∃ x, c.tone = some x ∧ (x.timing = .before ∨ (x.timing = .together ∧ c.patternEnded = true)))) :
      s.sampleEvent = s.sampled.endOfPlay (.slot i) :=
    event.trans (State.utteranceEnded_ends (r := .slot i) hx xst xph xsp (by rw [same.eq]; exact h))
  refine ⟨_, d, exec_outputSampleEvent hs.1, hd, hid.trans (by rw [same.eq]), fun hparts hn hf => ?_, ?_, fun y hy htg hpe => ?_,
    fun y v p hy htg hv hpat => ?_⟩
  · have nothing := State.sampled_nothing hn
    have free := hf.sampled
    have frees (t : State) (ht : ∀ v, s.sampled.voiceOf (.slot i) = v → t.sched.path = (s.sampled.freed i v).sched.path ∧
        t.utt = (s.sampled.freed i v).utt ∧ t.stream = (s.sampled.freed i v).stream ∧ t.store = (s.sampled.freed i v).store ∧
        t.sched.voices = (s.sampled.freed i v).sched.voices ∧ t.tone = (s.sampled.freed i v).tone) :
        t.sched.path = ⟨none, none⟩ ∧ t.utt = ⟨[], none⟩ ∧ t.stream = idleStream ∧ t.store.chanS = idleChannelS ∧
          ∀ v, s.voiceOf (.slot i) = some v → (t.sched.voices[v]).holder = none ∧ t.tone.voices[v] = idleVoice := by
      obtain ⟨hpa, hut, hst, hsto, -, -⟩ := ht _ rfl
      obtain ⟨fpath, futt, fstream, fchan⟩ := State.freed_held (v := s.sampled.voiceOf (.slot i)) held
      refine ⟨hpa.trans (fpath.trans ?_), hut.trans futt, hst.trans fstream, by rw [hsto, fchan], fun v hv => ?_⟩
      · rw [path, (hf hpath).2.2]
      · have hv : s.sampled.voiceOf (.slot i) = some v := by
          rw [← hv, State.voiceOf, voices]
          rfl
        obtain ⟨-, -, -, -, hvo, hto⟩ := ht _ hv
        rw [hvo, hto]
        exact s.sampled.freed_voice i v
    have reports (h : c.repeatsLeft = 0 ∨ (c.gapLength = 0 ∧ c.deadlinePassed = true)) (hq : s.EndsQuietly m i) :=
      State.endOfPlay_reports hx rfl (.inl held) xo hq.sampled (by rw [same.eq]; exact h)
    have gaps (hr : 0 < c.repeatsLeft) (hg : 0 < c.gapLength) :=
      State.endOfPlay_gaps hx rfl (.inl held) (by rw [same.eq]; exact hr) (by rw [same.eq]; exact hg)
    refine ⟨fun h hq => ?_, fun hr hg => ?_, fun h => ?_⟩
    · obtain ⟨t, eq, ht, -⟩ := reports h hq
      have settled := State.settle_freed_reported (s := s) (z := s.sampled) (c := { x with repeatsLeft := x.repeatsLeft - 1 }) links nothing due
        (fun h => absurd held h) free hs.2 ht
      rw [ends hparts, eq, settled] at hd ⊢
      have slot : t.sched.table[i] = some (({ x with repeatsLeft := x.repeatsLeft - 1 } : Cue).toReporting .completed) := by
        rw [ht]
        simp only [State.reported, Vector.getElem_set_fin, if_true]
        rfl
      have hd : t.sched.table[i] = some d := hd
      rw [slot] at hd
      cases hd
      refine ⟨rfl, rfl, by rw [same.eq]; rfl, ?_⟩
      have link : t.link m = { s.link m with
          done := (s.link m).done ++ [s.doneReport m x .completed], nextOrder := (s.link m).nextOrder + 1 } := by
        have report : (s.sampled.freed i (s.sampled.voiceOf (.slot i))).doneReport m { x with repeatsLeft := x.repeatsLeft - 1 } .completed =
            s.doneReport m x .completed := by
          unfold State.doneReport State.link
          rw [show (s.sampled.freed i (s.sampled.voiceOf (.slot i))).links = s.links from links]
        rw [ht]
        unfold State.link State.reported
        dsimp only
        rw [report, show (s.sampled.freed i (s.sampled.voiceOf (.slot i))).links = s.links from links, PerSide.get_modify, if_pos rfl]
      rw [State.link_onLink_same]
      show (t.link m).done = _
      rw [link, same.eq]
      rfl
    · obtain ⟨t, eq, ht, -⟩ := gaps hr hg
      have settled := State.settle_freed_kept (s := s) (z := s.sampled) links nothing due (fun h => absurd held h) free hs.2 (by exact nofun) ht
      rw [ends hparts, eq, settled] at hd
      rw [ht] at hd
      simp only [Vector.getElem_set_fin, if_true] at hd
      cases hd
      refine ⟨rfl, by rw [same.eq], by rw [same.eq, now]⟩
    · rw [ends hparts]
      rcases h with ⟨h, hq⟩ | ⟨hr, hg⟩
      · obtain ⟨t, eq, ht, -⟩ := reports h hq
        have settled := State.settle_freed_reported (s := s) (z := s.sampled) (c := { x with repeatsLeft := x.repeatsLeft - 1 }) links
          nothing due (fun h => absurd held h) free hs.2 ht
        rw [eq, settled]
        refine frees _ fun v hv => ?_
        subst hv
        rw [ht]
        exact ⟨rfl, rfl, rfl, rfl, rfl, rfl⟩
      · obtain ⟨t, eq, ht, -⟩ := gaps hr hg
        have settled := State.settle_freed_kept (s := s) (z := s.sampled) links nothing due (fun h => absurd held h) free hs.2 (by exact nofun)
          ht
        rw [eq, settled]
        refine frees _ fun v hv => ?_
        subst hv
        rw [ht]
        exact ⟨rfl, rfl, rfl, rfl, rfl, rfl⟩
  · intro items f rest htn hspeech hcls hr hg hlate hn hf hu hok hlist
    have nothing := State.sampled_nothing hn
    have parts : c.tone = none ∨ (∃ x, c.tone = some x ∧ (x.timing = .before ∨ (x.timing = .together ∧ c.patternEnded = true))) := .inl htn
    obtain ⟨t, eq, ht, -⟩ := State.endOfPlay_replays hx rfl (.inl held) (by rw [same.eq]; exact hr) (by rw [same.eq]; exact hg)
      (by rw [same.eq]; exact hlate)
    obtain ⟨state, check⟩ := s.sampled.freedBy_store (.slot i) (s.sampled.voiceOf (.slot i))
    have with_slot : s.sampled.WithSlot t i x.replay := by
      rw [ht]
      exact .of_set rfl rfl rfl state check
    obtain ⟨fpath, -, fstream, -⟩ := State.freed_held (v := s.sampled.voiceOf (.slot i)) held
    have tpath : t.sched.path = ⟨none, none⟩ := by
      rw [ht]
      exact fpath.trans (by rw [path, (hf hpath).2.2])
    have tlist : (t.assembleItems (t.context m) items).entries = .fragment f :: rest := by
      have catalog : t.store.catalog = s.store.catalog := by
        rw [ht]
        refine (congrArg Store.catalog (if_pos held)).trans ?_
        rw [← store]
      have context : t.context m = s.context m := by
        rw [ht]
        exact congrArg (·.get m) ctx
      rw [context, State.assembleItems_congr (by rw [with_slot.state, store]) catalog, hlist]
    obtain ⟨y, served, hy, -, hcount⟩ := State.serve_speaking (s := t) (c := x.replay) with_slot.slot rfl xo
      (by rw [same.eq]; exact hspeech) (by rw [same.eq]; exact htn) (by rw [with_slot.state, store]; exact hok)
      (by rw [ht]; exact fstream) tlist (by rw [tpath]) (.inl (by rw [tpath])) fun w => by
        rw [ht]
        refine ne_of_eq_of_ne ((s.sampled.freed_reservations i _).2 w) ?_
        rw [voices]
        exact hu.2 w
    have tdue : t.sched.arbDue = false := by
      rw [ht]
      exact due
    have settled : t.setArb.settleArb = y.streaming f (.fragment f :: rest) :=
      with_slot.settles nothing tdue (State.isCandidate_of_idle rfl (.inl (by rw [with_slot.check, store]; exact (hf hpath).1)))
        (by rw [same.eq]; exact hcls) xo served (by rw [hy]; exact tdue) (by rw [hy, ht]; exact nothing.2)
    have final := State.settle_of_arb_ports hs.2 settled (State.ports_streaming (by
      rw [hy]
      exact with_slot.check.trans ((congrArg Store.check store).trans (hf hpath).1)) hcount) (by
        rw [hy, ht]
        exact links)
    rw [ends parts, eq, final] at hd ⊢
    rw [hy] at hd ⊢
    simp only [State.streaming, Sched.withStart, Vector.getElem_set_fin, if_true] at hd
    cases hd
    refine ⟨rfl, rfl, by rw [same.eq]; rfl, ?_, rfl, rfl, rfl, rfl⟩
    rw [ht]
    exact start
  · have recorded : s.sampleEvent = s.sampled.setCue (.slot i) (some { x with utteranceEnded := true }) := by
      have hcue : s.sampled.cue? (.slot i) = some x := hx
      have timing : x.timing? = some .together := by
        rw [Cue.timing?, show x.tone = some y by rw [same.eq]; exact hy]
        simp only [xsp, if_true, htg]
      have notYet : x.patternEnded = false := by rw [same.eq]; exact hpe
      rw [event]
      simp only [State.utteranceEnded, hcue, xst, xph, xsp, and_self, if_true, timing, notYet, Bool.false_eq_true, if_false, State.modCue,
        Option.map_some]
    obtain ⟨sched, stream, utt, -, -⟩ := State.settle_keeps (s := s.sampleEvent) (by rw [recorded]; exact due)
    rw [sched, recorded, (s.sampled.setCue_withSlot i _).slot] at hd
    cases hd
    refine ⟨xst, xph, rfl, ?_, ?_, ?_⟩
    · rw [sched, recorded]
      exact path
    · rw [utt, recorded]
      exact s.sampled_utt
    · rw [stream, recorded]
      exact zstream
  · have tail : s.sampleEvent = ((s.sampled.setCue (.slot i) (some { x with phase := some .tail })).stopSpeech).beginTone (.slot i) := by
      have hcue : s.sampled.cue? (.slot i) = some x := hx
      have timing : x.timing? = some .after := by
        rw [Cue.timing?, show x.tone = some y by rw [same.eq]; exact hy]
        simp only [xsp, if_true, htg]
      rw [event]
      simp only [State.utteranceEnded, hcue, xst, xph, xsp, and_self, if_true, timing, State.modCue, Option.map_some]
    have slot : ((s.sampled.setCue (.slot i) (some { x with phase := some .tail })).stopSpeech).sched.table[i] =
        some { x with phase := some .tail } := (s.sampled.setCue_withSlot i _).slot
    have begins := State.beginTone_slot (v := v) (part := y) (p := p) slot (by
        rw [State.voiceOf] at hv ⊢
        rw [← hv]
        show List.find? _ _ = _
        rw [← voices]
        rfl) (by rw [same.eq]; exact hy) (by
        show s.sampled.tone.patterns[y.pattern] = _
        rw [tone]
        exact hpat)
    rw [begins] at tail
    obtain ⟨sched, stream, utt, tones, chan⟩ := State.settle_keeps (s := s.sampleEvent) (by rw [tail]; exact due)
    rw [sched, tail] at hd
    have hd := slot.symm.trans hd
    cases hd
    refine ⟨xst, rfl, ?_, ?_, ?_, ?_, ?_⟩
    · rw [sched, tail]
      exact path
    · rw [sched, tail]
      exact voices
    · rw [stream, tail]
      rfl
    · rw [chan, tail]
      rfl
    · rw [tones, tail]
      simp only [State.withPattern, Vector.getElem_set_fin, if_true]

end Sys2Proof.Machine
end

section
/-! SUPPORT. The end of a burst (R116 to R119, R121 to R124): what it delivers, and to whom the port goes. -/

namespace Sys2Proof.Machine

variable {s t u : State} {m : Side} {i : Fin 24} {c : Cue}

/-! ### The port when no check is about (R116) -/

/-- With no check about, an IDLE port goes to channel S, then to channel G, then to nobody. -/
theorem State.ports_decides (hck : s.store.check = .idle) (hp : s.store.port = .idle) : s.ports = { s with
    store := { s.store with port := if s.eligibleS = true then .s else if s.store.chanG = [] then .idle else .g } } := by
  have no : s.checkCanBegin = false := by simp [State.checkCanBegin, hck]
  rw [State.ports, State.grantRace_of_not _ no, State.tryBeginCheck_of_not _ no, State.portDecide, hp]
  cases s.eligibleS with
  | true => simp only [if_true]; rfl
  | false =>
    by_cases hg : s.store.chanG = []
    · have none : s.eligibleG = false := by simp [State.eligibleG, hg]
      simp only [none, hg, Bool.false_eq_true, if_false, if_true]
      rw [← hg, ← hp]
    · have some : s.eligibleG = true := by simp [State.eligibleG, hg, hck]
      simp only [some, hg, if_true, Bool.false_eq_true, if_false]
      rfl

/-- Settling a state whose port is IDLE, with no check about. -/
theorem State.settle_decides (hs : s.Settled) (harb : t.sched.arbDue = false) (hck : t.store.check = .idle) (hp : t.store.port = .idle)
    (hl : t.links = s.links) : t.settle = { t with
      store := { t.store with port := if t.eligibleS = true then .s else if t.store.chanG = [] then .idle else .g } } :=
  State.settle_of_ports hs harb (State.ports_decides hck hp) hl

/-- What a choice of frame leaves of a link. -/
theorem State.settle_linkFrame (h : s.sched.arbDue = false) (n : Side) :
    (s.settle.link n).inService = (s.link n).inService ∧ (s.settle.link n).reply = (s.link n).reply ∧
      (s.settle.link n).done = (s.link n).done ∧ (s.settle.link n).inputs = (s.link n).inputs ∧
      (s.settle.link n).queue = (s.link n).queue ∧ (s.settle.link n).fault = (s.link n).fault ∧
      (s.settle.link n).causes = (s.link n).causes := by
  have choose (t : State) (m : Side) : ((t.txChoose m).link n).inService = (t.link n).inService ∧
      ((t.txChoose m).link n).reply = (t.link n).reply ∧ ((t.txChoose m).link n).done = (t.link n).done ∧
      ((t.txChoose m).link n).inputs = (t.link n).inputs ∧ ((t.txChoose m).link n).queue = (t.link n).queue ∧
      ((t.txChoose m).link n).fault = (t.link n).fault ∧ ((t.txChoose m).link n).causes = (t.link n).causes := by
    obtain ⟨l, hl, hlink⟩ := t.txChoose_eq m
    rw [hl, State.link_onLink]
    by_cases hn : n = m
    · subst hn
      rw [if_pos rfl, hlink]
      exact ⟨rfl, rfl, rfl, rfl, rfl, rfl, rfl⟩
    · rw [if_neg hn]
      exact ⟨rfl, rfl, rfl, rfl, rfl, rfl, rfl⟩
  rw [State.settle_of_arb (State.settleArb_of_not_due _ h)]
  obtain ⟨a1, a2, a3, a4, a5, a6, a7⟩ := choose (s.ports.txChoose .w) .d
  obtain ⟨b1, b2, b3, b4, b5, b6, b7⟩ := choose s.ports .w
  rw [a1, a2, a3, a4, a5, a6, a7, b1, b2, b3, b4, b5, b6, b7, State.ports_link]
  exact ⟨rfl, rfl, rfl, rfl, rfl, rfl, rfl⟩

/-! ### Bursts of channel G (R122) -/

theorem exec_storeBurstEnd_up (h : s.resetHeld = false) (f : Flash) : exec (.storeBurstEnd f) s = .next (s.endBurst f).settle :=
  running_of_up h fun s => (s.endBurst f).settle

/-- The two rows that a G burst brings. -/
theorem Picture.writeRows_two (p : Picture) (a : Nat) (f : Flash) (b : Nat) : p.writeRows a 2 (flashSpan f b 32) =
    Vector.ofFn fun r : Fin 16 =>
      if r.val = a then rowOfBytes ((List.range 16).map fun k => flashRead f (b + 16 * 0 + k))
      else if r.val = a + 1 then rowOfBytes ((List.range 16).map fun k => flashRead f (b + 16 * 1 + k)) else p[r] := by
  apply Vector.ext
  intro r hr
  rw [show (p.writeRows a 2 (flashSpan f b 32))[r] = (p.writeRows a 2 (flashSpan f b 32))[(⟨r, hr⟩ : Fin 16)] from rfl,
    Picture.writeRows_row, Vector.getElem_ofFn]
  dsimp only
  by_cases h0 : r = a
  · rw [if_pos ⟨by omega, by omega⟩, if_pos h0, h0, Nat.sub_self]
    rfl
  · by_cases h1 : r = a + 1
    · rw [if_pos ⟨by omega, by omega⟩, if_neg h0, if_pos h1, h1, Nat.add_sub_cancel_left]
      rfl
    · rw [if_neg (by omega), if_neg h0, if_neg h1]

/-- The end of a G burst that is not its transfer's last. -/
theorem State.endBurst_more {f : Flash} {x : Transfer} {rest : List Transfer} (hp : s.store.port = .g) (hg : s.store.chanG = x :: rest)
    (hx : x.bytesDone < 224) : s.endBurst f = { s with
      store := { s.store with chanG := { x with bytesDone := x.bytesDone + 32 } :: rest, port := .idle },
      display := { s.display with slots := s.display.slots.set x.slot { s.display.slots[x.slot] with
        staged := (s.display.slots[x.slot]).staged.writeRows (x.bytesDone / 16) 2 (flashSpan f (x.start + x.bytesDone) 32) } } } := by
  unfold State.endBurst State.endBurstG
  simp only [hp, hg, if_pos (show x.bytesDone + 32 < 256 by omega)]
  rfl

/-- The end of a transfer's last burst. -/
theorem State.endBurst_last {f : Flash} {x : Transfer} {rest : List Transfer} (hp : s.store.port = .g) (hg : s.store.chanG = x :: rest)
    (hx : x.bytesDone = 224) {note : Bool} (hr : (s.link x.link).inService = some { kind := .sceneFromStore, note := note }) :
    s.endBurst f = { s with
      store := { s.store with chanG := rest, port := .idle },
      display := { s.display with slots := s.display.slots.set x.slot { s.display.slots[x.slot] with
        staged := (s.display.slots[x.slot]).staged.writeRows (x.bytesDone / 16) 2 (flashSpan f (x.start + x.bytesDone) 32),
        marks := allMarks } },
      links := s.links.modify x.link fun l => { l with
        inService := none, reply := some
          { echo := 0x21, body := .done [], condition := if note then some (s.conditionByte x.link) else none } } } := by
  have reply (t : State) (h : (t.link x.link).inService = some { kind := .sceneFromStore, note := note }) :
      t.finishDeferred x.link [] = t.onLink x.link fun l => { l with
        inService := none, reply := some
          { echo := 0x21, body := .done [], condition := if note then some (t.conditionByte x.link) else none } } := by
    unfold State.finishDeferred
    simp only [h]
    rw [State.formReply, State.onLink_onLink]
    rfl
  unfold State.endBurst State.endBurstG
  simp only [hp, hg, if_neg (show ¬x.bytesDone + 32 < 256 by omega)]
  rw [reply _ (by exact hr)]
  simp only [State.onSlot, State.onDisplay, Vector.set_set, Fin.getElem_fin, Vector.getElem_set_self]
  rfl

/-! ### Bursts of channel S (R117 to R119, R123, R124) -/

/-- What an S burst leaves: the bytes in the ring, the counts moved on, a PRIMING Stream tested. -/
theorem State.endBurst_speech {f : Flash} (hp : s.store.port = .s) : s.endBurst f = { s with
    stream := { s.stream with
      ring := s.stream.ring ++ (List.range (min s.store.chanS.count 32)).map fun k => flashRead f (s.store.chanS.address + k)
      }.prime s.utt.entries,
    store := { s.store with
      chanS := s.store.chanS.advance s.utt.entries (min s.store.chanS.count 32), port := .idle } } := by
  unfold State.endBurst
  rw [hp]
  rfl

theorem ChannelS.advance_more {ch : ChannelS} {es : List UttEntry} {n : Nat} (h : n < ch.count) :
    ch.advance es n = { ch with address := ch.address + n, count := ch.count - n } := by
  unfold ChannelS.advance
  exact if_neg (by dsimp only; omega)

theorem ChannelS.advance_end {ch : ChannelS} {es : List UttEntry} :
    ch.advance es ch.count = { ch with address := ch.address + ch.count, count := 0 }.load es := by
  unfold ChannelS.advance
  simp only [Nat.sub_self, if_true]

/-- The next fragment of a list is found behind its silences. -/
theorem firstFragment_skip {skip : List UttEntry} (h : ∀ x ∈ skip, ∃ ms, x = .silence ms) (l : List UttEntry) (k : Nat) :
    firstFragment (skip ++ l) k = firstFragment l (k + skip.length) := by
  induction skip generalizing k with
  | nil => rfl
  | cons x skip ih =>
    obtain ⟨ms, rfl⟩ := h x (by simp)
    rw [List.cons_append, firstFragment, ih fun y hy => h y (by simp [hy])]
    congr 1
    simp only [List.length_cons]
    omega

theorem firstFragment_silent {l : List UttEntry} (h : ∀ x ∈ l, ∃ ms, x = .silence ms) (k : Nat) : firstFragment l k = none := by
  have skipped := firstFragment_skip h [] k
  rw [List.append_nil] at skipped
  rw [skipped]
  rfl

theorem Stream.prime_of_not {st : Stream} {es : List UttEntry} (h : st.state ≠ .priming ∨ st.ring.length < st.threshold) :
    st.prime es = st := by
  unfold Stream.prime
  split
  next hp => exact if_neg (Nat.not_le.2 (h.resolve_left (by simp [hp])))
  next => rfl

theorem Stream.prime_starts {st : Stream} {e : UttEntry} {rest : List UttEntry} (hp : st.state = .priming)
    (h : st.threshold ≤ st.ring.length) : st.prime (e :: rest) = { st with index := 1 }.takeUp e := by
  simp only [Stream.prime, hp, if_pos h, List.head?_cons]

theorem State.settle_display (h : s.sched.arbDue = false) : s.settle.display = s.display := by
  rw [State.settle_of_arb (State.settleArb_of_not_due _ h)]
  obtain ⟨l, hl, -⟩ := s.ports.txChoose_eq .w
  obtain ⟨k, hk, -⟩ := (s.ports.txChoose .w).txChoose_eq .d
  rw [hk, hl]
  exact congrArg (·.display) s.ports_eq

/-- Settles O28: `endBurst` written out for a G burst and for an S burst, then the port with no check about. -/
theorem burstsDeliverBytes : Obligations.BurstsDeliverBytes := by
  refine ⟨?_, ?_, ?_⟩
  · intro s flash x rest hs hport hg hck hS row staged old
    have rows : old.staged.writeRows (x.bytesDone / 16) 2 (flashSpan flash (x.start + x.bytesDone) 32) = staged old.staged :=
      Picture.writeRows_two _ _ _ _
    refine ⟨fun hx => ?_, fun hx note hr => ?_⟩
    · have ended := State.endBurst_more (f := flash) hport hg hx
      rw [show (s.display.slots[x.slot]).staged.writeRows _ _ _ = _ from rows] at ended
      have settled := State.settle_decides (t := s.endBurst flash) hs.2 (by rw [ended]; exact hs.2.1) (by rw [ended]; exact hck)
        (by rw [ended]) (by rw [ended])
      have no : (s.endBurst flash).eligibleS = false := by rw [ended]; exact hS
      have some : (s.endBurst flash).store.chanG ≠ [] := by rw [ended]; exact List.cons_ne_nil _ _
      rw [no, if_neg Bool.false_ne_true, if_neg some] at settled
      refine (exec_storeBurstEnd_up hs.1 flash).trans (congrArg _ (settled.trans ?_))
      rw [ended, ← hport]
    · have ended := State.endBurst_last (f := flash) hport hg hx hr
      rw [show (s.display.slots[x.slot]).staged.writeRows _ _ _ = _ from rows] at ended
      refine ⟨_, exec_storeBurstEnd_up hs.1 flash, ?_⟩
      generalize hy : s.endBurst flash = y at *
      have due : y.sched.arbDue = false := by rw [ended]; exact hs.2.1
      have link : (y.link x.link).inService = none ∧ (y.link x.link).reply = some
          { echo := 0x21, body := .done [], condition := if note then some (s.conditionByte x.link) else none } := by
        rw [ended, State.link, PerSide.get_modify_same]
        exact ⟨rfl, rfl⟩
      obtain ⟨service, reply, -⟩ := State.settle_linkFrame due x.link
      have store : y.settle.store = y.ports.store := by
        rw [State.settle_of_arb (State.settleArb_of_not_due _ due), (State.txChoose_frame _ _).2.2.1, (State.txChoose_frame _ _).2.2.1]
      refine ⟨?_, ?_, service.trans link.1, reply.trans link.2⟩
      · rw [State.settle_display due, ended]
        rfl
      · have no : y.eligibleS = false := by rw [ended]; exact hS
        rw [store, State.ports_decides (by rw [ended]; exact hck) (by rw [ended]), no, if_neg Bool.false_ne_true, ended]
  · intro s flash hs hport hck hact hcount hpr
    have ended := State.endBurst_speech (s := s) (f := flash) hport
    rw [Nat.min_eq_right (by omega), Stream.prime_of_not (.inl (by exact hpr)), ChannelS.advance_more hcount] at ended
    have settled := State.settle_decides (t := s.endBurst flash) hs.2 (by rw [ended]; exact hs.2.1) (by rw [ended]; exact hck)
      (by rw [ended]) (by rw [ended])
    have wants : (s.endBurst flash).eligibleS = decide (s.stream.ring.length + 64 ≤ 512) := by
      rw [ended]
      simp [State.eligibleS, ChannelS.dataLeft, hact, show 0 < s.store.chanS.count - 32 by omega, Nat.add_assoc]
    rw [wants] at settled
    refine (exec_storeBurstEnd_up hs.1 flash).trans (congrArg _ (settled.trans ?_))
    rw [ended]
    simp only [decide_eq_true_eq]
  · intro s flash hs hport hck hact ch n more silent
    have ended := State.endBurst_speech (s := s) (f := flash) hport
    have settled := State.settle_decides (t := s.endBurst flash) hs.2 (by rw [ended]; exact hs.2.1) (by rw [ended]; exact hck)
      (by rw [ended]) (by rw [ended])
    have chan : (s.endBurst flash).settle.store.chanS = ch.advance s.utt.entries n := by rw [settled, ended]
    have stream : (s.endBurst flash).settle.stream = more.prime s.utt.entries := by rw [settled, ended]
    have last (h : ch.count ≤ 32) : (s.endBurst flash).settle.store.chanS =
        { ch with address := ch.address + ch.count, count := 0 }.load s.utt.entries := by
      rw [chan, show n = ch.count from Nat.min_eq_left h, ChannelS.advance_end]
    refine ⟨_, exec_storeBurstEnd_up hs.1 flash, ?_, fun hc => ?_, fun skip f rest hc hes hsil => ?_, fun hc hsil => ?_, fun h => ?_,
      fun hp hth => ⟨fun f rest hes => ?_, fun ms rest hes => ?_⟩, ?_⟩
    · rw [settled, ended]
    · rw [chan, show n = 32 from Nat.min_eq_right hc.le, ChannelS.advance_more hc]
    · rw [last hc, ChannelS.load]
      dsimp only
      rw [hes, firstFragment_skip hsil]
      rfl
    · rw [last hc, ChannelS.load]
      dsimp only
      rw [firstFragment_silent hsil]
    · rw [stream, Stream.prime_of_not h]
    · rw [stream, hes, Stream.prime_starts (st := more) hp hth]
      rfl
    · rw [stream, hes, Stream.prime_starts (st := more) hp hth]
      rfl
    · have wants : (s.endBurst flash).eligibleS = true ↔ (s.endBurst flash).store.chanS.active = true ∧
          0 < (s.endBurst flash).store.chanS.count ∧ (s.endBurst flash).stream.ring.length + 32 ≤ 512 := by
        simp [State.eligibleS, ChannelS.dataLeft, and_assoc]
      have ring : (s.endBurst flash).stream.ring = more.ring := by
        rw [ended]
        exact Stream.prime_ring _ _
      have list : (s.endBurst flash).store.chanG = s.store.chanG := by rw [ended]
      rw [ring] at wants
      rw [settled]
      simp only [list, wants]

end Sys2Proof.Machine
end

section
/-! SUPPORT. STORE_CHECK, its waiters and the beginning of a check (R9, R69, R82, R90, R91). -/

namespace Sys2Proof.Machine

variable {s t u y : State} {m : Side} {note : Bool}

/-- A STORE_CHECK becomes the request in service of its link, whatever its check did to the rest. -/
theorem exec_storeCheck (h : s.ServesRequest m) (arb : (s.takeStoreCheck m).settleArb = y) (due : y.sched.arbDue = false)
    (ports : y.ports = u) (links : u.links = s.links) : exec (.storeCheck m note []) s = .next { u with
      links := u.links.modify m fun l => { l with inService := some { kind := .storeCheck, note := note } } } := by
  refine (exec_request_up h.atRest.1 .storeCheck note []).trans (congrArg _ ?_)
  rw [State.submit_of_takes h.1, State.dispatchRequest, State.linkRefusal_of_serves h rfl]
  show ((s.takeStoreCheck m).settleArb.onLink m _).settle = _
  rw [arb]
  have rest (n : Side) : (((u.onLink m fun l => { l with inService := some ⟨.storeCheck, note⟩ }) : State).link n).atRest := by
    have own (k : Side) : (u.link k).atRest := by
      unfold State.link
      rw [links]
      exact h.atRest.2.link k
    rw [State.link_onLink]
    split
    · exact own n
    · exact own n
  rw [State.settle_of_arb (State.settleArb_of_not_due _ (by exact due)), State.ports_onLink, ports, State.txChoose_of_rest _ .w (rest .w),
    State.txChoose_of_rest _ .d (rest .d)]
  rfl

/-- Of a state whose port's work changes nothing, a new check leaves it so unless it can begin. -/
theorem State.Settled.ports_of (h : s.Settled) {st : Store} {sc : Sched} (hport : st.port = s.store.port) (hG : st.chanG = s.store.chanG)
    (hS : st.chanS = s.store.chanS) (hrun : s.store.check ≠ .running)
    (hno : ({ s with sched := sc, store := st } : State).checkCanBegin = false) :
    ({ s with sched := sc, store := st } : State).ports = { s with sched := sc, store := st } := by
  refine State.ports_of_rest hno fun hp => ?_
  obtain ⟨eS, eG⟩ := h.2.2.1 (hport ▸ hp)
  have none : s.store.chanG = [] := by simpa [State.eligibleG, hrun] using eG
  refine ⟨?_, by simp [State.eligibleG, hG, none]⟩
  simpa [State.eligibleS, hS] using eS

/-- A check that can begin does so where nothing waits for the port (R91, R116). -/
theorem State.Settled.ports_begins (h : s.Settled) {st : Store} {sc : Sched} (hport : st.port = s.store.port)
    (hG : st.chanG = s.store.chanG) (hrun : s.store.check ≠ .running)
    (hcan : ({ s with sched := sc, store := st } : State).checkCanBegin = true) :
    ({ s with sched := sc, store := st } : State).ports =
      { s with sched := sc, store := { st with check := .running, port := .check, grantedFirst := false } } := by
  generalize ht : ({ s with sched := sc, store := st } : State) = t at hcan
  have race : t.grantRace = t := by
    unfold State.grantRace
    refine if_neg fun hc => ?_
    simp only [Bool.and_eq_true, decide_eq_true_eq] at hc
    obtain ⟨⟨⟨-, idle⟩, -⟩, eG⟩ := hc
    subst ht
    obtain ⟨-, noG⟩ := h.2.2.1 (hport ▸ idle)
    have none : s.store.chanG = [] := by simpa [State.eligibleG, hrun] using noG
    simp [State.eligibleG, hG, none] at eG
  rw [State.ports, race, State.tryBeginCheck, if_pos hcan, ← ht]
  rfl

/-- When a check that was just asked for can begin (R91). -/
theorem State.checkCanBegin_of_pending (h : s.store.check = .pending) :
    s.checkCanBegin = true ↔ s.sched.path.holder = none ∧ s.sched.path.reservation = none ∧ s.store.port ≠ .g := by
  simp [State.checkCanBegin, h, and_assoc]

/-- The only waiter of a new check. -/
def onlyWaiter (m : Side) : PerSide Bool := (PerSide.both false).set m true

theorem State.takeStoreCheck_idle (h : s.store.check = .idle) (hres : s.sched.path.reservation = none) : s.takeStoreCheck m = { s with
    store := { s.store with check := .pending, currentWaiters := onlyWaiter m, askedAt := some s.now } } := by
  unfold State.takeStoreCheck
  rw [h]
  show State.endPathReservation _ = _
  unfold State.endPathReservation
  rw [show (State.onStore (State.onStore s _) _).sched.path.reservation = none from hres]
  rfl

theorem State.takeStoreCheck_pending (h : s.store.check = .pending) : s.takeStoreCheck m = { s with
    store := { s.store with currentWaiters := s.store.currentWaiters.set m true } } := by
  unfold State.takeStoreCheck
  rw [h]
  rfl

theorem State.takeStoreCheck_running (h : s.store.check = .running) : s.takeStoreCheck m = { s with store := if s.store.askedAt = some s.now then { s.store with currentWaiters := s.store.currentWaiters.set m true }
    else { s.store with nextWaiters := s.store.nextWaiters.set m true } } := by
  unfold State.takeStoreCheck
  rw [h]
  rfl

/-- STORE_CHECK with no check about and the path unreserved: its check begins, or is pending. -/
theorem exec_storeCheck_idle (h : s.ServesRequest m) (hck : s.store.check = .idle) (hres : s.sched.path.reservation = none) :
    exec (.storeCheck m note []) s = .next { s with
      links := s.links.modify m fun l => { l with inService := some { kind := .storeCheck, note := note } },
      store := if s.sched.path.holder = none ∧ s.store.port ≠ .g then
          { s.store with
            check := .running, port := .check, currentWaiters := onlyWaiter m, grantedFirst := false, askedAt := some s.now }
        else { s.store with check := .pending, currentWaiters := onlyWaiter m, askedAt := some s.now } } := by
  have asked := State.takeStoreCheck_idle (m := m) hck hres
  have arb := (State.settleArb_of_not_due (s.takeStoreCheck m) (by rw [asked]; exact h.atRest.2.1)).trans asked
  have idle : s.store.check ≠ .running := by simp [hck]
  by_cases can : s.sched.path.holder = none ∧ s.store.port ≠ .g
  · rw [if_pos can]
    exact exec_storeCheck h arb h.atRest.2.1 (h.atRest.2.ports_begins rfl rfl idle
      ((State.checkCanBegin_of_pending rfl).2 ⟨can.1, hres, can.2⟩)) rfl
  · rw [if_neg can]
    exact exec_storeCheck h arb h.atRest.2.1 (h.atRest.2.ports_of rfl rfl rfl idle
      (Bool.eq_false_iff.2 fun hc => can (((State.checkCanBegin_of_pending rfl).1 hc).imp_right And.right))) rfl

/-- STORE_CHECK with a check about takes its link among the waiters alone. -/
theorem exec_storeCheck_joins (h : s.ServesRequest m) {cw nw : PerSide Bool} (hj : s.takeStoreCheck m = { s with
    store := { s.store with currentWaiters := cw, nextWaiters := nw } }) :
    exec (.storeCheck m note []) s = .next { s with
      links := s.links.modify m fun l => { l with inService := some { kind := .storeCheck, note := note } },
      store := { s.store with currentWaiters := cw, nextWaiters := nw } } := by
  have settled := h.atRest.2
  refine exec_storeCheck h ((State.settleArb_of_not_due _ (by rw [hj]; exact settled.1)).trans hj) settled.1
    (State.ports_of_rest settled.2.1 settled.2.2.1) rfl

/-! ### The reservation that ends as a check becomes pending (R69, R82) -/

/-- The path without its reservation, the voices without those of the same cue. -/
def Sched.withoutReserver (sc : Sched) (r : CueRef) : Sched := { sc with
  path := { sc.path with reservation := none },
  voices := sc.voices.map fun x => if x.reservation = some r then { x with reservation := none } else x }

theorem State.dropReservations_path {r : CueRef} (h : s.sched.path.reservation = some r) :
    s.dropReservations r = { s with sched := s.sched.withoutReserver r } := by
  have path : s.sched.path.unreserve r = { s.sched.path with reservation := none } := if_pos h
  have voices : (Vector.ofFn fun v : Fin 4 => (s.sched.voices[v]).unreserve r) =
      s.sched.voices.map fun x => if x.reservation = some r then { x with reservation := none } else x := by
    apply Vector.ext
    intro v hv
    rw [Vector.getElem_ofFn, Vector.getElem_map]
    rfl
  show { s with sched := { s.sched with path := _, voices := _ } } = _
  rw [path, voices]
  rfl

/-- With the check pending its one candidate, which needs the path, is none any more. -/
theorem State.nothingToServe_of_pending {r : CueRef} {c : Cue} {st : Store} {sc : Sched} (hst : st.state = s.store.state)
    (hpend : st.check = .pending) (hidle : s.store.check = .idle) (htab : sc.table = s.sched.table)
    (hnar : sc.narration = s.sched.narration) (hfb : sc.feedback.pending = none) (hc : s.candidate? r = some c) (hsp : c.speech ≠ none)
    (hok : s.store.state = .ok) (hall : ∀ x ∈ s.candidates, x = r) :
    ({ s with sched := sc, store := st } : State).NothingToServe := by
  set t : State := { s with sched := sc, store := st }
  have waits (d : Cue) (hd : t.isCandidate d = true) : s.isCandidate d = true ∧ d.speech = none := by
    have active : t.checkActive = true := by simp [State.checkActive, show t.store.check = .pending from hpend]
    have quiet : s.checkActive = false := by simp [State.checkActive, hidle]
    simp only [State.isCandidate, active, quiet, Bool.true_and, Bool.false_and, Bool.not_false, Bool.and_true, Bool.and_eq_true,
      Bool.not_eq_true'] at hd ⊢
    refine ⟨hd.1, ?_⟩
    simpa [State.needsPath, show t.store.state = .ok from hst.trans hok] using hd.2
  refine ⟨State.candidates_eq_nil_iff.2 ⟨fun i d m hd he hm => Bool.eq_false_iff.2 fun hcand => ?_,
    fun d hd => Bool.eq_false_iff.2 fun hcand => ?_⟩, hfb⟩
  all_goals obtain ⟨hs, silent⟩ := waits d hcand
  · have htd : s.sched.table[i] = some d := by rw [← htab]; exact hd
    have hr := hall _ ((s.mem_candidates i).2 ⟨d, m, htd, hs, he, hm⟩)
    subst hr
    have same : some d = some c := htd.symm.trans hc
    cases same
    exact hsp silent
  · have hnd : s.sched.narration.pending = some d := by rw [← hnar]; exact hd
    have hr := hall _ (State.narration_mem_candidates.2 ⟨d, hnd, hs⟩)
    subst hr
    have same : some d = some c := hnd.symm.trans hc
    cases same
    exact hsp silent

/-- STORE_CHECK with the path reserved for a candidate that needs it. -/
theorem exec_storeCheck_unreserves {r : CueRef} {c : Cue} (h : s.ServesRequest m) (hck : s.store.check = .idle)
    (hres : s.sched.path.reservation = some r) (hc : s.candidate? r = some c) (hsp : c.speech ≠ none) (hok : s.store.state = .ok)
    (hall : ∀ x ∈ s.candidates, x = r) (hfb : s.sched.feedback.pending = none) :
    exec (.storeCheck m note []) s = .next { s with
      links := s.links.modify m fun l => { l with inService := some { kind := .storeCheck, note := note } },
      sched := s.sched.withoutReserver r,
      store := if s.sched.path.holder = none ∧ s.store.port ≠ .g then
          { s.store with
            check := .running, port := .check, currentWaiters := onlyWaiter m, grantedFirst := false, askedAt := some s.now }
        else { s.store with check := .pending, currentWaiters := onlyWaiter m, askedAt := some s.now } } := by
  let st : Store := { s.store with check := .pending, currentWaiters := onlyWaiter m, askedAt := some s.now }
  let w : State := { s with sched := s.sched.withoutReserver r, store := st }
  have asked : s.takeStoreCheck m = State.endReservations { s with store := st } r := by
    unfold State.takeStoreCheck
    rw [hck]
    show State.endPathReservation _ = _
    unfold State.endPathReservation
    rw [show (State.onStore (State.onStore s _) _).sched.path.reservation = some r from hres]
    rfl
  have dropped : State.dropReservations { s with store := st } r = w := State.dropReservations_path (by exact hres)
  have due : w.sched.arbDue = false := h.atRest.2.1
  have nothing : w.NothingToServe := State.nothingToServe_of_pending rfl rfl hck rfl rfl hfb hc hsp hok hall
  have arb : (s.takeStoreCheck m).settleArb = w := by
    rw [asked, State.endReservations, dropped]
    split
    · rw [State.settleArb_nothing (s := w.setArb) nothing, State.setArb_clearArb due]
    · exact State.settleArb_of_not_due _ due
  have idle : s.store.check ≠ .running := by simp [hck]
  by_cases can : s.sched.path.holder = none ∧ s.store.port ≠ .g
  · rw [if_pos can]
    exact exec_storeCheck h arb due (h.atRest.2.ports_begins rfl rfl idle
      ((State.checkCanBegin_of_pending (s := w) rfl).2 ⟨can.1, rfl, can.2⟩)) rfl
  · rw [if_neg can]
    exact exec_storeCheck h arb due (h.atRest.2.ports_of rfl rfl rfl idle
      (Bool.eq_false_iff.2 fun hc => can (((State.checkCanBegin_of_pending (s := w) rfl).1 hc).imp_right And.right))) rfl

/-! ### Both links at one moment, and a check that waited for a G burst (logs 27, 7) -/

/-- STORE_CHECK of both links at one moment, of `m` first: one check, both its waiters. -/
theorem exec_storeCheck_both (hm : s.ServesRequest m) (hn : s.ServesRequest m.other) (hck : s.store.check = .idle)
    (hres : s.sched.path.reservation = none) (note noteOther : Bool) : ∃ u, exec (.storeCheck m note []) s = .next u ∧
      exec (.storeCheck m.other noteOther []) u = .next { s with
        links := (s.links.modify m fun l => { l with inService := some { kind := .storeCheck, note := note } }).modify m.other
          fun l => { l with inService := some { kind := .storeCheck, note := noteOther } },
        store := if s.sched.path.holder = none ∧ s.store.port ≠ .g then
            { s.store with
              check := .running, port := .check, currentWaiters := .both true, grantedFirst := false, askedAt := some s.now }
          else { s.store with check := .pending, currentWaiters := .both true, askedAt := some s.now } } := by
  have first := exec_storeCheck_idle (note := note) hm hck hres
  refine ⟨_, first, ?_⟩
  generalize hu : ({ s with
      links := s.links.modify m fun l => { l with inService := some { kind := .storeCheck, note := note } },
      store := if s.sched.path.holder = none ∧ s.store.port ≠ .g then
          { s.store with
            check := .running, port := .check, currentWaiters := onlyWaiter m, grantedFirst := false, askedAt := some s.now }
        else { s.store with check := .pending, currentWaiters := onlyWaiter m, askedAt := some s.now } } : State) = u at first
  have settled : u.Settled :=
    Host.Outcome.next.inj ((exec_request_up hm.atRest.1 .storeCheck note []).symm.trans first) ▸ State.settle_settled _
  have other : u.link m.other = s.link m.other := by
    rw [← hu]
    show (s.links.modify m _).get m.other = _
    rw [PerSide.get_modify, if_neg (by cases m <;> decide)]
    rfl
  have serves : u.ServesRequest m.other := by
    obtain ⟨⟨⟨up, -⟩, hq, hsv, hr⟩, ready, att⟩ := hn
    refine ⟨⟨⟨?_, settled⟩, by rw [other]; exact hq, by rw [other]; exact hsv, by rw [other]; exact hr⟩, ?_, ?_⟩
    all_goals subst hu; assumption
  have both : (onlyWaiter m).set m.other true = .both true := by cases m <;> rfl
  by_cases can : s.sched.path.holder = none ∧ s.store.port ≠ .g
  · rw [if_pos can] at hu ⊢
    have joins := exec_storeCheck_joins (note := noteOther) serves (cw := .both true) (nw := s.store.nextWaiters) (by
      rw [State.takeStoreCheck_running (by rw [← hu]), ← hu, if_pos rfl, both])
    rw [joins, ← hu]
  · rw [if_neg can] at hu ⊢
    have joins := exec_storeCheck_joins (note := noteOther) serves (cw := .both true) (nw := s.store.nextWaiters) (by
      rw [State.takeStoreCheck_pending (by rw [← hu]), ← hu, both])
    rw [joins, ← hu]

theorem State.endBurst_races {f : Flash} {x : Transfer} {rest : List Transfer} (hs : s.AtRest) (hp : s.store.port = .g)
    (hck : s.store.check = .pending) (hh : s.sched.path.holder = none) (hr : s.sched.path.reservation = none)
    (hg : s.store.chanG = x :: rest) (hx : x.bytesDone < 224) :
    (s.endBurst f).settle.store.chanG = { x with bytesDone := x.bytesDone + 32 } :: rest ∧
      (((s.endBurst f).settle.store.check = .running ∧ (s.endBurst f).settle.store.port = .check) ∨
        (s.store.grantedFirst = false ∧ (s.endBurst f).settle.store.check = .pending ∧ (s.endBurst f).settle.store.port = .g ∧
          (s.endBurst f).settle.store.grantedFirst = true)) := by
  have ended := State.endBurst_more (f := f) hp hg hx
  generalize s.endBurst f = y at ended ⊢
  have due : y.sched.arbDue = false := by rw [ended]; exact hs.2.1
  have store : y.settle.store = y.ports.store := by
    rw [State.settle_of_arb (State.settleArb_of_not_due _ due), (State.txChoose_frame _ _).2.2.1, (State.txChoose_frame _ _).2.2.1]
  have can : y.checkCanBegin = true := by
    rw [State.checkCanBegin_of_pending (by rw [ended]; exact hck), ended]
    exact ⟨hh, hr, nofun⟩
  have list : y.store.chanG = { x with bytesDone := x.bytesDone + 32 } :: rest := by rw [ended]
  have pending : y.store.check = .pending := by rw [ended]; exact hck
  have first : y.store.grantedFirst = s.store.grantedFirst := by rw [ended]
  rw [store, ← list, ← first]
  by_cases hrace : (y.checkCanBegin && !y.store.grantedFirst && y.store.port = .idle && !y.eligibleS && y.eligibleG) = true
  · have raced : y.grantRace = { y with store := { y.store with
        races := y.store.races + 1, grantedFirst := Config.grantBeforeCheck y.store.races,
        port := racePort (Config.grantBeforeCheck y.store.races) y.store.port } } := if_pos hrace
    simp only [Bool.and_eq_true, Bool.not_eq_true'] at hrace
    generalize Config.grantBeforeCheck y.store.races = grants at raced
    cases grants with
    | true =>
      have no : y.grantRace.checkCanBegin = false := by
        rw [raced]
        simp [State.checkCanBegin, racePort]
      rw [State.ports, State.tryBeginCheck_of_not _ no, raced, State.portDecide_of_rest _ (by exact nofun)]
      exact ⟨rfl, .inr ⟨hrace.1.1.1.2, pending, rfl, rfl⟩⟩
    | false =>
      have yes : y.grantRace.checkCanBegin = true := by
        rw [raced]
        exact can
      rw [State.ports, State.tryBeginCheck, if_pos yes, raced, State.portDecide_of_rest _ (by exact nofun)]
      exact ⟨rfl, .inl ⟨rfl, rfl⟩⟩
  · have raced : y.grantRace = y := if_neg hrace
    rw [State.ports, raced, State.tryBeginCheck, if_pos can, State.portDecide_of_rest _ (by exact nofun)]
    exact ⟨rfl, .inl ⟨rfl, rfl⟩⟩

/-- Settles O27: with the check IDLE, the new check begins or waits as the path and the port let it; with one about, its link joins
the waiters. Both links at one moment are the first two in turn. -/
theorem storeCheckTakesWaiter : Obligations.StoreCheckTakesWaiter := by
  refine ⟨fun s m note h => ⟨fun hck hh hres hp => ?_, fun hck hh hres => ?_, fun r c hck hres hc hw hsp hok hall hfb => ?_, fun hck => ?_,
    fun hck hnow => ?_, fun hck hnow => ?_⟩, fun s noteW noteD hW hD hck hres => ?_, fun s hup => ?_,
    fun s f x rest hs hp hck hh hr hg hx => ?_⟩
  · refine (exec_storeCheck_idle h hck hres).trans ?_
    rw [if_pos ⟨hh, hp⟩]
    rfl
  · refine (exec_storeCheck_idle h hck hres).trans ?_
    rw [if_neg fun k => hh.elim (fun n => n k.1) fun g => k.2 g]
    rfl
  · exact exec_storeCheck_unreserves h hck hres hc hsp hok hall hfb
  · exact exec_storeCheck_joins h (State.takeStoreCheck_pending hck)
  · exact exec_storeCheck_joins h ((State.takeStoreCheck_running hck).trans (by rw [if_neg hnow]))
  · exact exec_storeCheck_joins h ((State.takeStoreCheck_running hck).trans (by rw [if_pos hnow]))
  · obtain ⟨u, first, second⟩ := exec_storeCheck_both (m := .w) hW hD hck hres noteW noteD
    obtain ⟨v, first', second'⟩ := exec_storeCheck_both (m := .d) hD hW hck hres noteD noteW
    refine ⟨u, v, _, first, second, first', second', ?_⟩
    dsimp only
    split
    · exact ⟨rfl, rfl, rfl⟩
    · exact ⟨rfl, rfl, rfl⟩
  · refine (running_of_up hup _).trans (congrArg _ ?_)
    by_cases hck : s.store.check = .pending
    · unfold State.tryBeginCheck
      simp only [State.checkCanBegin_of_pending hck, hck, true_and]
      rfl
    · have no : s.checkCanBegin = false := by simp [State.checkCanBegin, hck]
      rw [State.tryBeginCheck_of_not _ no, if_neg fun k => hck k.1]
  · obtain ⟨list, ends⟩ := State.endBurst_races (f := f) hs hp hck hh hr hg hx
    refine ⟨_, exec_storeBurstEnd_up hs.1 f, list, fun hfirst => ends.resolve_right fun k => ?_, fun _ => ends.imp_right And.right⟩
    exact Bool.noConfusion (hfirst.symm.trans k.1)

end Sys2Proof.Machine
end

section
/-! SUPPORT. The display's update event and the bands (R157 to R160, R164). -/

namespace Sys2Proof.Machine

variable {s t : State} {m : Side} {i : Fin 24} {c : Cue}

/-! ### What a taken update event shows (R158 to R160, R164) -/

/-- The choice among the cues on the display, by what they show. -/
theorem State.pickBest_shown {shows : Cue → Bool} (hc : s.sched.table[i] = some c) (hshows : shows c = true)
    (best : ∀ (j : Fin 24) (d : Cue), s.sched.table[j] = some d → j ≠ i → shows d = true →
      c.cls.rank < d.cls.rank ∨ (c.cls.rank = d.cls.rank ∧ c.latestStart < d.latestStart)) :
    pickBest Cue.shownBefore (s.tableCues.filter fun p => shows p.2) = some (i, c) := by
  refine pickBest_of_best (List.mem_filter.2 ⟨(s.mem_tableCues i c).2 hc, hshows⟩) ?_ (by simp [Cue.shownBefore, Cue.outranks])
  rintro ⟨j, d⟩ hm hne
  obtain ⟨hd, hsh⟩ := List.mem_filter.1 hm
  have hj : j ≠ i := by
    rintro rfl
    exact hne (by rw [Option.some.inj ((((s.mem_tableCues j d).1 hd).symm).trans hc)])
  have := best j d ((s.mem_tableCues j d).1 hd) hj hsh
  simp only [Cue.shownBefore, Cue.outranks, Bool.or_eq_true, Bool.and_eq_true, decide_eq_true_eq, Bool.or_eq_false_iff,
    Bool.and_eq_false_iff, decide_eq_false_iff_not]
  omega

/-- The state after a taken update event. -/
def State.updated (s : State) : State := { s with
  display := { s.display with
    slots := Vector.ofFn fun i => (s.display.slots[i]).takeStaging,
    frame := Vector.ofFn s.takeStagings.frameRow,
    frozen := { w := s.frozenFor .w, d := s.frozenFor .d },
    transfer := .sending } }

theorem State.update_idle (h : s.display.transfer = .idle) : s.update = s.updated := by
  unfold State.update
  rw [h]
  rfl

theorem State.updated_slot (k : Fin 16) : s.updated.display.slots[k] = (s.display.slots[k]).takeStaging := by
  simp [State.updated]

theorem State.updated_messageRow (r : Fin 16) : s.updated.display.frame[8 + r.val] = s.takeStagings.messageRow r := by
  simp only [State.updated, Vector.getElem_ofFn, State.frameRow, show ¬8 + r.val < 8 by omega, show 8 + r.val < 24 by omega,
    dif_pos, dif_neg, not_false_eq_true, Nat.add_sub_cancel_left]

/-- The rows of a machine's band in a frame. -/
def Display.bandRow (d : Display) (m : Side) (r : Fin 8) : BitVec 128 :=
  match m with
  | .w => d.frame[r.val]
  | .d => d.frame[24 + r.val]

theorem State.updated_bandRow (m : Side) (r : Fin 8) : s.updated.display.bandRow m r = (s.bandFor m)[r] := by
  cases m with
  | w =>
    simp only [Display.bandRow, State.updated, Vector.getElem_ofFn, State.frameRow, r.isLt, dif_pos]
    rfl
  | d =>
    simp only [Display.bandRow, State.updated, Vector.getElem_ofFn, State.frameRow, show ¬24 + r.val < 8 by omega,
      show ¬24 + r.val < 24 by omega, dif_neg, not_false_eq_true, Nat.add_sub_cancel_left]
    rfl

theorem State.updated_frozen (m : Side) : s.updated.display.frozen.get m = s.frozenFor m := by cases m <;> rfl

/-- The message area of a slot. -/
theorem State.messageRow_some {k : Fin 16} (r : Fin 16) (h : s.messageSlot = some k) :
    s.takeStagings.messageRow r = (s.updated.display.slots[k]).shown[r] := by
  have slot : s.takeStagings.messageSlot = some k := h
  unfold State.messageRow
  rw [slot]
  rfl

theorem State.messageRow_none (r : Fin 16) (h : s.messageSlot = none) : s.takeStagings.messageRow r = 0 := by
  have slot : s.takeStagings.messageSlot = none := h
  unfold State.messageRow
  rw [slot]

/-- An entry of lists of one length, one after the other. -/
theorem getElem?_flatMap_of_length {α β : Type} {f : α → List β} {n : Nat} (hf : ∀ a, (f a).length = n) (l : List α) (r k : Nat)
    (hk : k < n) : (l.flatMap f)[n * r + k]? = l[r]?.bind fun a => (f a)[k]? := by
  induction l generalizing r with
  | nil => rfl
  | cons a l ih =>
    rw [List.flatMap_cons]
    cases r with
    | zero =>
      rw [Nat.mul_zero, Nat.zero_add, List.getElem?_append_left (by rw [hf]; exact hk)]
      rfl
    | succ r =>
      have past : n * (r + 1) + k = n + (n * r + k) := by rw [Nat.mul_succ]; omega
      rw [past, List.getElem?_append_right (by rw [hf]; omega), hf, Nat.add_sub_cancel_left, ih]
      rfl

/-- What the display port sends (R158). -/
theorem Display.transferBytes_bit (d : Display) (r : Fin 32) {k j : Nat} (hk : k < 16) (hj : j < 8) :
    (d.transferBytes.getD (16 * r.val + k) 0).getLsbD (7 - j) = (d.frame[r]).getLsbD (127 - (8 * k + j)) := by
  have row : d.transferBytes[16 * r.val + k]? = some ((d.frame[r]).extractLsb' (120 - 8 * k) 8) := by
    rw [Display.transferBytes, getElem?_flatMap_of_length (n := 16) (by simp [bytesOfRow]) _ _ _ hk]
    simp [bytesOfRow, hk]
  rw [List.getD_eq_getElem?_getD, row, Option.getD_some, BitVec.getLsbD_extractLsb', decide_eq_true (by omega : 7 - j < 8),
    Bool.true_and]
  congr 1
  omega

/-- The band of an unattached machine is blank (R159). -/
theorem State.composeBand_unattached (h : (s.context m).attached = false) (r : Fin 8) : (s.composeBand m)[r] = 0 := by
  simp [State.composeBand, State.bandRow, h]

/-- Settles O46: the state after a taken update event, row by row. -/
theorem updateComposesFrame : Obligations.UpdateComposesFrame := by
  refine fun s hup => ⟨fun hsend => ?_, fun hidle => ⟨s.updated, ?_, rfl, ?_, fun i c m k r hc hst hsc hm best => ?_,
    fun none_shown r => ?_, ⟨_, rfl, Display.transferBytes_length _, fun r k j hk hj => Display.transferBytes_bit _ r hk hj⟩,
    ?_⟩⟩
  · refine (running_of_up hup _).trans (congrArg _ ?_)
    unfold State.update
    rw [hsend]
  · exact (running_of_up hup _).trans (congrArg _ (State.update_idle hidle))
  · intro k x
    rw [State.updated_slot]
    simp only [SceneSlot.takeStaging, SceneSlot.complete, decide_eq_true_eq]
    rfl
  · have chosen : s.sceneCue = some (i, c) := State.pickBest_shown (shows := fun d => d.onStage && d.scene.isSome) hc
      (by simpa [Cue.onStage, hsc] using hst) fun j d hd hj hshow => by
        simp only [Cue.onStage, Bool.and_eq_true, Bool.or_eq_true, decide_eq_true_eq] at hshow
        exact best j d hd hj hshow.1 (Option.isSome_iff_ne_none.1 hshow.2)
    rw [State.updated_messageRow]
    refine State.messageRow_some r ?_
    unfold State.messageSlot
    rw [chosen]
    simp only [hm, hsc]
  · have chosen : s.sceneCue = none := by
      rw [State.sceneCue, pickBest_eq_none, List.filter_eq_nil_iff]
      rintro ⟨i, c⟩ hmem hshow
      simp only [Cue.onStage, Bool.and_eq_true, Bool.or_eq_true, decide_eq_true_eq] at hshow
      rw [none_shown i c ((s.mem_tableCues i c).1 hmem) hshow.1] at hshow
      exact absurd hshow.2 (by simp)
    have slot : s.messageSlot = s.focus.bind fun h => (s.context h).idleScene.map (sceneSlot h) := by
      unfold State.messageSlot
      rw [chosen]
      cases s.focus <;> rfl
    rw [State.updated_messageRow]
    cases hfocus : s.focus with
    | none =>
      exact State.messageRow_none r (by simp [slot, hfocus])
    | some h =>
      cases hscene : (s.context h).idleScene with
      | none => simpa [hscene] using State.messageRow_none r (by rw [slot, hfocus]; simp [hscene])
      | some k => simpa [hscene] using State.messageRow_some r (by rw [slot, hfocus]; simp [hscene])
  · intro m r row
    have shown : row = (s.bandFor m)[r] := by
      rw [← State.updated_bandRow]
      cases m <;> rfl
    rw [State.updated_frozen, shown]
    refine ⟨fun held => ⟨⟨_, if_pos held, rfl⟩, fun b hb => ?_, fun hb => ?_⟩, fun free => ⟨?_, ?_, fun una => ?_⟩⟩
    · simp [State.frozenFor, State.bandFor, held, hb]
    · simp [State.frozenFor, State.bandFor, held, hb]
    · simp [State.frozenFor, free]
    · simp [State.bandFor, free]
    · have own : s.bandFor m = s.composeBand m := by simp [State.bandFor, free]
      rw [own, State.composeBand_unattached una]

/-! ### The dots of a band (R159) -/

/-- The dots of one glyph at `pos`. -/
theorem glyphDot (g : BitVec 6) {pos x : Nat} (hpos : pos ≤ 122) (hx : x < 128) :
    (g.setWidth 128 <<< (122 - pos)).getLsbD (127 - x) = if pos ≤ x ∧ x < pos + 6 then g.getLsbD (5 - (x - pos)) else false := by
  rw [BitVec.getLsbD_shiftLeft, BitVec.getLsbD_setWidth]
  by_cases hin : pos ≤ x ∧ x < pos + 6
  · rw [if_pos hin, show 127 - x - (122 - pos) = 5 - (x - pos) by omega]
    simp [show 127 - x < 128 by omega, show ¬127 - x < 122 - pos by omega, show 5 - (x - pos) < 128 by omega]
  · rw [if_neg hin]
    by_cases hlow : 127 - x < 122 - pos
    · simp [hlow]
    · rw [BitVec.getLsbD_of_ge g _ (by omega)]
      simp

/-- Outside its glyphs a run of glyphs is off. -/
theorem glyphsRow_off {gs : List Config.Glyph} {r pos x : Nat} (hfit : pos + 6 * gs.length ≤ 128) (hx : x < 128)
    (hout : x < pos ∨ pos + 6 * gs.length ≤ x) : (glyphsRow gs r pos).getLsbD (127 - x) = false := by
  induction gs generalizing pos with
  | nil => exact BitVec.getLsbD_zero
  | cons g gs ih =>
    rw [List.length_cons] at hfit hout
    rw [glyphsRow, BitVec.getLsbD_or, glyphDot _ (by omega) hx, if_neg (by omega), ih (by omega) (by omega)]
    rfl

/-- Glyph `k` of a run stands 6 dots wide behind the ones before it. -/
theorem glyphsRow_drawn {gs : List Config.Glyph} {r pos k d : Nat} {g : Config.Glyph} (hfit : pos + 6 * gs.length ≤ 128)
    (hk : gs[k]? = some g) (hd : d < 6) :
    (glyphsRow gs r pos).getLsbD (127 - (pos + 6 * k + d)) = (Config.glyphRow g r).getLsbD (5 - d) := by
  induction gs generalizing pos k with
  | nil => exact absurd hk nofun
  | cons h gs ih =>
    rw [List.length_cons] at hfit
    rw [glyphsRow, BitVec.getLsbD_or]
    cases k with
    | zero =>
      cases hk
      rw [glyphDot _ (by omega) (by omega), if_pos (by omega), glyphsRow_off (by omega) (by omega) (.inl (by omega)), Bool.or_false]
      congr 1
      omega
    | succ k =>
      have inside : k < gs.length := (List.getElem?_eq_some_iff.1 (show gs[k]? = some g from hk)).1
      rw [glyphDot _ (by omega) (by omega), if_neg (by omega), Bool.false_or]
      have later := ih (pos := pos + 6) (k := k) (by omega) hk
      rwa [show pos + 6 + 6 * k + d = pos + 6 * (k + 1) + d by omega] at later

/-- The time's glyphs, H:MM or HH:MM. -/
theorem timeGlyphs_eq (n : Nat) : timeGlyphs n = if 600 ≤ n then
      [digitGlyph (n / 600), digitGlyph (n / 60 % 10), colonGlyph, digitGlyph (n % 60 / 10), digitGlyph (n % 60 % 10)]
    else [digitGlyph (n / 60 % 10), colonGlyph, digitGlyph (n % 60 / 10), digitGlyph (n % 60 % 10)] := by
  by_cases h : 600 ≤ n
  · rw [timeGlyphs, if_pos (by omega), if_pos h, Nat.div_div_eq_div_mul]
    rfl
  · rw [timeGlyphs, if_neg (by omega), if_neg h]
    rfl

/-- The text and the time of a row of a band. -/
def State.bandText (s : State) (m : Side) (r : Nat) : BitVec 128 :=
  if (s.context m).bandBlink && s.blinkHidden then 0 else glyphsRow ((s.context m).bandText.map glyphOf) r 0

def State.bandTime (s : State) (m : Side) (r : Nat) : BitVec 128 :=
  if showsTime (s.context m).phase then
    glyphsRow (timeGlyphs (s.context m).remaining) r (128 - 6 * (timeGlyphs (s.context m).remaining).length) else 0

theorem State.composeBand_dot (h : (s.context m).attached = true) (r : Fin 8) (k : Nat) :
    ((s.composeBand m)[r]).getLsbD k = ((s.bandText m r.val).getLsbD k || (s.bandTime m r.val).getLsbD k) := by
  rw [← BitVec.getLsbD_or]
  simp [State.composeBand, State.bandRow, h, State.bandText, State.bandTime]

/-- Where the time's glyphs stand, counted from the last. -/
theorem timeGlyphs_drawn {n r d k : Nat} {g : Config.Glyph} (hk : (timeGlyphs n).reverse[k]? = some g) (hd : d < 6) :
    (glyphsRow (timeGlyphs n) r (128 - 6 * (timeGlyphs n).length)).getLsbD (127 - (122 - 6 * k + d)) =
      (Config.glyphRow g r).getLsbD (5 - d) := by
  have short : (timeGlyphs n).length ≤ 5 := by
    rw [timeGlyphs_eq]
    split <;> simp
  have inside : k < (timeGlyphs n).length := by simpa using (List.getElem?_eq_some_iff.1 hk).1
  rw [List.getElem?_reverse inside] at hk
  have drawn := glyphsRow_drawn (r := r) (pos := 128 - 6 * (timeGlyphs n).length) (by omega) hk hd
  rwa [show 128 - 6 * (timeGlyphs n).length + 6 * ((timeGlyphs n).length - 1 - k) + d = 122 - 6 * k + d by omega] at drawn

theorem timeGlyphs_length (n : Nat) : (timeGlyphs n).length = if 600 ≤ n then 5 else 4 := by
  rw [timeGlyphs_eq]
  split <;> rfl

/-- The text of a band is off where it is hidden and behind its last character. -/
theorem State.bandText_off {r x : Nat} (hlen : (s.context m).bandText.length ≤ 16) (hx : x < 128)
    (h : (s.context m).bandBlink = true ∧ s.blinkHidden = true ∨ 6 * (s.context m).bandText.length ≤ x) :
    (s.bandText m r).getLsbD (127 - x) = false := by
  unfold State.bandText
  split
  next => exact BitVec.getLsbD_zero
  next shown =>
    have past := h.resolve_left fun k => shown (by rw [k.1, k.2]; rfl)
    exact glyphsRow_off (by rw [List.length_map]; omega) hx (.inr (by rw [List.length_map]; omega))

theorem State.bandText_drawn {r k d : Nat} {x : Byte} (hlen : (s.context m).bandText.length ≤ 16)
    (hshown : ¬((s.context m).bandBlink = true ∧ s.blinkHidden = true)) (hx : (s.context m).bandText[k]? = some x) (hd : d < 6) :
    (s.bandText m r).getLsbD (127 - (6 * k + d)) = (Config.glyphRow (glyphOf x) r).getLsbD (5 - d) := by
  have drawn := glyphsRow_drawn (gs := (s.context m).bandText.map glyphOf) (r := r) (pos := 0) (k := k) (g := glyphOf x)
    (by rw [List.length_map]; omega) (by simp [hx]) hd
  rw [Nat.zero_add] at drawn
  rw [State.bandText, if_neg (by simpa using hshown), drawn]

/-- The time of a band is off before its first digit, and everywhere in IDLE and DONE. -/
theorem State.bandTime_off {r x : Nat} (h : showsTime (s.context m).phase = false ∨ x < if 600 ≤ (s.context m).remaining then 98 else 104) :
    (s.bandTime m r).getLsbD (127 - x) = false := by
  unfold State.bandTime
  split
  next shows =>
    have before := h.resolve_left (by simp [shows])
    have length := timeGlyphs_length (s.context m).remaining
    split at before
    · rw [if_pos ‹_›] at length
      exact glyphsRow_off (by omega) (by omega) (.inl (by omega))
    · rw [if_neg ‹_›] at length
      exact glyphsRow_off (by omega) (by omega) (.inl (by omega))
  next => exact BitVec.getLsbD_zero

theorem State.bandTime_drawn {r k d : Nat} {g : Config.Glyph} (hshows : showsTime (s.context m).phase = true)
    (hk : (timeGlyphs (s.context m).remaining).reverse[k]? = some g) (hd : d < 6) :
    (s.bandTime m r).getLsbD (127 - (122 - 6 * k + d)) = (Config.glyphRow g r).getLsbD (5 - d) := by
  rw [State.bandTime, if_pos hshows]
  exact timeGlyphs_drawn hk hd

/-- Settles O47: the text's glyphs end before dot 96 and the time's begin there or behind it, so each dot is that of one of the two. -/
theorem bandDrawsTextAndTime : Obligations.BandDrawsTextAndTime := by
  intro s m r hatt hrem hlen c row drawn hidden timed digit minutes
  have dot (x : Nat) : row.getLsbD (127 - x) = ((s.bandText m r.val).getLsbD (127 - x) || (s.bandTime m r.val).getLsbD (127 - x)) :=
    State.composeBand_dot hatt r _
  have hides : hidden ↔ (s.context m).bandBlink = true ∧ s.blinkHidden = true := by
    rw [State.blinkHidden, decide_eq_true_eq]
    rfl
  have shows : timed ↔ showsTime (s.context m).phase = true := by simp [showsTime, timed, c]
  have early {x : Nat} (h : x < 98) : x < if 600 ≤ (s.context m).remaining then 98 else 104 := by split <;> omega
  have time (ht : timed) {k : Nat} {g : Config.Glyph} (hk : (timeGlyphs (s.context m).remaining).reverse[k]? = some g) (hk5 : k < 5) :
      drawn g (122 - 6 * k) := fun d hd => by
    rw [dot, State.bandText_off hlen (by omega) (.inr (by omega)), Bool.false_or]
    exact State.bandTime_drawn (shows.1 ht) hk hd
  have glyphs : (timeGlyphs (s.context m).remaining).reverse = [digit (minutes % 10), digit (minutes / 10), .code 0x3A,
      digit (c.remaining / 60 % 10)] ++ if 600 ≤ c.remaining then [digit (c.remaining / 600)] else [] := by
    rw [timeGlyphs_eq]
    split <;> rfl
  refine ⟨fun hshown k x hx d hd => ?_, fun x hx => ?_, fun ht => ⟨time ht (k := 0) ?_ (by omega), time ht (k := 1) ?_ (by omega),
    time ht (k := 2) ?_ (by omega), time ht (k := 3) ?_ (by omega), fun h => time ht (k := 4) ?_ (by omega), fun h x h1 h2 => ?_⟩,
    fun ht x h1 h2 => ?_⟩
  · have inside : k < (s.context m).bandText.length := (List.getElem?_eq_some_iff.1 hx).1
    rw [dot, State.bandTime_off (.inr (early (by omega))), Bool.or_false]
    exact State.bandText_drawn hlen (fun h => hshown (hides.2 h)) hx hd
  · rw [dot, State.bandTime_off (.inr (early (by omega))), Bool.or_false]
    exact State.bandText_off hlen (by omega) (hx.imp (fun h => hides.1 h.1) And.left)
  iterate 4
    · rw [glyphs]
      rfl
  · rw [glyphs, if_pos h]
    rfl
  · rw [dot, State.bandText_off hlen (by omega) (.inr (by omega)), Bool.false_or]
    exact State.bandTime_off (.inr (by rw [if_neg (show ¬600 ≤ (s.context m).remaining from Nat.not_le.2 h)]; exact h2))
  · rw [dot, State.bandText_off hlen (by omega) (.inr (by omega)), Bool.false_or]
    exact State.bandTime_off (.inl (Bool.eq_false_iff.2 fun h => ht (shows.2 h)))

end Sys2Proof.Machine
end

section
/-! SUPPORT. INPUT_FORCE and the taking of a panel event without a local action (R30, R169, R173, R176 to R178). -/

namespace Sys2Proof.Machine

variable {s t u : State} {m : Side} {c : Cue}

/-! ### The fields of INPUT_FORCE (R178) -/

theorem keyOfCode_eq (n : Nat) (h : 1 ≤ n) :
    keyOfCode n = [Key.push, .start, .options, .back, .swap, .volume, .assist][n - 1]? := by
  obtain ⟨k, rfl⟩ := Nat.exists_eq_add_of_le' h
  show ([Key.push, .start, .options, .back, .swap, .volume, .assist].map some)[k]?.join = _
  rw [List.getElem?_map]
  simp only [Nat.add_sub_cancel]
  cases [Key.push, .start, .options, .back, .swap, .volume, .assist][k]? <;> rfl

/-- A class code of neither the knob nor the proximity line is read as a key's event. -/
theorem parseInputForce_key {cls : Byte} (step action : Byte) (h0 : cls.toNat ≠ 0) (h8 : cls.toNat ≠ 8) :
    parseInputForce [cls, step, action] = (keyOfCode cls.toNat).bind fun k => (actionOfCode action.toNat).map (.key k) := by
  unfold parseInputForce
  dsimp only
  split
  next => exact absurd ‹_› h0
  next => exact absurd ‹_› h8
  next =>
    cases keyOfCode cls.toNat <;> cases actionOfCode action.toNat <;> rfl

theorem parseInputForce_event {cls : Byte} (step : Byte) {action : Byte} {k : Key} {a : KeyAction} (h : 1 ≤ cls.toNat)
    (hk : [Key.push, .start, .options, .back, .swap, .volume, .assist][cls.toNat - 1]? = some k)
    (ha : [KeyAction.press, .long, .release][action.toNat]? = some a) :
    parseInputForce [cls, step, action] = some (.key k a) := by
  have h8 : cls.toNat ≠ 8 := fun e => by simp [e] at hk
  rw [parseInputForce_key step action (by omega) h8, keyOfCode_eq _ h, hk]
  show (actionOfCode action.toNat).map _ = _
  rw [actionOfCode, ha]
  rfl

theorem parseInputForce_none {cls step action : Byte}
    (h : 8 < cls.toNat ∨ (1 ≤ cls.toNat ∧ cls.toNat ≤ 7 ∧ 2 < action.toNat) ∨ (cls = 0 ∧ step ≠ 1 ∧ step ≠ 0xFF)) :
    parseInputForce [cls, step, action] = none := by
  rcases h with h | ⟨h1, h7, h⟩ | ⟨rfl, h1, hff⟩
  · rw [parseInputForce_key step action (by omega) (by omega), keyOfCode_eq _ (by omega), List.getElem?_eq_none]
    · rfl
    · simp only [List.length_cons, List.length_nil]
      omega
  · rw [parseInputForce_key step action (by omega) (by omega), actionOfCode, List.getElem?_eq_none (by simp only [List.length_cons, List.length_nil]; omega)]
    cases keyOfCode cls.toNat <;> rfl
  · show (if step = 1 then some (PanelEvent.detent true) else if step = 0xFF then some (.detent false) else none) = none
    rw [if_neg h1, if_neg hff]

theorem parseInputForce_detent {step action : Byte} (up : Bool) (h : step = if up then 1 else 0xFF) :
    parseInputForce [0, step, action] = some (.detent up) := by
  subst h
  cases up <;> rfl

theorem parseInputForce_some {cls step action : Byte}
    (h : (cls = 0 ∧ (step = 1 ∨ step = 0xFF)) ∨ (1 ≤ cls.toNat ∧ cls.toNat ≤ 7 ∧ action.toNat ≤ 2) ∨ cls = 8) :
    ∃ e, parseInputForce [cls, step, action] = some e := by
  rcases h with ⟨rfl, rfl | rfl⟩ | ⟨h1, h7, h2⟩ | rfl
  · exact ⟨_, parseInputForce_detent true rfl⟩
  · exact ⟨_, parseInputForce_detent false rfl⟩
  · exact ⟨_, parseInputForce_event step h1 (List.getElem?_eq_getElem (by simp only [List.length_cons, List.length_nil]; omega))
      (List.getElem?_eq_getElem (by simp only [List.length_cons, List.length_nil]; omega))⟩
  · exact ⟨.proximity, rfl⟩

/-- INPUT_FORCE of an event the focus holder may make. -/
theorem handle_inputForce {p : List Byte} {e : PanelEvent} (hp : parseInputForce p = some e) (hf : s.focus = some m) :
    s.handle m .inputForce p = (.done [], s.takeEvent e) := by
  rw [State.handle, hp]
  show s.inputForce m e = _
  rw [State.inputForce, if_pos hf]

/-! ### What is left of an event without a local action (R173) -/

/-- The display after a panel input: FULL, the idle timer restarted or stopped (R169). -/
def State.displayOfInput (s : State) : Display :=
  { s.display with backlight := .full, idleTimer := if s.anyPlaying then none else some (s.now + 60000000) }

theorem State.panelInput_eq (s : State) : s.panelInput = { s with display := s.displayOfInput } := by
  have playing : s.wakeBacklight.anyPlaying = s.anyPlaying := rfl
  unfold State.panelInput State.displayOfInput
  dsimp only
  rw [playing]
  cases s.anyPlaying <;> rfl

/-- A link after an INPUT report that is not a detent's is offered to it (R173 step 4, R176, R177). -/
def Link.reported (l : Link) (masked : Bool) (r : InputContent) : Link :=
  if masked = false then l
  else if l.inputs.length < 16 then
    { l with inputs := l.inputs ++ [{ order := l.nextOrder, content := r }], nextOrder := l.nextOrder + 1 }
  else { l with fault := true, causes := { l.causes with reportDrop := true } }

theorem Link.addInput_other (l : Link) {r : InputContent} (h : ∀ steps index ended, r ≠ .knob steps index ended) :
    l.addInput r = l.reported true r := by
  unfold Link.addInput Link.reported
  cases l.inputs.getLast? <;> cases r <;> first | rfl | exact absurd rfl (h _ _ _)

theorem State.reportInput_other (s : State) (m : Side) (k : InputClass) {r : InputContent}
    (h : ∀ steps index ended, r ≠ .knob steps index ended) : s.reportInput m k r =
      { s with links := s.links.modify m fun l => l.reported (hasClass (s.panel.mask.get m) k) r } := by
  unfold State.reportInput
  split
  next hm =>
    rw [hm]
    exact State.onLink_congr s m (Link.addInput_other _ h)
  next hm =>
    rw [Bool.not_eq_true] at hm
    rw [hm]
    exact (s.onLink_self m).symm

/-- A key event without a local action is one of START, OPTIONS, BACK and the push, a RELEASE, or SWAP LONG (R173). -/
def actsAlone (k : Key) (a : KeyAction) : Prop := ∀ (s : State) (h : Side), s.keyAction h k a = s

/-- What a key event without a local action leaves (R173). -/
theorem State.takeEvent_alone {k : Key} {a : KeyAction} (hf : s.focus = some m) (h : actsAlone k a) : s.takeEvent (.key k a) = { s with
    ctx := s.ctx.modify m fun c => { c with lastInput := some s.now },
    panel := { s.panel with summary := s.panel.summary.modify m fun x => x ||| (1#9 <<< classCode (keyClass k)) },
    links := s.links.modify m fun l => l.reported ((s.panel.mask.get m).getLsbD (classCode (keyClass k))) (.key k a),
    display := s.displayOfInput } := by
  rw [State.takeEvent_of_focus hf]
  show ((((s.noteInput m).keyAction m k a).summarise m _).reportInput m _ (.key k a)).panelInput = _
  rw [h, State.reportInput_other _ _ _ (fun _ _ _ h => by cases h), State.panelInput_eq]
  rfl

theorem actsAlone_of {k : Key} {a : KeyAction} (h : k ∈ [Key.push, .start, .options, .back] ∨ a = .release ∨ (k = .swap ∧ a = .long)) :
    actsAlone k a := by
  intro s n
  rcases h with h | rfl | ⟨rfl, rfl⟩
  · simp only [List.mem_cons, List.not_mem_nil, or_false] at h
    rcases h with rfl | rfl | rfl | rfl <;> cases a <;> rfl
  · cases k <;> rfl
  · rfl

/-- The keys in the order of their class codes (01 §1.9). -/
theorem classCode_keyClass {n : Nat} {k : Key} (h : [Key.push, .start, .options, .back, .swap, .volume, .assist][n]? = some k) :
    classCode (keyClass k) = n + 1 := by
  have small : n < 7 := (List.getElem?_eq_some_iff.1 h).1
  interval_cases n <;> cases h <;> rfl

theorem quietKeys {n : Nat} {k : Key} (h : [Key.push, .start, .options, .back, .swap, .volume, .assist][n]? = some k) (hn : n < 4) :
    k ∈ [Key.push, .start, .options, .back] := by interval_cases n <;> cases h <;> simp

/-- What a PROXIMITY event leaves before it reaches the backlight (R173, R176). -/
theorem State.takeEvent_proximity (hf : s.focus = some m) : s.takeEvent .proximity = State.proximityInput { s with
    panel := { s.panel with summary := s.panel.summary.modify m fun x => x ||| (1#9 <<< 8) },
    links := s.links.modify m fun l => l.reported ((s.panel.mask.get m).getLsbD 8) .proximity } := by
  rw [State.takeEvent_of_focus hf]
  show ((s.summarise m _).reportInput m _ .proximity).proximityInput = _
  rw [State.reportInput_other _ _ _ (fun _ _ _ h => by cases h)]
  rfl

theorem State.link_modify_other {f : Link → Link} (h : t.links = s.links.modify m f) : t.link m.other = s.link m.other := by
  unfold State.link
  rw [h, PerSide.get_modify, if_neg (Side.other_ne m)]

/-! ### The start of a feedback cue on voice 0 (R70, R141) -/

/-- A feedback cue, set with the serial `uid`. -/
def feedbackCue (uid : Nat) (q : Fin 32) : Cue := panelCue uid none (some ⟨q, .together⟩)

/-- Its record as it starts (R66). -/
def feedbackPlaying (uid : Nat) (q : Fin 32) (start : Nat) : Cue :=
  { feedbackCue uid q with state := .playing, phase := some .main, latestStart := start }

/-- The start of the pending feedback cue: `x` is the part once it is given voice 0 and its reservations are gone. -/
theorem State.startCue_feedback {uid : Nat} {q : Fin 32} {p : Pattern} {P : Resource} {V : Vector Resource 4}
    (hc : s.sched.feedback.pending = some (feedbackCue uid q)) (hp : s.tone.patterns[q] = some p)
    (hgive : (s.given .feedback (some 0) (feedbackCue uid q)).dropReservations .feedback =
      { s with sched := { s.sched with path := P, voices := V } }) (hV : (V[(0 : Fin 4)]).holder = some .feedback) :
    ∃ x : State, s.startCue .feedback (some 0) = x.withPattern 0 q p ∧ x = { s with
        sched := { s.sched with
          path := P, voices := V, feedback := ⟨none, some (feedbackPlaying uid q s.sched.nextStart)⟩,
          nextStart := s.sched.nextStart + 1 },
        display := s.displayOfStart x } ∧ x.RingChosen s.display.ringEffect := by
  obtain ⟨y, hy⟩ : ∃ y : State, y = { s with sched := { s.sched with
    path := P, voices := V, feedback := ⟨none, some (feedbackPlaying uid q s.sched.nextStart)⟩,
    nextStart := s.sched.nextStart + 1 } } := ⟨_, rfl⟩
  have placed : s.placed .feedback (some 0) (feedbackCue uid q) = y := by
    have parts : s.placed .feedback (some 0) (feedbackCue uid q) =
        ((s.given .feedback (some 0) (feedbackCue uid q)).dropReservations .feedback).onSched fun sc =>
          { sc with feedback := ⟨none, some (feedbackPlaying uid q s.sched.nextStart)⟩, nextStart := sc.nextStart + 1 } := rfl
    rw [parts, hgive, hy]
    rfl
  have start := State.startCue_eq (s := s) (r := .feedback) (some 0) hc
  have need : s.needsPath (feedbackCue uid q) = false := rfl
  rw [need, if_neg Bool.false_ne_true, placed] at start
  obtain ⟨eq, ring⟩ := y.startDisplay_eq
  generalize y.wakeBacklight.stopIdle.chooseRing = x at start eq ring
  rw [hy] at eq ring
  refine ⟨x, start.trans ?_, eq, ring⟩
  refine State.beginTone_eq (c := feedbackPlaying uid q s.sched.nextStart) (part := ⟨q, .together⟩) ?_ ?_ rfl ?_
  · rw [eq]
    rfl
  · have holder : (x.sched.voices[(0 : Fin 4)]).holder = some .feedback := by rw [eq]; exact hV
    exact (find_allVoices _ _).2 ⟨by simpa using holder, fun w hw => absurd hw (by simp)⟩
  · rw [eq]
    exact hp

/-- A panel entry whose cue does not play is not superseded (R54, R55). -/
theorem State.supersede_idle {r : CueRef} (h : ∀ c, s.cue? r = some c → c.state ≠ .playing) : s.supersede r = s := by
  unfold State.supersede
  cases hc : s.cue? r with
  | none => rfl
  | some c => exact if_neg (h c hc)

theorem State.setFeedback_idle (h : ∀ c, s.sched.feedback.current = some c → c.state ≠ .playing) (q : Fin 32) :
    s.setFeedback q = { s with sched := { s.sched with
      feedback := ⟨some (feedbackCue s.sched.nextUid q), s.sched.feedback.current⟩, nextUid := s.sched.nextUid + 1,
      arbDue := true } } := by
  have idle : s.setFeedback q = (State.supersede { s with sched := { s.sched with
      feedback := ⟨some (feedbackCue s.sched.nextUid q), s.sched.feedback.current⟩, nextUid := s.sched.nextUid + 1 } } .feedback).setArb := rfl
  rw [idle, State.supersede_idle (by exact h)]
  rfl

/-- With nothing else to serve and voice 0 free, a feedback cue plays in the arbitration it sets off. -/
theorem State.settleArb_feedback {uid : Nat} {q : Fin 32} {p : Pattern} (hdue : s.sched.arbDue = false) (hcand : s.candidates = [])
    (hfb : s.sched.feedback.pending = some (feedbackCue uid q)) (hp : s.tone.patterns[q] = some p)
    (hv : s.sched.voices[(0 : Fin 4)] = ⟨none, none⟩) (hun : s.Unreserved .feedback) :
    ∃ x : State, s.setArb.settleArb = x.withPattern 0 q p ∧ x = { s with
        sched := { s.sched with
          voices := s.sched.voices.set 0 ⟨some .feedback, none⟩,
          feedback := ⟨none, some (feedbackPlaying uid q s.sched.nextStart)⟩, nextStart := s.sched.nextStart + 1 },
        display := s.displayOfStart x } ∧ x.RingChosen s.display.ringEffect := by
  have give : (s.given .feedback (some 0) (feedbackCue uid q)).dropReservations .feedback = { s with
      sched := { s.sched with path := s.sched.path, voices := s.sched.voices.set 0 ⟨some .feedback, none⟩ } } := by
    rw [State.given_unreserved hun, State.given_eq]
    have need : s.needsPath (feedbackCue uid q) = false := rfl
    simp only [need, Bool.false_eq_true, if_false, hv]
    rfl
  obtain ⟨x, start, eq, ring⟩ := State.startCue_feedback hfb hp give (by simp)
  refine ⟨x, State.settleArb_once rfl ?_ (by show x.sched.arbDue = false; rw [eq]; exact hdue), eq, ring⟩
  rw [State.setArb_clearArb hdue, State.arbitrate, hcand, List.foldl_nil, State.serveFeedback, hfb, hv]
  exact start

/-- An INPUT_FORCE that sets off no arbitration. -/
theorem exec_inputForce_quiet (h : s.ServesRequest m) {note : Bool} {cls step action : Byte} {e : PanelEvent}
    (hp : parseInputForce [cls, step, action] = some e) (hf : s.focus = some m) (ht : s.takeEvent e = t)
    (hsched : t.sched = s.sched) (hstore : t.store = s.store) (hstream : t.stream = s.stream)
    (hother : t.link m.other = s.link m.other) : exec (.inputForce m note [cls, step, action]) s = .next (t.done m .inputForce note) := by
  have settled := h.atRest.2
  have due : t.sched.arbDue = false := by rw [hsched]; exact settled.1
  have ports : t.ports = t := State.ports_of_rest (by unfold State.checkCanBegin; rw [hsched, hstore]; exact settled.2.1)
    (by unfold State.eligibleS State.eligibleG; rw [hstore, hstream]; exact settled.2.2.1)
  have done := exec_request_arb h .inputForce note (p := [cls, step, action]) rfl (by decide)
    ((handle_inputForce hp hf).trans (by rw [ht])) (State.settleArb_of_not_due _ due) (by rw [hother]; exact settled.link _)
  rwa [ports] at done

/-- Settles O50: the event is read, taken without a local action, and leaves nothing to settle but the reply; WAKE is the one candidate. -/
theorem forcedKeyReported : Obligations.ForcedKeyReported := by
  intro s m note cls step action h
  refine ⟨fun hbad => ?_, fun hf hok => ?_, fun k a hf h1 hc hk ha => ?_, ?_⟩
  · refine exec_request_format h .inputForce note rfl ?_
    rw [State.handle, parseInputForce_none hbad]
    rfl
  · obtain ⟨e, he⟩ := parseInputForce_some (step := step) hok
    refine exec_request_refused h .inputForce note rfl ?_ h.atRest.2
    rw [State.handle, he]
    show s.inputForce m e = _
    rw [State.inputForce, if_neg hf]
  · have alone : actsAlone k a := actsAlone_of (by
      rcases hc with hc | rfl | ⟨rfl, rfl⟩
      · exact .inl (quietKeys hk (by omega))
      · cases ha
        exact .inr (.inl rfl)
      · cases ha
        cases hk
        exact .inr (.inr ⟨rfl, rfl⟩))
    have code : classCode (keyClass k) = cls.toNat := by
      have := classCode_keyClass hk
      omega
    have taken := State.takeEvent_alone hf alone
    rw [code] at taken
    exact exec_inputForce_quiet h (parseInputForce_event step h1 hk ha) hf taken rfl rfl rfl
      (State.link_modify_other (f := fun l => l.reported _ (.key k a)) rfl)
  · intro hf hc taken
    subst hc
    have event : s.takeEvent .proximity = State.proximityInput taken := State.takeEvent_proximity hf
    refine ⟨fun hfull => ?_, fun p hdim hfb hv hcand hun hp => ?_⟩
    · refine exec_inputForce_quiet (t := { taken with
        display := { s.display with idleTimer := if s.anyPlaying then none else some (s.now + 60000000) } }) h (e := .proximity) rfl hf ?_
        rfl rfl rfl (State.link_modify_other (f := fun l => l.reported _ .proximity) rfl)
      rw [event]
      unfold State.proximityInput
      rw [show taken.display.backlight = .full from hfull]
      dsimp only
      rw [State.panelInput_eq, State.displayOfInput, ← hfull]
      rfl
    · let base : State := { taken with
        sched := { s.sched with
          feedback := ⟨some (feedbackCue s.sched.nextUid 6), s.sched.feedback.current⟩, nextUid := s.sched.nextUid + 1 },
        display := s.displayOfInput }
      have idle : ∀ c, s.sched.feedback.current = some c → c.state ≠ .playing := fun c hc => by
        rw [hfb] at hc
        cases hc
      have pending : s.takeEvent .proximity = base.setArb := by
        rw [event]
        unfold State.proximityInput
        rw [show taken.display.backlight = .dimmed from hdim]
        dsimp only
        rw [State.setFeedback_idle (s := taken) idle, State.panelInput_eq]
        rfl
      obtain ⟨x, arb, eq, -⟩ := State.settleArb_feedback (s := base) h.atRest.2.1 hcand rfl hp hv hun
      have settled : (x.withPattern 0 6 p).ports = x.withPattern 0 6 p :=
        State.ports_of_rest (by rw [eq]; exact h.atRest.2.2.1) (by rw [eq]; exact h.atRest.2.2.2.1)
      have handled : s.handle m .inputForce [8, step, action] = (.done [], base.setArb) :=
        (handle_inputForce (e := .proximity) rfl hf).trans (congrArg _ pending)
      have other : (x.withPattern 0 6 p).link m.other = s.link m.other := by
        rw [eq]
        exact State.link_modify_other (f := fun l => l.reported ((s.panel.mask.get m).getLsbD 8) .proximity) rfl
      have done := exec_request_arb h .inputForce note rfl (by decide) handled arb (by rw [other]; exact h.atRest.2.link _)
      rw [settled] at done
      refine ⟨_, feedbackPlaying s.sched.nextUid 6 s.sched.nextStart, done, rfl, rfl, rfl, rfl, rfl, rfl, ?_⟩
      rw [eq]
      rfl

end Sys2Proof.Machine
end

section
/-! SUPPORT. The local actions of panel events (R33, R173 to R177): what they leave of contexts, focus and links. -/

namespace Sys2Proof.Machine

variable {s t u y : State} {m : Side} {c : Cue} {note : Bool}

/-! ### A served request, in whatever arbitrations it ends -/

/-- What a served request leaves beside the scheduler and the sound, and of its own link beside what is sent. -/
theorem exec_request_units (h : s.ServesRequest m) (k : RequestKind) (note : Bool) {p : List Byte} (hl : lenAllowed k p = true)
    (hk : k ≠ .status) {r : List Byte} (hh : s.handle m k p = (.done r, t)) :
    ∃ u, exec (requestRow m k note p) s = .next u ∧ t.SameUnits u ∧
      (u.sched = t.settleArb.sched ∧ u.utt = t.settleArb.utt ∧ u.tone = t.settleArb.tone) ∧
      ∃ d n rep tx, u.link m = { t.link m with done := (t.link m).done ++ d, nextOrder := n, reply := some rep, tx := tx } := by
  obtain ⟨x, hx⟩ : ∃ x, x = t.settleArb.formReply m k.code (.done r) note := ⟨_, rfl⟩
  have due : x.sched.arbDue = false := by rw [hx]; exact t.settleArb_arbDue
  refine ⟨x.settle, ?_, ?_, ?_, ?_⟩
  · rw [exec_request_up h.atRest.1, State.submit_of_takes h.1, State.dispatchRequest, State.linkRefusal_of_serves h hl, hx]
    have hserve : s.serveRequest m k note p = t.settleArb.formReply m k.code (.done r) note := by
      simp only [State.serveRequest, hh]
    simp only [hserve]
  · refine (t.settleArb_frame.units.trans ?_).trans x.settle_units
    rw [hx]
    refine ⟨rfl, rfl, rfl, rfl, rfl, rfl, rfl, rfl, rfl, rfl, fun n => ?_⟩
    rw [State.formReply_link]
    split
    next e => rw [e]
    next => rfl
  · obtain ⟨sched, -, utt, tone, -⟩ := State.settle_keeps due
    rw [sched, utt, tone, hx]
    exact ⟨rfl, rfl, rfl⟩
  · obtain ⟨d, n, arb, -⟩ := t.settleArb_frame.links m
    have formed : ∃ rep, x.link m = { t.settleArb.link m with reply := some rep } := by
      rw [hx, State.formReply_link, if_pos rfl]
      exact ⟨_, rfl⟩
    obtain ⟨rep, formed⟩ := formed
    have chosen : ∀ z : State, z.link m = x.link m → ∃ tx, (z.txChoose m).link m = { x.link m with tx := tx } := fun z hz => by
      rw [State.txChoose_reply (r := rep) (by rw [hz, formed]), State.link_onLink_same, hz]
      exact ⟨_, rfl⟩
    have settled : ∃ tx, x.settle.link m = { x.link m with tx := tx } := by
      rw [State.settle_of_arb (State.settleArb_of_not_due _ due)]
      cases m with
      | w =>
        obtain ⟨tx, e⟩ := chosen x.ports (State.ports_link _)
        exact ⟨tx, (State.txChoose_link_of_ne _ (by decide)).trans e⟩
      | d => exact chosen (x.ports.txChoose .w) ((State.txChoose_link_of_ne _ (by decide)).trans (State.ports_link _))
    obtain ⟨tx, settled⟩ := settled
    exact ⟨d, n, rep, tx, by rw [settled, formed, arb]⟩

/-! ### The panel entries touch no link -/

theorem State.enterEnding_links (r : CueRef) (e : EndCause) : (s.enterEnding r e).links = s.links := by
  unfold State.enterEnding
  rw [State.chooseRing_eq]
  exact State.leftPlaying_links _

theorem State.supersede_links (r : CueRef) : (s.supersede r).links = s.links := by
  unfold State.supersede
  repeat' split
  all_goals first
    | rfl
    | exact State.enterEnding_links _ _

theorem State.setFeedback_links (q : Fin 32) : (s.setFeedback q).links = s.links := State.supersede_links _

theorem State.endReservations_links (r : CueRef) : (s.endReservations r).links = s.links := by
  unfold State.endReservations
  split <;> rfl

theorem State.setNarration_links (l : List PhraseItem) : (s.setNarration l).links = s.links :=
  (State.supersede_links _).trans (s.endReservations_links _)

/-- A new panel cue beside what it leaves alone. -/
theorem State.setFeedback_leaves (s : State) (q : Fin 32) :
    (s.setFeedback q).ctx = s.ctx ∧ (s.setFeedback q).focus = s.focus ∧ (s.setFeedback q).links = s.links :=
  ⟨(s.setFeedback_frame q).ctx, (s.setFeedback_frame q).focus, s.setFeedback_links q⟩

theorem State.setNarration_leaves (s : State) (l : List PhraseItem) :
    (s.setNarration l).ctx = s.ctx ∧ (s.setNarration l).focus = s.focus ∧ (s.setNarration l).links = s.links :=
  ⟨(s.setNarration_frame l).ctx, (s.setNarration_frame l).focus, s.setNarration_links l⟩

/-! ### What an event leaves of contexts, focus and links -/

/-- The moments of an event of the focus holder: its time, its local action, the summary, the report, the backlight (R173). -/
theorem State.takeEvent_leaves (hf : s.focus = some m) {e : PanelEvent} (he : setsInputTime e = true)
    (hy : (s.noteInput m).localAction m e = y) : (s.takeEvent e).ctx = y.ctx ∧ (s.takeEvent e).focus = y.focus ∧
      (s.takeEvent e).panel = { s.panel with summary := s.panel.summary.modify m fun x => addClass x (eventClass e) } ∧
      (s.takeEvent e).links =
        if hasClass (s.panel.mask.get m) (eventClass e) then y.links.modify m fun l => l.addInput (reportOf (s.context m) e)
        else y.links := by
  have panel : y.panel = s.panel := by rw [← hy]; exact State.localAction_panel _ _ _
  obtain ⟨z, hz⟩ : ∃ z, z = (y.summarise m (eventClass e)).reportInput m (eventClass e) (reportOf (s.context m) e) := ⟨_, rfl⟩
  have event : s.takeEvent e = z.panelInput := by
    rw [State.takeEvent_of_focus hf, if_pos he, hy, ← hz]
    cases e with
    | proximity => cases he
    | detent up => rfl
    | key k a => rfl
  have report : z = { y.summarise m (eventClass e) with
      links := if hasClass (s.panel.mask.get m) (eventClass e) then y.links.modify m fun l => l.addInput (reportOf (s.context m) e)
        else y.links } := by
    rw [hz, State.reportInput]
    have mask : (y.summarise m (eventClass e)).panel.mask = s.panel.mask := by rw [← panel]; rfl
    rw [mask]
    split <;> rfl
  rw [event, State.panelInput_eq, report]
  exact ⟨rfl, rfl, by rw [← panel]; rfl, rfl⟩

theorem Link.addInput_profileMark (l : Link) (r : InputContent) : (l.addInput r).profileMark = l.profileMark := by
  unfold Link.addInput
  dsimp only
  repeat' split
  all_goals rfl

theorem Link.setProfileMark_profileMark (l : Link) : l.setProfileMark.profileMark = some (l.profileMark.getD l.nextOrder) := by
  unfold Link.setProfileMark
  cases h : l.profileMark with
  | none => rfl
  | some n => exact h

/-- A key event of INPUT_FORCE: contexts, focus and PROFILE mark are what the local action makes of them. -/
theorem exec_inputForce_key (h : s.ServesRequest m) (hf : s.focus = some m) {cls step action : Byte} {k : Key} {a : KeyAction}
    (hp : parseInputForce [cls, step, action] = some (.key k a)) (hy : (s.noteInput m).keyAction m k a = y) :
    ∃ u, exec (.inputForce m note [cls, step, action]) s = .next u ∧ u.ctx = y.ctx ∧ u.focus = y.focus ∧
      (u.link m).profileMark = (y.link m).profileMark := by
  obtain ⟨ctx, focus, -, links⟩ := State.takeEvent_leaves hf (e := .key k a) rfl hy
  obtain ⟨u, exec_eq, units, -, d, n, rep, tx, link⟩ := exec_request_units h .inputForce note rfl (by decide) (handle_inputForce hp hf)
  refine ⟨u, exec_eq, units.ctx.trans ctx, units.focus.trans focus, ?_⟩
  rw [link]
  show ((s.takeEvent _).links.get m).profileMark = (y.links.get m).profileMark
  rw [links]
  split
  · rw [PerSide.get_modify_same, Link.addInput_profileMark]
  · rfl

/-- A local action that changes the holder's context and marks its profile. -/
theorem exec_inputForce_profile (h : s.ServesRequest m) (hf : s.focus = some m) {cls step action : Byte} {k : Key} {a : KeyAction}
    {f : Context → Context} (hp : parseInputForce [cls, step, action] = some (.key k a))
    (hy : (s.noteInput m).keyAction m k a = y) (leaves : y.ctx = (((s.noteInput m).onCtx m f).markProfile m).ctx ∧
      y.focus = s.focus ∧ y.links = (((s.noteInput m).onCtx m f).markProfile m).links) :
    ∃ u, exec (.inputForce m note [cls, step, action]) s = .next u ∧
      u.ctx = s.ctx.modify m (fun c => f { c with lastInput := some s.now }) ∧ u.focus = some m ∧
      (u.link m).profileMark = some ((s.link m).profileMark.getD (s.link m).nextOrder) := by
  obtain ⟨u, exec_eq, ctx, focus, mark⟩ := exec_inputForce_key (note := note) h hf hp hy
  refine ⟨u, exec_eq, ?_, by rw [focus, leaves.2.1, hf], ?_⟩
  · rw [ctx, leaves.1]
    exact PerSide.modify_modify _ _ _ _
  · rw [mark]
    unfold State.link
    rw [leaves.2.2]
    show ((s.links.modify m _).get m).profileMark = _
    rw [PerSide.get_modify_same]
    exact Link.setProfileMark_profileMark _

/-! ### Detents (R174, R177) -/

theorem State.knobStep_leaves (s : State) (m : Side) (up : Bool) :
    (s.knobStep m up).ctx = s.ctx.modify m (fun c => { c with index := (detentResult (s.context m) up).1 }) ∧
      (s.knobStep m up).focus = s.focus ∧ (s.knobStep m up).links = s.links := by
  unfold State.knobStep
  dsimp only
  split
  · exact State.setFeedback_leaves _ _
  · split
    · exact State.setNarration_leaves _ _
    · exact State.setFeedback_leaves _ _

/-- What a forced detent leaves, and its report offered to the link. -/
theorem exec_inputForce_detent (h : s.ServesRequest m) (hf : s.focus = some m) {action : Byte} (up : Bool)
    (hmask : (s.panel.mask.get m).getLsbD 0 = true) :
    ∃ u, exec (.inputForce m note [0, if up then 1 else 0xFF, action]) s = .next u ∧
      u.ctx = s.ctx.modify m (fun c => { c with index := (detentResult (s.context m) up).1, lastInput := some s.now }) ∧
      (u.panel.summary.get m).getLsbD 0 = true ∧ ∃ l, l = (s.link m).addInput (reportOf (s.context m) (.detent up)) ∧
        (u.link m).inputs = l.inputs ∧ (u.link m).fault = l.fault ∧ (u.link m).causes = l.causes := by
  obtain ⟨kctx, -, klinks⟩ := State.knobStep_leaves (s.noteInput m) m up
  obtain ⟨ctx, -, panel, links⟩ := State.takeEvent_leaves hf (e := .detent up) rfl rfl
  obtain ⟨u, exec_eq, units, -, d, n, rep, tx, link⟩ := exec_request_units h .inputForce note rfl (by decide)
    (handle_inputForce (parseInputForce_detent (action := action) up rfl) hf)
  have taken : (s.takeEvent (.detent up)).link m = (s.link m).addInput (reportOf (s.context m) (.detent up)) := by
    show (s.takeEvent _).links.get m = _
    rw [links, if_pos (by exact hmask), PerSide.get_modify_same]
    exact congrArg (fun l : PerSide Link => (l.get m).addInput _) klinks
  refine ⟨u, exec_eq, ?_, ?_, _, rfl, by rw [link, ← taken], by rw [link, ← taken], by rw [link, ← taken]⟩
  · rw [units.ctx, ctx]
    refine kctx.trans ?_
    have own : ((s.noteInput m).context m).index = (s.context m).index ∧ ((s.noteInput m).context m).programs = (s.context m).programs ∧
        ((s.noteInput m).context m).wrap = (s.context m).wrap := by
      show ((s.ctx.modify m _).get m).index = _ ∧ ((s.ctx.modify m _).get m).programs = _ ∧ ((s.ctx.modify m _).get m).wrap = _
      rw [PerSide.get_modify_same]
      exact ⟨rfl, rfl, rfl⟩
    have result : detentResult ((s.noteInput m).context m) up = detentResult (s.context m) up := by
      unfold detentResult
      rw [own.1, own.2.1, own.2.2]
    rw [result]
    cases m <;> rfl
  · rw [units.panel, panel]
    show ((s.panel.summary.modify m _).get m).getLsbD 0 = true
    rw [PerSide.get_modify_same]
    simp [addClass, eventClass, classCode]

/-- The index after a detent and END, written out (R174). -/
theorem detentResult_eq (c : Context) (up : Bool) : detentResult c up =
    (if up then (if c.index + 1 < c.programs.length then c.index + 1 else if c.wrap then 0 else c.index)
      else if 0 < c.index then c.index - 1 else if c.wrap then c.programs.length - 1 else c.index,
      decide (if up then c.programs.length ≤ c.index + 1 else c.index = 0) && !c.wrap) := by
  unfold detentResult
  cases up with
  | true =>
    by_cases h : c.index + 1 < c.programs.length
    · simp [h, Nat.not_le.2 h]
    · cases hw : c.wrap <;> simp [h, Nat.not_lt.1 h]
  | false =>
    by_cases h : 0 < c.index
    · simp [h, Nat.pos_iff_ne_zero.1 h]
    · cases hw : c.wrap <;> simp [Nat.eq_zero_of_not_pos h]

/-- A report that nothing at the tail takes in joins the list or is dropped (R13). -/
theorem Link.addInput_joins {l : Link} {r : InputContent} (h : ∀ x, l.inputs.getLast? = some x →
    (∀ steps index ended, x.content ≠ .knob steps index ended) ∨ l.tailUnsent x = false) : l.addInput r = l.reported true r := by
  unfold Link.addInput
  dsimp only
  split
  next x steps index ended hx =>
    split
    next hk =>
      rw [(h x hx).resolve_left fun k => k _ _ _ hk]
      rfl
    next => rfl
  next => rfl

/-- A detent's report at the tail that has not begun takes the next one in (R177). -/
theorem Link.addInput_merges {l : Link} {init : List InputReport} {x : InputReport} {steps0 steps : Int} {index0 index : Nat}
    {ended0 ended : Bool} (hl : l.inputs = init ++ [x]) (hx : x.content = .knob steps0 index0 ended0) (hu : l.tailUnsent x = true) :
    (l.addInput (.knob steps index ended)).inputs =
      init ++ [{ x with content := .knob (max (-128) (min 127 (steps0 + steps))) index (ended0 || ended) }] := by
  unfold Link.addInput
  simp only [hl, List.getLast?_concat, hx, hu, if_true, List.dropLast_concat]
  rfl

theorem Link.tailUnsent_iff (l : Link) (x : InputReport) :
    l.tailUnsent x = true ↔ ∀ y, l.tx = .sending (.input y) → y.order ≠ x.order := by
  unfold Link.tailUnsent
  cases l.tx with
  | idle => simp
  | sending f => cases f <;> simp

/-- What a report that joins or is dropped leaves of its link. -/
theorem Link.reported_fields (l : Link) (r : InputContent) : if l.inputs.length < 16 then
      (l.reported true r).inputs = l.inputs ++ [{ order := l.nextOrder, content := r }]
    else (l.reported true r).inputs = l.inputs ∧ (l.reported true r).fault = true ∧ (l.reported true r).causes.reportDrop = true := by
  unfold Link.reported
  split
  · rfl
  · exact ⟨rfl, rfl, rfl⟩

/-! ### SWAP (R33) -/

theorem State.changeFocus_leaves (s : State) (m : Side) :
    (s.changeFocus m).ctx = s.ctx ∧ (s.changeFocus m).focus = some m := by
  unfold State.changeFocus
  dsimp only
  split
  · obtain ⟨ctx, focus, -⟩ := State.setNarration_leaves ({ s with focus := some m } |>.onAttachedLinks Link.setFocusMark)
      [.fragment (nameFragment m), .field .program]
    exact ⟨ctx, focus⟩
  · exact ⟨rfl, rfl⟩

/-- SWAP to an attached machine moves focus and both last input times; otherwise it changes neither focus nor the other context. -/
theorem State.swapPress_leaves (s : State) (m : Side) :
    (s.attached m.other = true → (s.swapPress m).focus = some m.other ∧
      (s.swapPress m).ctx = ((s.noteInput m).noteInput m.other).ctx) ∧
    (s.attached m.other = false → (s.swapPress m).focus = s.focus ∧ (s.swapPress m).ctx = (s.noteInput m).ctx) := by
  have att : (s.noteInput m).attached m.other = s.attached m.other := State.attached_noteInput _ _ _
  refine ⟨fun h => ?_, fun h => ?_⟩
  · rw [h] at att
    have moves : s.swapPress m = (((s.noteInput m).noteInput m.other).changeFocus m.other).setFeedback acceptPattern := if_pos att
    obtain ⟨ctx, focus, -⟩ := State.setFeedback_leaves (((s.noteInput m).noteInput m.other).changeFocus m.other) acceptPattern
    obtain ⟨cctx, cfocus⟩ := State.changeFocus_leaves ((s.noteInput m).noteInput m.other) m.other
    rw [moves, ctx, focus]
    exact ⟨cfocus, cctx⟩
  · rw [h] at att
    have stays : s.swapPress m = (s.noteInput m).setFeedback rejectPattern := if_neg (by simp [att])
    obtain ⟨ctx, focus, -⟩ := State.setFeedback_leaves (s.noteInput m) rejectPattern
    rw [stays]
    exact ⟨focus, ctx⟩

/-- Settles O51: the contexts, the focus and the marks are those the local action writes, whatever panel cues and arbitrations it sets
off; a detent's report is taken in by the tail or joins the list. -/
theorem localActionsChangeContext : Obligations.LocalActionsChangeContext := by
  refine ⟨fun s m note cls step action h hf h5 h7 ha => ?_, fun s m note up action h hf hin hmask => ?_⟩
  · have class_eq : cls = 5 ∨ cls = 6 ∨ cls = 7 := by
      rcases (by omega : cls.toNat = 5 ∨ cls.toNat = 6 ∨ cls.toNat = 7) with e | e | e
      · exact .inl (BitVec.eq_of_toNat_eq e)
      · exact .inr (.inl (BitVec.eq_of_toNat_eq e))
      · exact .inr (.inr (BitVec.eq_of_toNat_eq e))
    have action_eq : action = 0 ∨ action = 1 := by
      rcases (by omega : action.toNat = 0 ∨ action.toNat = 1) with e | e
      · exact .inl (BitVec.eq_of_toNat_eq e)
      · exact .inr (BitVec.eq_of_toNat_eq e)
    have parsed {k : Key} {a : KeyAction} := parseInputForce_event (cls := cls) step (action := action) (k := k) (a := a) (by omega)
    rcases class_eq with rfl | rfl | rfl
    · obtain ⟨swaps, stays⟩ := (s.noteInput m).swapPress_leaves m
      rw [State.attached_noteInput] at swaps stays
      rcases action_eq with rfl | rfl
      · obtain ⟨u, exec_eq, ctx, focus, -⟩ := exec_inputForce_key (note := note) h hf (parsed rfl rfl) rfl
        refine ⟨u, exec_eq, nofun, nofun, nofun, nofun, fun _ _ hatt => ?_, fun _ _ hatt => ?_⟩
        · rw [focus, ctx]
          refine ⟨(swaps hatt).1, (swaps hatt).2.trans ?_⟩
          cases m <;> rfl
        · rw [focus, ctx]
          refine ⟨(stays hatt).1.trans hf, (stays hatt).2.trans ?_⟩
          cases m <;> rfl
      · obtain ⟨u, exec_eq, -⟩ := exec_inputForce_key (note := note) h hf (parsed rfl rfl) rfl
        exact ⟨u, exec_eq, nofun, nofun, nofun, nofun, nofun, nofun⟩
    · rcases action_eq with rfl | rfl
      · obtain ⟨u, exec_eq, ctx, rest⟩ := exec_inputForce_profile (note := note) h hf (f := fun c => { c with volume := volumeStep c })
          (parsed rfl rfl) rfl (State.setFeedback_leaves _ _)
        exact ⟨u, exec_eq, fun _ _ => ⟨ctx, rest⟩, nofun, nofun, nofun, nofun, nofun⟩
      · obtain ⟨u, exec_eq, ctx, rest⟩ := exec_inputForce_profile (note := note) h hf (f := Context.volumeLong) (parsed rfl rfl) rfl
          (State.setFeedback_leaves _ _)
        refine ⟨u, exec_eq, nofun, fun _ _ => ⟨ctx.trans (congrArg _ (funext fun c => ?_)), rest⟩, nofun, nofun, nofun, nofun⟩
        by_cases hv : 0 < c.volume <;> simp [Context.volumeLong, hv]
    · rcases action_eq with rfl | rfl
      · have leaves (x : State) (b : Bool) : let y := if b then x.setNarration [.fragment 66] else x.setFeedback acceptPattern
            y.ctx = x.ctx ∧ y.focus = x.focus ∧ y.links = x.links := by
          cases b with
          | true => exact State.setNarration_leaves _ _
          | false => exact State.setFeedback_leaves _ _
        obtain ⟨u, exec_eq, ctx, rest⟩ := exec_inputForce_profile (note := note) h hf
          (f := fun c => { c with assist := !((s.noteInput m).context m).assist }) (parsed rfl rfl) rfl (leaves _ _)
        refine ⟨u, exec_eq, nofun, nofun, fun _ _ => ⟨ctx.trans ?_, rest⟩, nofun, nofun, nofun⟩
        cases m <;> rfl
      · obtain ⟨u, exec_eq, ctx, rest⟩ := exec_inputForce_profile (note := note) h hf
          (f := fun c => { c with language := (c.language + 1) % s.languageCount }) (parsed rfl rfl) rfl (State.setNarration_leaves _ _)
        exact ⟨u, exec_eq, nofun, nofun, nofun, fun _ _ => ⟨ctx, rest⟩, nofun, nofun⟩
  · intro c n atEnd index
    obtain ⟨u, exec_eq, ctx, summary, l, report, inputs, fault, causes⟩ := exec_inputForce_detent (note := note) (action := action) h hf up hmask
    have result := detentResult_eq c up
    have content : reportOf c (.detent up) = .knob (if up then 1 else -1) index (decide atEnd && !c.wrap) := by
      show InputContent.knob _ (detentResult c up).1 (detentResult c up).2 = _
      rw [result]
    refine ⟨u, exec_eq, ?_, summary, ?_⟩
    · rw [ctx, show detentResult (s.context m) up = _ from result]
    · intro own dir joined
      rw [show reportOf (s.context m) (.detent up) = _ from content] at report
      have joins (hj : ∀ x, own.inputs.getLast? = some x →
          (∀ steps index ended, x.content ≠ .knob steps index ended) ∨ own.tailUnsent x = false) : joined := by
        have fields := own.reported_fields (.knob dir index (decide atEnd && !c.wrap))
        rw [← Link.addInput_joins hj, ← report, ← inputs, ← fault, ← causes] at fields
        exact fields
      refine ⟨fun he => joins fun x hx => ?_, fun init r hr => ?_⟩
      · rw [he] at hx
        cases hx
      · have tail (x : InputReport) (hx : own.inputs.getLast? = some x) : x = r := by
          rw [hr, List.getLast?_concat] at hx
          exact (Option.some.inj hx).symm
        split
        next steps index0 ended hk =>
          refine ⟨fun hu => ?_, fun x hx ho => joins fun z hz => .inr ?_⟩
          · rw [inputs, report, Link.addInput_merges hr hk ((Link.tailUnsent_iff _ _).2 hu)]
          · rw [tail z hz, Bool.eq_false_iff]
            exact fun hu => (Link.tailUnsent_iff _ _).1 hu x hx ho
        next hk => exact joins fun z hz => .inl (by rw [tail z hz, hk]; exact nofun)
        next hk => exact joins fun z hz => .inl (by rw [tail z hz, hk]; exact nofun)

end Sys2Proof.Machine
end

section
/-! SUPPORT. What the turns of the other cues leave of one cue: its record, what it holds, voice 0 for a feedback cue; and that no turn dims
the backlight (R66 to R70, R169). -/

namespace Sys2Proof.Machine

variable {s t u : State} {m : Side} {i : Fin 24} {c : Cue} {q : Option CueRef} {r : CueRef}

/-! ### What is seen of one cue -/

/-- A cue's record, its record as a candidate, what it holds while it plays, and voice 0 for the feedback entry. -/
structure CueView where
  current : Option Cue
  pending : Option Cue
  path : Bool
  voices : Fin 4 → Bool
  voice0 : Option (Option CueRef × Voice)

/-- The cue that `x` names is PLAYING. -/
def State.plays (s : State) (x : CueRef) : Bool := (s.cue? x).any fun c => c.state = .playing

/-- What is seen of the cue that `x` names. -/
def State.view (s : State) (x : CueRef) : CueView where
  current := s.cue? x
  pending := s.candidate? x
  path := s.plays x && s.sched.path.holder = some x
  voices w := s.plays x && (s.sched.voices[w]).holder = some x
  voice0 := if x = .feedback then some ((s.sched.voices[(0 : Fin 4)]).holder, s.tone.voices[(0 : Fin 4)]) else none

/-- The operation leaves the cue `q` as it is seen, if it names one, and never dims the backlight. -/
structure State.Spares (q : Option CueRef) (s t : State) : Prop where
  view : ∀ x, q = some x → t.view x = s.view x
  full : s.display.backlight = .full → t.display.backlight = .full

/-- `r` is another cue than `q`, which is not HELD; voice 0 is not `r`'s. -/
structure State.Apart (q : Option CueRef) (s : State) (r : CueRef) : Prop where
  ne : q ≠ some r
  voice0 : q = some .feedback → (s.sched.voices[(0 : Fin 4)]).holder ≠ some r
  unheld : ∀ (i : Fin 24) c, q = some (.slot i) → s.sched.table[i] = some c → c.state ≠ .held

theorem State.Spares.refl (q : Option CueRef) (s : State) : State.Spares q s s := ⟨fun _ _ => rfl, id⟩

theorem State.Spares.trans (h : State.Spares q s t) (g : State.Spares q t u) : State.Spares q s u :=
  ⟨fun x hx => (g.view x hx).trans (h.view x hx), fun f => g.full (h.full f)⟩

theorem State.Apart.of_spares (h : State.Apart q s r) (g : State.Spares q s t) : State.Apart q t r := by
  refine ⟨h.ne, fun e => ?_, fun i c e hc => ?_⟩
  · have same := congrArg CueView.voice0 (g.view _ e)
    simp only [State.view, if_true, Option.some.injEq, Prod.mk.injEq] at same
    rw [same.1]
    exact h.voice0 e
  · have same := congrArg CueView.current (g.view _ e)
    exact h.unheld i c e (same.symm.trans hc)

theorem State.view_congr {x : CueRef} (hcue : t.cue? x = s.cue? x) (hcand : t.candidate? x = s.candidate? x)
    (hpath : s.plays x = true → (t.sched.path.holder = some x ↔ s.sched.path.holder = some x))
    (hvoices : ∀ w : Fin 4, s.plays x = true → ((t.sched.voices[w]).holder = some x ↔ (s.sched.voices[w]).holder = some x))
    (h0 : x = .feedback → (t.sched.voices[(0 : Fin 4)]).holder = (s.sched.voices[(0 : Fin 4)]).holder ∧
      t.tone.voices[(0 : Fin 4)] = s.tone.voices[(0 : Fin 4)]) : t.view x = s.view x := by
  have plays : t.plays x = s.plays x := by rw [State.plays, hcue, State.plays]
  unfold State.view
  rw [hcue, hcand, plays]
  cases hp : s.plays x with
  | false =>
    simp only [Bool.false_and, CueView.mk.injEq, true_and]
    split
    next e => rw [(h0 e).1, (h0 e).2]
    next => rfl
  | true =>
    rw [decide_eq_decide.2 (hpath hp), funext fun w => congrArg (true && ·) (decide_eq_decide.2 (hvoices w hp))]
    split
    next e => rw [(h0 e).1, (h0 e).2]
    next => rfl

/-- An operation that leaves the records, the holders and the voices. -/
theorem State.Spares.of_same (ht : t.sched.table = s.sched.table) (hn : t.sched.narration = s.sched.narration)
    (hf : t.sched.feedback = s.sched.feedback) (hp : t.sched.path.holder = s.sched.path.holder)
    (hv : ∀ w : Fin 4, (t.sched.voices[w]).holder = (s.sched.voices[w]).holder)
    (h0 : q = some .feedback → t.tone.voices[(0 : Fin 4)] = s.tone.voices[(0 : Fin 4)])
    (hd : s.display.backlight = .full → t.display.backlight = .full) : State.Spares q s t := by
  refine ⟨fun x hx => State.view_congr ?_ ?_ (fun _ => by rw [hp]) (fun w _ => by rw [hv w]) fun e => ⟨hv 0, h0 (by rw [hx, e])⟩, hd⟩
  · cases x with
    | slot j => exact congrArg (·[j]) ht
    | narration => exact congrArg (·.current) hn
    | feedback => exact congrArg (·.current) hf
  · cases x with
    | slot j => exact congrArg (·[j]) ht
    | narration => exact congrArg (·.pending) hn
    | feedback => exact congrArg (·.pending) hf

theorem State.Spares.of_sched (hs : t.sched = s.sched) (h0 : t.tone = s.tone)
    (hd : s.display.backlight = .full → t.display.backlight = .full) : State.Spares q s t :=
  .of_same (by rw [hs]) (by rw [hs]) (by rw [hs]) (by rw [hs]) (fun _ => by rw [hs]) (fun _ => by rw [h0]) hd

theorem State.setCue_candidate? {x : CueRef} {o : Option Cue} (h : x ≠ r) : (s.setCue r o).candidate? x = s.candidate? x := by
  cases r with
  | slot i =>
    cases x with
    | slot j => exact (State.setCue_table s (.slot i) o j).trans (if_neg fun e => h e.symm)
    | narration | feedback => rfl
  | narration => cases x <;> rfl
  | feedback => cases x <;> rfl

theorem State.setCue_resources (s : State) (r : CueRef) (o : Option Cue) :
    (s.setCue r o).sched.path = s.sched.path ∧ (s.setCue r o).sched.voices = s.sched.voices := by
  cases r <;> exact ⟨rfl, rfl⟩

theorem State.setCue_spares (h : q ≠ some r) (o : Option Cue) : State.Spares q s (s.setCue r o) := by
  obtain ⟨path, voices⟩ := s.setCue_resources r o
  refine ⟨fun x hx => ?_, id⟩
  have ne : x ≠ r := fun e => h (by rw [hx, e])
  exact State.view_congr ((State.setCue_cue? _ _ _ _).trans (if_neg fun e => ne e.symm)) (State.setCue_candidate? ne) (fun _ => by rw [path])
    (fun w _ => by rw [voices]) fun _ => ⟨by rw [voices], rfl⟩

theorem State.modCue_spares (h : q ≠ some r) (f : Cue → Cue) : State.Spares q s (s.modCue r f) := State.setCue_spares h _

theorem State.dropReservations_spares (s : State) (r : CueRef) : State.Spares q s (s.dropReservations r) :=
  .of_same rfl rfl rfl (Resource.unreserve_holder _ _) (fun w => (congrArg Resource.holder (Vector.getElem_ofFn w.isLt)).trans
    (Resource.unreserve_holder _ _)) (fun _ => rfl) id

theorem State.setArb_spares (s : State) : State.Spares q s s.setArb := .of_same rfl rfl rfl rfl (fun _ => rfl) (fun _ => rfl) id

theorem State.endReservations_spares (s : State) (r : CueRef) : State.Spares q s (s.endReservations r) := by
  unfold State.endReservations
  split
  · exact (s.dropReservations_spares r).trans (State.setArb_spares _)
  · exact s.dropReservations_spares r

/-! ### The display and the voices -/

theorem State.chooseRing_spares (s : State) : State.Spares q s s.chooseRing := by
  rw [State.chooseRing_eq]
  exact .of_sched rfl rfl id

theorem State.leftPlaying_spares (s : State) : State.Spares q s s.leftPlaying := by
  unfold State.leftPlaying
  split
  · exact .refl q s
  · exact .of_sched rfl rfl id

theorem State.endDisplay_spares (s : State) : State.Spares q s s.leftPlaying.chooseRing :=
  s.leftPlaying_spares.trans (State.chooseRing_spares _)

theorem State.startDisplay_spares (s : State) : State.Spares q s s.wakeBacklight.stopIdle.chooseRing :=
  State.Spares.trans (t := s.wakeBacklight.stopIdle) (.of_sched rfl rfl fun _ => rfl) (State.chooseRing_spares _)

theorem State.onVoice_spares {v : Fin 4} {f : Voice → Voice} (h : q = some .feedback → v ≠ 0) : State.Spares q s (s.onVoice v f) := by
  refine .of_same rfl rfl rfl rfl (fun _ => rfl) (fun e => ?_) id
  exact (Vector.getElem_set_fin _ _ _ _).trans (if_neg fun k => h e k.symm)

theorem State.Apart.voice (h : State.Apart q s r) {v : Fin 4} (hv : (s.sched.voices[v]).holder = some r) : q = some .feedback → v ≠ 0 := by
  rintro e rfl
  exact h.voice0 e hv

theorem State.beginTone_spares (h : State.Apart q s r) : State.Spares q s (s.beginTone r) := by
  unfold State.beginTone
  split
  next c v _ hv =>
    split
    · unfold State.beginPattern
      split
      · exact State.onVoice_spares (h.voice (State.voiceOf_holder hv))
      · exact .refl q s
    · exact .refl q s
  next => exact .refl q s

/-! ### What a cue gives up (R74) -/

theorem State.freePath_spares (h : q ≠ some r) : State.Spares q s (s.freePath r) := by
  unfold State.freePath
  split
  next hr =>
    refine ⟨fun x hx => State.view_congr ?_ ?_ (fun _ => ?_) (fun _ _ => Iff.rfl) fun _ => ⟨rfl, rfl⟩, id⟩
    · cases x <;> rfl
    · cases x <;> rfl
    · have ne : r ≠ x := fun e => h (by rw [hx, e])
      show (none : Option CueRef) = some x ↔ _
      rw [hr]
      simp [ne]
  next => exact .refl q s

theorem State.freeVoice_spares (h : State.Apart q s r) : State.Spares q s (s.freeVoice r) := by
  unfold State.freeVoice
  split
  next => exact .refl q s
  next v hv =>
    have holder := State.voiceOf_holder hv
    have given : State.Spares q s (s.onVoiceRes v fun x => { x with holder := none }) := by
      refine ⟨fun x hx => State.view_congr ?_ ?_ (fun _ => Iff.rfl) (fun w _ => ?_) fun e => ⟨?_, rfl⟩, id⟩
      · cases x <;> rfl
      · cases x <;> rfl
      · have ne : r ≠ x := fun e => h.ne (by rw [hx, e])
        simp only [State.onVoiceRes, State.onSched, Vector.getElem_set_fin]
        split
        next e =>
          rw [e, holder]
          simp [ne]
        next => exact Iff.rfl
      · have far : v ≠ 0 := h.voice holder (by rw [hx, e])
        simp only [State.onVoiceRes, State.onSched, Vector.getElem_set_fin, if_neg (Ne.symm far)]
    exact (given.trans (State.onVoice_spares (h.voice holder))).trans (State.setArb_spares _)

theorem State.freeResources_spares (h : State.Apart q s r) : State.Spares q s (s.freeResources r) :=
  (State.freePath_spares h.ne).trans (State.freeVoice_spares (h.of_spares (State.freePath_spares h.ne)))

/-! ### Entry to REPORTING, ends of play, starts (R49, R66, R71 to R75) -/

theorem State.releaseHeld_spares (h : State.Apart q s r) (m : Side) : State.Spares q s (s.releaseHeld m) := by
  obtain ⟨narration, feedback, path, voices, tone, display⟩ : (s.releaseHeld m).sched.narration = s.sched.narration ∧
      (s.releaseHeld m).sched.feedback = s.sched.feedback ∧ (s.releaseHeld m).sched.path = s.sched.path ∧
      (s.releaseHeld m).sched.voices = s.sched.voices ∧ (s.releaseHeld m).tone = s.tone ∧ (s.releaseHeld m).display = s.display := by
    have table (f : Sched → Vector (Option Cue) 24) (x : State)
        (hx : x = (s.onSched fun sc => { sc with table := f sc }) ∨ x = (s.onSched fun sc => { sc with table := f sc }).setArb) :
        x.sched.narration = s.sched.narration ∧ x.sched.feedback = s.sched.feedback ∧ x.sched.path = s.sched.path ∧
          x.sched.voices = s.sched.voices ∧ x.tone = s.tone ∧ x.display = s.display := by
      rcases hx with rfl | rfl <;> exact ⟨rfl, rfl, rfl, rfl, rfl, rfl⟩
    unfold State.releaseHeld
    dsimp only
    split
    · exact table _ _ (.inr rfl)
    · exact table _ _ (.inl rfl)
  have record (x : CueRef) (hx : q = some x) : (s.releaseHeld m).cue? x = s.cue? x ∧ (s.releaseHeld m).candidate? x = s.candidate? x := by
    cases x with
    | slot j =>
      have slot : (s.releaseHeld m).sched.table[j] = s.sched.table[j] := by
        rw [State.releaseHeld_slot]
        cases hc : s.sched.table[j] with
        | none => rfl
        | some c =>
          have no : s.released m c = false := by simp [State.released, h.unheld j c hx hc]
          simp [no]
      exact ⟨slot, slot⟩
    | narration => exact ⟨congrArg (·.current) narration, congrArg (·.pending) narration⟩
    | feedback => exact ⟨congrArg (·.current) feedback, congrArg (·.pending) feedback⟩
  exact ⟨fun x hx => State.view_congr (record x hx).1 (record x hx).2 (fun _ => by rw [path]) (fun w _ => by rw [voices])
    fun _ => ⟨by rw [voices], by rw [tone]⟩, by rw [display]; exact id⟩

theorem State.checkFences_spares (h : State.Apart q s r) (m : Side) : State.Spares q s (s.checkFences m) := by
  have markers : State.Spares q s (s.onSched fun sc => { sc with markers := sc.markers.modify m fun ms => ms.filter (s.liveBefore m) }) :=
    .of_same rfl rfl rfl rfl (fun _ => rfl) (fun _ => rfl) id
  exact markers.trans (State.releaseHeld_spares (h.of_spares markers) m)

theorem State.enterReporting_spares (h : State.Apart q s (.slot i)) (o : CueOutcome) : State.Spares q s (s.enterReporting i o) := by
  unfold State.enterReporting
  split
  next => exact .refl q s
  next c _ =>
    have record : State.Spares q s ((s.setCue (.slot i) (some (c.toReporting o))).endReservations (.slot i)) :=
      (State.setCue_spares h.ne _).trans (State.endReservations_spares _ _)
    dsimp only
    split
    next n _ =>
      have link : State.Spares q s (((s.setCue (.slot i) (some (c.toReporting o))).endReservations (.slot i)).onLink n
          fun l => l.joinDone c.uid c.id o c.flags c.preempts) := record.trans (.of_sched rfl rfl id)
      exact link.trans (State.checkFences_spares (h.of_spares link) n)
    next => exact record

theorem State.enterEnding_spares (h : q ≠ some r) (e : EndCause) : State.Spares q s (s.enterEnding r e) :=
  (State.modCue_spares h _).trans (State.endDisplay_spares _)

theorem State.endGap_spares (h : State.Apart q s (.slot i)) : State.Spares q s (s.endGap i) := by
  unfold State.endGap
  split
  next => exact .refl q s
  next c _ =>
    split
    · exact State.enterReporting_spares h _
    · exact (State.setCue_spares h.ne _).trans (State.setArb_spares _)

theorem State.enterGap_spares (h : State.Apart q s (.slot i)) (c : Cue) : State.Spares q s (s.enterGap i c) := by
  unfold State.enterGap
  dsimp only
  split
  · have record := State.setCue_spares (s := s) h.ne
      (some { c with state := .gap, phase := none, holdTimer := none, repeatsLeft := c.repeatsLeft - 1 })
    exact record.trans (State.endGap_spares (h.of_spares record))
  · exact State.setCue_spares h.ne _

theorem State.endOfPlay_spares (h : State.Apart q s r) : State.Spares q s (s.endOfPlay r) := by
  unfold State.endOfPlay
  split
  next => exact .refl q s
  next c _ =>
    have freed := State.freeResources_spares h
    have h' := h.of_spares freed
    refine (freed.trans ?_).trans (State.endDisplay_spares _)
    match r, h' with
    | .slot i, h' =>
      dsimp only
      split
      · exact State.enterGap_spares h' c
      · exact State.enterReporting_spares h' _
    | .narration, h' => exact State.setCue_spares h'.ne _
    | .feedback, h' => exact State.setCue_spares h'.ne _

theorem State.utteranceEnded_spares (h : State.Apart q s r) : State.Spares q s (s.utteranceEnded r) := by
  unfold State.utteranceEnded
  split
  next => exact .refl q s
  next c _ =>
    split
    · split
      · split
        · exact State.endOfPlay_spares h
        · exact State.modCue_spares h.ne _
      · have tail : State.Spares q s ((s.modCue r fun c => { c with phase := some .tail }).stopSpeech) :=
          (State.modCue_spares h.ne _).trans (.of_sched rfl rfl id)
        exact tail.trans (State.beginTone_spares (h.of_spares tail))
      · exact State.endOfPlay_spares h
    · exact .refl q s

theorem State.beginUtterance_spares (h : State.Apart q s r) : State.Spares q s (s.beginUtterance r) := by
  unfold State.beginUtterance
  split
  · exact State.utteranceEnded_spares h
  · exact .of_sched rfl rfl id

theorem State.beginFirstPhase_spares (h : State.Apart q s r) (c : Cue) : State.Spares q s (s.beginFirstPhase r c) := by
  have tone : State.Spares q s (match c.timing? with
      | some .after => s
      | _ => if c.tone.isSome then s.beginTone r else s) := by
    split
    · exact .refl q s
    · split
      · exact State.beginTone_spares h
      · exact .refl q s
  unfold State.beginFirstPhase
  dsimp only
  split
  · exact tone.trans (State.beginUtterance_spares (h.of_spares tone))
  · exact tone

theorem State.assembleFor_spares (h : q ≠ some r) (c : Cue) : State.Spares q s (s.assembleFor r c) := by
  unfold State.assembleFor State.markTableCue
  dsimp only
  split
  · split
    · exact State.Spares.trans (t := s.setUtt ⟨(s.assemble c).entries, some _⟩) (.of_sched rfl rfl id) (State.modCue_spares h _)
    · exact .of_sched rfl rfl id
  · exact .of_sched rfl rfl id

/-- What a start of `c` on voice `v` is given is not held by `q`, if that plays. -/
def State.TakesNothing (s : State) (q : Option CueRef) (v : Option (Fin 4)) (c : Cue) : Prop :=
  (∀ x, q = some x → s.plays x = true → s.needsPath c = true → s.sched.path.holder ≠ some x) ∧
    ∀ x w, q = some x → s.plays x = true → v = some w → (s.sched.voices[w]).holder ≠ some x

theorem State.given_spares {v : Option (Fin 4)} (h : q ≠ some r) (hq : q = some .feedback → v ≠ some 0) (take : s.TakesNothing q v c) :
    State.Spares q s (s.given r v c) := by
  obtain ⟨hp, hv⟩ := take
  obtain ⟨sched, path, voices⟩ := s.given_sched r v c
  have sound : (s.given r v c).tone = s.tone ∧ (s.given r v c).display = s.display := by
    rw [State.given_eq]
    exact ⟨rfl, rfl⟩
  refine ⟨fun x hx => State.view_congr ?_ ?_ (fun plays => ?_) (fun w plays => ?_) fun e => ⟨?_, by rw [sound.1]⟩, by rw [sound.2]; exact id⟩
  · cases x with
    | slot j => exact congrArg (·.table[j]) sched
    | narration => exact congrArg (·.narration.current) sched
    | feedback => exact congrArg (·.feedback.current) sched
  · cases x with
    | slot j => exact congrArg (·.table[j]) sched
    | narration => exact congrArg (·.narration.pending) sched
    | feedback => exact congrArg (·.feedback.pending) sched
  · have ne : r ≠ x := fun e => h (by rw [hx, e])
    rw [path]
    split
    next need => simp [ne, hp x hx plays need]
    next => exact Iff.rfl
  · have ne : r ≠ x := fun e => h (by rw [hx, e])
    rw [voices w]
    dsimp only
    split
    next e => exact iff_of_false (by simp [ne]) (hv x w hx plays e)
    next => exact Iff.rfl
  · rw [voices 0]
    exact if_neg (hq (by rw [hx, e]))

/-- A start up to the cue's place. -/
theorem State.placed_spares {v : Option (Fin 4)} (h : q ≠ some r) (hq : q = some .feedback → v ≠ some 0) (take : s.TakesNothing q v c) :
    State.Spares q s (s.placed r v c) := by
  have marked (sc : Sched) : (sc.serveMarker c).table = sc.table ∧ (sc.serveMarker c).narration = sc.narration ∧
      (sc.serveMarker c).feedback = sc.feedback ∧ (sc.serveMarker c).path = sc.path ∧ (sc.serveMarker c).voices = sc.voices := by
    unfold Sched.serveMarker
    repeat' split
    all_goals exact ⟨rfl, rfl, rfl, rfl, rfl⟩
  have place (x : State) (d : Cue) : State.Spares q x (x.onSched fun sc =>
      { (sc.serveMarker c).placeStarted r d with nextStart := sc.nextStart + 1 }) := by
    obtain ⟨table, narration, feedback, path, voices⟩ := marked x.sched
    have moved : (({ (x.sched.serveMarker c).placeStarted r d with nextStart := x.sched.nextStart + 1 } : Sched)).path = x.sched.path ∧
        (({ (x.sched.serveMarker c).placeStarted r d with nextStart := x.sched.nextStart + 1 } : Sched)).voices = x.sched.voices := by
      cases r <;> exact ⟨path, voices⟩
    refine ⟨fun y hy => ?_, id⟩
    have ne : y ≠ r := fun e => h (by rw [hy, e])
    refine State.view_congr ?_ ?_ (fun _ => ?_) (fun w _ => ?_) fun _ => ⟨?_, rfl⟩
    · cases r with
      | slot i =>
        cases y with
        | slot j =>
          show ((x.sched.serveMarker c).table.set i (some d))[j] = x.sched.table[j]
          rw [table, Vector.getElem_set_fin, if_neg fun e => ne (by rw [e])]
        | narration => exact congrArg (·.current) narration
        | feedback => exact congrArg (·.current) feedback
      | narration =>
        cases y with
        | slot j => exact congrArg (·[j]) table
        | narration => exact absurd rfl ne
        | feedback => exact congrArg (·.current) feedback
      | feedback =>
        cases y with
        | slot j => exact congrArg (·[j]) table
        | narration => exact congrArg (·.current) narration
        | feedback => exact absurd rfl ne
    · cases r with
      | slot i =>
        cases y with
        | slot j =>
          show ((x.sched.serveMarker c).table.set i (some d))[j] = x.sched.table[j]
          rw [table, Vector.getElem_set_fin, if_neg fun e => ne (by rw [e])]
        | narration => exact congrArg (·.pending) narration
        | feedback => exact congrArg (·.pending) feedback
      | narration =>
        cases y with
        | slot j => exact congrArg (·[j]) table
        | narration => exact absurd rfl ne
        | feedback => exact congrArg (·.pending) feedback
      | feedback =>
        cases y with
        | slot j => exact congrArg (·[j]) table
        | narration => exact congrArg (·.pending) narration
        | feedback => exact absurd rfl ne
    · show ((({ (x.sched.serveMarker c).placeStarted r d with nextStart := x.sched.nextStart + 1 } : Sched)).path).holder = some y ↔ _
      rw [moved.1]
    · show (((({ (x.sched.serveMarker c).placeStarted r d with nextStart := x.sched.nextStart + 1 } : Sched)).voices)[w]).holder = some y ↔ _
      rw [moved.2]
    · show (((({ (x.sched.serveMarker c).placeStarted r d with nextStart := x.sched.nextStart + 1 } : Sched)).voices)[(0 : Fin 4)]).holder = _
      rw [moved.2]
  exact ((State.given_spares h hq take).trans (State.dropReservations_spares _ r)).trans (place _ _)

theorem State.startCue_spares {v : Option (Fin 4)} (h : State.Apart q s r) (hc : s.candidate? r = some c)
    (hq : q = some .feedback → v ≠ some 0) (take : s.TakesNothing q v c) : State.Spares q s (s.startCue r v) := by
  rw [State.startCue_eq v hc]
  have placed := State.placed_spares h.ne hq take
  have assembled : State.Spares q s (if s.needsPath c then (s.placed r v c).assembleFor r c else s.placed r v c) := by
    split
    · exact placed.trans (State.assembleFor_spares h.ne c)
    · exact placed
  have shown := assembled.trans (State.startDisplay_spares _)
  exact shown.trans (State.beginFirstPhase_spares (h.of_spares shown) _)

/-! ### Victims, and the turns of the candidates (R64 to R68) -/

/-- What `q` names, if it plays, holds nothing that the arbiter could take. -/
def State.Unthreatened (q : Option CueRef) (s : State) : Prop := ∀ x c, q = some x → s.cue? x = some c → c.state = .playing →
  s.sched.path.holder ≠ some x ∧ ∀ v ∈ tableVoices, (s.sched.voices[v]).holder ≠ some x

theorem State.Unthreatened.of_spares (h : State.Unthreatened q s) (g : State.Spares q s t) : State.Unthreatened q t := by
  intro x c hx hc hp
  have view := g.view x hx
  have before : s.cue? x = some c := (congrArg CueView.current view).symm.trans hc
  obtain ⟨path, voices⟩ := h x c hx before hp
  have plays : s.plays x = true ∧ t.plays x = true := by simp [State.plays, before, hc, hp]
  have seen := congrArg CueView.path view
  have heard (v : Fin 4) := congrFun (congrArg CueView.voices view) v
  simp only [State.view, plays.1, plays.2, Bool.true_and, decide_eq_decide] at seen heard
  exact ⟨fun k => path (seen.1 k), fun v hv k => voices v hv ((heard v).1 k)⟩

theorem State.judgePath_holds {h : CueRef} (hv : (s.judgePath r c).victim? = some h) : s.sched.path.holder = some h := by
  unfold State.judgePath at hv
  split at hv
  · exact absurd hv nofun
  · split at hv
    · split at hv <;> exact absurd hv nofun
    next g hg =>
      split at hv
      · exact absurd hv nofun
      · split at hv
        · cases hv
          exact hg
        · exact absurd hv nofun

theorem State.judgeVoice_holds {h : CueRef} (hv : (s.judgeVoice r c).victim? = some h) :
    ∃ v ∈ tableVoices, (s.sched.voices[v]).holder = some h := by
  unfold State.judgeVoice at hv
  split at hv
  · exact absurd hv nofun
  · split at hv
    · exact absurd hv nofun
    · split at hv
      · exact absurd hv nofun
      · split at hv
        next v g x hx =>
          obtain ⟨mem, -, -, holder⟩ := State.victimVoices_playing s _ (State.voiceVictim_mem s _ hx)
          split at hv
          · cases hv
            exact ⟨v, mem, holder⟩
          · exact absurd hv nofun
        · exact absurd hv nofun

theorem State.preemptVictim_spares {x : CueRef} (h : q ≠ some x) : State.Spares q s (s.preemptVictim x) := by
  unfold State.preemptVictim
  split
  · exact .refl q s
  · exact (State.setCue_spares h _).trans (State.enterEnding_spares h _)

theorem State.preempt_spares {path voice : Judgement} (hp : ∀ h, path.victim? = some h → q ≠ some h)
    (hv : ∀ h, voice.victim? = some h → q ≠ some h) : State.Spares q s (s.preempt r path voice) := by
  have victims (l : List CueRef) (hl : ∀ x ∈ l, q ≠ some x) (t : State) : State.Spares q t (l.foldl State.preemptVictim t) := by
    induction l generalizing t with
    | nil => exact .refl q t
    | cons x l ih => exact (State.preemptVictim_spares (hl x (by simp))).trans (ih (fun y hy => hl y (by simp [hy])) _)
  have reserved (x : State) : State.Spares q x (x.onSched fun sc => sc.reserve r path voice) := by
    refine .of_same rfl rfl rfl ?_ (fun w => ?_) (fun _ => rfl) id
    · show (x.sched.reserve r path voice).path.holder = x.sched.path.holder
      unfold Sched.reserve
      cases path <;> rfl
    · show ((x.sched.reserve r path voice).voices[w]).holder = (x.sched.voices[w]).holder
      unfold Sched.reserve
      dsimp only
      cases voice.voice? with
      | none => rfl
      | some v =>
        dsimp only
        rw [Vector.getElem_set_fin]
        split
        next e => rw [e]
        next => rfl
  rw [State.preempt_eq]
  refine (victims _ (fun x hx => ?_) s).trans (reserved _)
  simp only [List.mem_dedup, List.mem_append, Option.mem_toList] at hx
  exact hx.elim (hp x) (hv x)

/-- A candidate's turn spares a cue that is not threatened. -/
theorem State.serve_spares (h : State.Apart q s r) (hr : r ≠ .feedback) (safe : State.Unthreatened q s) : State.Spares q s (s.serve r) := by
  unfold State.serve
  split
  next => exact .refl q s
  next c hc =>
    split
    next hw =>
      dsimp only
      split
      next => exact .refl q s
      next hb =>
        simp only [Bool.or_eq_true, not_or, Bool.not_eq_true] at hb
        split
        next =>
          refine State.preempt_spares (fun x hx e => ?_) fun x hx e => ?_
          · obtain ⟨d, hd, hp⟩ := s.judgePath_victim r c x hx
            exact (safe x d e hd hp).1 (State.judgePath_holds hx)
          · obtain ⟨d, hd, hp⟩ := s.judgeVoice_victim r c x hx
            obtain ⟨v, mem, holder⟩ := State.judgeVoice_holds hx
            exact (safe x d e hd hp).2 v mem holder
        next hv =>
          simp only [Bool.or_eq_true, not_or, Bool.not_eq_true, Option.isSome_eq_false_iff, Option.isNone_iff_eq_none] at hv
          have may := State.mayStart_of_judged hc hw hr hb.1 hv.1 hv.2
          have away : q = some .feedback → (s.judgeVoice r c).voice? ≠ some 0 := fun e h0 =>
            h.ne (by rw [e, (may.voice 0 h0).2.1 rfl])
          refine State.startCue_spares h hc away ⟨fun x _ _ need k => ?_, fun x w _ _ hw k => ?_⟩
          · exact absurd (k.symm.trans (may.path hr need)) nofun
          · exact absurd (k.symm.trans (may.voice w hw).1) nofun
    next => exact .refl q s

theorem State.serves_turns (l : List CueRef) (hl : ∀ r ∈ l, r ≠ .feedback) (s : State) : s.Turns (l.foldl State.serve s) := by
  induction l generalizing s with
  | nil => exact .refl s
  | cons r l ih => exact (s.serve_turns r (hl r (by simp))).trans (ih (fun x hx => hl x (by simp [hx])) _)

theorem State.Turns.laws (h : s.Turns t) (law : s.ResourceLaws) : t.ResourceLaws := h.keeps (fun k => k.resourceLaws) law

/-- `q` is not HELD, not threatened, and voice 0 is nobody's but the feedback entry's. -/
structure State.Secure (q : Option CueRef) (s : State) : Prop where
  unheld : ∀ (i : Fin 24) c, q = some (.slot i) → s.sched.table[i] = some c → c.state ≠ .held
  safe : State.Unthreatened q s
  voice0 : q = some .feedback → ∀ r, r ≠ .feedback → (s.sched.voices[(0 : Fin 4)]).holder ≠ some r

theorem State.Secure.apart (h : State.Secure q s) (ne : q ≠ some r) (hr : r ≠ .feedback) : State.Apart q s r :=
  ⟨ne, fun e => h.voice0 e r hr, h.unheld⟩

theorem State.Secure.of_spares (h : State.Secure q s) (g : State.Spares q s t) : State.Secure q t := by
  refine ⟨fun i c e hc => ?_, h.safe.of_spares g, fun e r hr => ?_⟩
  · exact h.unheld i c e ((congrArg CueView.current (g.view _ e)).symm.trans hc)
  · have same := congrArg CueView.voice0 (g.view _ e)
    simp only [State.view, if_true, Option.some.injEq, Prod.mk.injEq] at same
    rw [same.1]
    exact h.voice0 e r hr

/-- The turns of candidates that are other cues. -/
theorem State.serves_spares (l : List CueRef) (hl : ∀ r ∈ l, q ≠ some r ∧ r ≠ .feedback) (s : State) (h : State.Secure q s) :
    State.Spares q s (l.foldl State.serve s) := by
  induction l generalizing s with
  | nil => exact .refl q s
  | cons r l ih =>
    obtain ⟨ne, hr⟩ := hl r (by simp)
    have spares := State.serve_spares (h.apart ne hr) hr h.safe
    exact spares.trans (ih (fun x hx => hl x (by simp [hx])) (s.serve r) (h.of_spares spares))

/-- The start of the pending feedback cue (R70). -/
theorem State.serveFeedback_spares (hq : q ≠ some .feedback) (h : State.Secure q s)
    (hp : ∀ c x, s.sched.feedback.pending = some c → q = some x → s.plays x = true → s.needsPath c = false) :
    State.Spares q s s.serveFeedback := by
  unfold State.serveFeedback
  split
  next hpend =>
    simp only [Bool.and_eq_true, Option.isNone_iff_eq_none, Option.isSome_iff_exists] at hpend
    obtain ⟨⟨c, hc⟩, hfree⟩ := hpend
    refine State.startCue_spares (r := .feedback) (c := c) ⟨hq, fun e => absurd e hq, h.unheld⟩ hc (fun e => absurd e hq)
      ⟨fun x hx plays need => ?_, fun x w _ _ hw k => ?_⟩
    · exact absurd (need.symm.trans (hp c x hc hx plays)) nofun
    · cases hw
      exact absurd (k.symm.trans hfree) nofun
  next => exact .refl q s

/-! ### Arbitrations and the panel entries (R54, R55, R70) -/

theorem State.Turns.store (h : s.Turns t) : t.store.state = s.store.state ∧ t.store.check = s.store.check := by
  have frame := h.outside.store
  exact ⟨congrArg (·.state) frame, congrArg (·.check) frame⟩

/-- An entry that no arbitration serves is left by all of them. -/
theorem State.arbitrateFor_spares {P : State → Prop} (hP : ∀ x : State, P x → State.Spares q x x.clearArb.arbitrate ∧ P x.clearArb.arbitrate)
    (n : Nat) (s : State) (h : P s) : State.Spares q s (State.arbitrateFor n s) := by
  induction n generalizing s with
  | zero => exact .of_same rfl rfl rfl rfl (fun _ => rfl) (fun _ => rfl) id
  | succ n ih =>
    unfold State.arbitrateFor
    split
    · obtain ⟨once, keeps⟩ := hP s h
      exact once.trans (ih _ keeps)
    · exact .refl q s

theorem State.clearArb_spares (s : State) : State.Spares q s s.clearArb := .of_same rfl rfl rfl rfl (fun _ => rfl) (fun _ => rfl) id

theorem State.settleArb_due (h : s.sched.arbDue = true) : s.settleArb = State.arbitrateFor 1023 s.clearArb.arbitrate := by
  have unfolded (n : Nat) : State.arbitrateFor (n + 1) s = if s.sched.arbDue = true then State.arbitrateFor n s.clearArb.arbitrate else s := rfl
  exact (unfolded 1023).trans (if_pos h)

/-- No arbitration dims the backlight (R169). -/
theorem State.settleArb_full (h : s.display.backlight = .full) : s.settleArb.display.backlight = .full := by
  have secure (x : State) : State.Secure none x :=
    ⟨fun _ _ e => (Option.some_ne_none _ e.symm).elim, fun _ _ e => (Option.some_ne_none _ e.symm).elim,
      fun e => (Option.some_ne_none _ e.symm).elim⟩
  refine (State.arbitrateFor_spares (q := none) (P := fun _ => True) (fun x _ => ⟨?_, trivial⟩) _ s trivial).full h
  have others (r : CueRef) (hr : r ∈ x.clearArb.candidates) : none ≠ some r ∧ r ≠ .feedback :=
    ⟨(Option.some_ne_none r).symm, State.mem_candidates_ne_feedback _ hr⟩
  have serves := State.serves_spares (q := none) x.clearArb.candidates others x.clearArb (secure _)
  have clear := x.clearArb_spares (q := none)
  unfold State.arbitrate
  generalize x.clearArb.candidates.foldl State.serve x.clearArb = y at serves ⊢
  exact (clear.trans serves).trans (State.serveFeedback_spares (Option.some_ne_none _).symm (secure y) fun _ _ _ e => nomatch e)

/-- A feedback cue that holds voice 0, with none pending or it not to be played yet, is left by the arbitrations. -/
theorem State.arbitrate_sparesFeedback (h : State.Secure (some .feedback) s)
    (hidle : s.sched.feedback.pending = none ∨ (s.sched.voices[(0 : Fin 4)]).holder ≠ none) :
    State.Spares (some .feedback) s s.clearArb.arbitrate := by
  have clear := s.clearArb_spares (q := some .feedback)
  have others (r : CueRef) (hr : r ∈ s.clearArb.candidates) : some CueRef.feedback ≠ some r ∧ r ≠ .feedback := by
    have ne := State.mem_candidates_ne_feedback _ hr
    exact ⟨fun e => ne (Option.some.inj e).symm, ne⟩
  have serves := State.serves_spares (q := some .feedback) s.clearArb.candidates others s.clearArb (h.of_spares clear)
  have all := clear.trans serves
  have entry := congrArg CueView.pending (all.view _ rfl)
  have voice := congrArg CueView.voice0 (all.view _ rfl)
  simp only [State.view, if_true, Option.some.injEq, Prod.mk.injEq] at entry voice
  have idle : State.serveFeedback (s.clearArb.candidates.foldl State.serve s.clearArb) = s.clearArb.candidates.foldl State.serve s.clearArb := by
    unfold State.serveFeedback
    refine if_neg fun k => ?_
    simp only [Bool.and_eq_true, Option.isNone_iff_eq_none, Option.isSome_iff_ne_none] at k
    obtain ⟨some_pending, free⟩ := k
    rcases hidle with no | held
    · exact some_pending (entry.trans no)
    · exact held (voice.1.symm.trans free)
  rw [State.arbitrate, idle]
  exact all

theorem State.arbitrateFor_sparesFeedback (n : Nat) (h : State.Secure (some .feedback) s)
    (hidle : s.sched.feedback.pending = none ∨ (s.sched.voices[(0 : Fin 4)]).holder ≠ none) :
    State.Spares (some .feedback) s (State.arbitrateFor n s) := by
  refine State.arbitrateFor_spares (P := fun x => State.Secure (some .feedback) x ∧
    (x.sched.feedback.pending = none ∨ (x.sched.voices[(0 : Fin 4)]).holder ≠ none)) (fun x hx => ?_) _ s ⟨h, hidle⟩
  have once := State.arbitrate_sparesFeedback hx.1 hx.2
  have entry := congrArg CueView.pending (once.view _ rfl)
  have voice := congrArg CueView.voice0 (once.view _ rfl)
  simp only [State.view, if_true, Option.some.injEq, Prod.mk.injEq] at entry voice
  exact ⟨once, hx.1.of_spares once, hx.2.imp entry.trans fun k => by rw [voice.1]; exact k⟩

theorem State.given_feedback (s : State) (uid : Nat) (n : Fin 32) : ∃ P V,
    (s.given .feedback (some 0) (feedbackCue uid n)).dropReservations .feedback =
      { s with sched := { s.sched with path := P, voices := V } } ∧ P.holder = s.sched.path.holder ∧
    ∀ w : Fin 4, (V[w]).holder = if w = 0 then some .feedback else (s.sched.voices[w]).holder := by
  have need : s.needsPath (feedbackCue uid n) = false := rfl
  rw [State.given_eq, need, if_neg Bool.false_ne_true]
  refine ⟨_, _, rfl, Resource.unreserve_holder _ _, fun w => ?_⟩
  refine (congrArg Resource.holder (Vector.getElem_ofFn w.isLt)).trans ((Resource.unreserve_holder _ _).trans ?_)
  refine (congrArg Resource.holder (Vector.getElem_set_fin _ _ _ _)).trans ?_
  split <;> rfl

/-- Arbitrations that find a feedback cue pending and voice 0 free leave it playing there. -/
theorem State.settleArb_playsFeedback {uid : Nat} {n : Fin 32} {p : Pattern} (law : s.ResourceLaws) (hdue : s.sched.arbDue = true)
    (hfb : s.sched.feedback = ⟨some (feedbackCue uid n), none⟩) (hv : (s.sched.voices[(0 : Fin 4)]).holder = none)
    (hp : s.tone.patterns[n] = some p) : ∃ k, s.settleArb.sched.feedback = ⟨none, some (feedbackPlaying uid n k)⟩ ∧
      (s.settleArb.sched.voices[(0 : Fin 4)]).holder = some .feedback ∧ s.settleArb.tone.voices[(0 : Fin 4)] = voiceAt n p := by
  have clear := s.clearArb_spares (q := some .feedback)
  have secure : State.Secure (some .feedback) s := by
    refine ⟨fun _ _ e => (CueRef.noConfusion (Option.some.inj e)), fun x c hx hc => ?_, fun _ r _ => by rw [hv]; exact (Option.some_ne_none r).symm⟩
    cases hx
    rw [show s.cue? .feedback = none from congrArg (·.current) hfb] at hc
    cases hc
  have others (r : CueRef) (hr : r ∈ s.clearArb.candidates) : r ≠ .feedback := State.mem_candidates_ne_feedback _ hr
  have serves := clear.trans (State.serves_spares (q := some .feedback) s.clearArb.candidates
    (fun r hr => ⟨fun e => others r hr (Option.some.inj e).symm, others r hr⟩) s.clearArb (secure.of_spares clear))
  have turns := s.clearArb_turns.trans (State.serves_turns s.clearArb.candidates others s.clearArb)
  obtain ⟨y, hy⟩ : ∃ y, y = s.clearArb.candidates.foldl State.serve s.clearArb := ⟨_, rfl⟩
  rw [← hy] at serves turns
  have laws := turns.laws law
  have patterns : y.tone.patterns[n] = some p := by
    rw [turns.outside.patterns]
    exact hp
  have pending : y.sched.feedback.pending = some (feedbackCue uid n) :=
    (congrArg CueView.pending (serves.view _ rfl)).trans (congrArg (·.pending) hfb)
  have voice := congrArg CueView.voice0 (serves.view _ rfl)
  simp only [State.view, if_true, Option.some.injEq, Prod.mk.injEq] at voice
  have free : (y.sched.voices[(0 : Fin 4)]).holder = none := voice.1.trans hv
  have starts : s.clearArb.arbitrate = y.startCue .feedback (some 0) := by
    rw [State.arbitrate, ← hy, State.serveFeedback, pending, free]
    rfl
  obtain ⟨P, V, give, path, voices⟩ := y.given_feedback uid n
  obtain ⟨z, start, eq, -⟩ := State.startCue_feedback pending patterns give (by rw [voices, if_pos rfl])
  rw [start] at starts
  obtain ⟨noPath, noVoice, -⟩ := laws
  have held : ((z.withPattern 0 n p).sched.voices[(0 : Fin 4)]).holder = some .feedback := by
    show (z.sched.voices[(0 : Fin 4)]).holder = _
    rw [eq]
    exact (voices 0).trans (if_pos rfl)
  have entry : (z.withPattern 0 n p).sched.feedback = ⟨none, some (feedbackPlaying uid n y.sched.nextStart)⟩ := by
    show z.sched.feedback = _
    rw [eq]
  have secured : State.Secure (some .feedback) (z.withPattern 0 n p) := by
    refine ⟨fun _ _ e => (CueRef.noConfusion (Option.some.inj e)), fun x c hx hc hplay => ?_, fun _ r hr => ?_⟩
    · cases hx
      refine ⟨fun k => ?_, fun v hv k => ?_⟩
      · refine (noPath .feedback ?_).2 rfl
        rw [← path]
        exact (congrArg (fun z : State => z.sched.path.holder) eq).symm.trans k
      · have far : v ≠ 0 := by
          rintro rfl
          exact absurd hv (by decide)
        have heard : (V[v]).holder = some .feedback := (congrArg (fun z : State => (z.sched.voices[v]).holder) eq).symm.trans k
        rw [voices, if_neg far] at heard
        exact far ((noVoice v .feedback heard).2.1.2 rfl)
    · rw [held]
      exact fun e => hr (Option.some.inj e).symm
  have rest := State.arbitrateFor_sparesFeedback 1023 secured (.inr (by rw [held]; exact Option.some_ne_none _))
  have once : s.settleArb = State.arbitrateFor 1023 (z.withPattern 0 n p) := by
    rw [State.settleArb_due hdue, starts]
  rw [once]
  have record := rest.view _ rfl
  have voice := congrArg CueView.voice0 record
  simp only [State.view, if_true, Option.some.injEq, Prod.mk.injEq] at voice
  refine ⟨y.sched.nextStart, ?_, voice.1.trans held, voice.2.trans ?_⟩
  · have now := congrArg CueView.current record
    have next := congrArg CueView.pending record
    exact congrArg₂ PanelEntry.mk (next.trans (congrArg (·.pending) entry)) (now.trans (congrArg (·.current) entry))
  · exact (Vector.getElem_set_fin _ _ _ _).trans (if_pos rfl)

end Sys2Proof.Machine
end

section
/-! SUPPORT. How a panel entry is set (R54, R55), and how the arbitrations serve a pending narration cue (R62, R66, R70). -/

namespace Sys2Proof.Machine

variable {s t u : State} {m : Side} {i : Fin 24} {c : Cue} {uid : Nat} {items : List PhraseItem}

/-! ### Setting the entries (R54, R55) -/

/-- The narration cue as it is set (R54). -/
def narrationCue (uid : Nat) (items : List PhraseItem) : Cue := panelCue uid (some items) none

/-- What becomes of the current cue of a panel entry as a new one is set (R54, R55). -/
def State.superseded (s : State) (o : Option Cue) : Option Cue :=
  o.map fun x => if x.state = .playing then x.fadingAs .preempted s.now else x

theorem State.superseded_idle (s : State) {o : Option Cue} (h : s.superseded o = some c) : c.state ≠ .playing := by
  unfold State.superseded at h
  cases o with
  | none => cases h
  | some x =>
    simp only [Option.map_some, Option.some.injEq] at h
    rw [← h]
    split
    next => exact nofun
    next hx => exact hx

theorem State.enterEnding_sched (r : CueRef) (e : EndCause) : (s.enterEnding r e).sched = (s.modCue r fun c => c.toEnding e s.now).sched := by
  unfold State.enterEnding
  rw [State.chooseRing_eq]
  show (State.leftPlaying _).sched = _
  unfold State.leftPlaying
  split <;> rfl

theorem State.supersede_sched (s : State) (r : CueRef) : (s.supersede r).sched = s.sched.setCue r (s.superseded (s.cue? r)) := by
  have stays : s.sched.setCue r (s.cue? r) = s.sched := by
    cases r with
    | slot i => exact congrArg (fun v => { s.sched with table := v }) (Vector.set_getElem_self i.isLt)
    | narration | feedback => rfl
  unfold State.supersede
  cases h : s.cue? r with
  | none => exact ((congrArg _ h).symm.trans stays).symm
  | some x =>
    rw [h] at stays
    dsimp only
    split
    next hx =>
      rw [State.enterEnding_sched]
      simp only [State.modCue, h, State.superseded, Option.map_some, hx, if_true]
      rfl
    next hx => simp only [State.superseded, Option.map_some, hx, if_false, stays]

theorem State.setFeedback_sched (s : State) (q : Fin 32) : (s.setFeedback q).sched = { s.sched with
    feedback := ⟨some (feedbackCue s.sched.nextUid q), s.superseded s.sched.feedback.current⟩, nextUid := s.sched.nextUid + 1,
    arbDue := true } := by
  have set : (s.setFeedback q).sched = { (State.supersede { s with sched := { s.sched with
      feedback := ⟨some (feedbackCue s.sched.nextUid q), s.sched.feedback.current⟩, nextUid := s.sched.nextUid + 1 } } .feedback).sched with
    arbDue := true } := rfl
  rw [set, State.supersede_sched]
  rfl

theorem State.setNarration_sched (s : State) (items : List PhraseItem) : (s.setNarration items).sched = { s.sched with
    narration := ⟨some (narrationCue s.sched.nextUid items), s.superseded s.sched.narration.current⟩,
    path := s.sched.path.unreserve .narration,
    voices := Vector.ofFn fun v => (s.sched.voices[v]).unreserve .narration,
    nextUid := s.sched.nextUid + 1, arbDue := true } := by
  have ends : ∃ b, s.endReservations .narration = { s.dropReservations .narration with
      sched := { (s.dropReservations .narration).sched with arbDue := b } } := by
    unfold State.endReservations
    split
    · exact ⟨true, rfl⟩
    · exact ⟨_, rfl⟩
  obtain ⟨b, ends⟩ := ends
  have set : (s.setNarration items).sched = { (State.supersede { s.endReservations .narration with
      sched := { (s.endReservations .narration).sched with
        narration := ⟨some (narrationCue (s.endReservations .narration).sched.nextUid items),
          (s.endReservations .narration).sched.narration.current⟩,
        nextUid := (s.endReservations .narration).sched.nextUid + 1 } } .narration).sched with arbDue := true } := rfl
  rw [set, State.supersede_sched, ends]
  rfl

/-! ### The start of a narration cue (R66, R71, R72, R99) -/

theorem State.given_narration (s : State) (c : Cue) : ∃ V, (s.given .narration none c).dropReservations .narration =
    { s with sched := { s.sched with
        path := (if s.needsPath c then { s.sched.path with holder := some .narration } else s.sched.path).unreserve .narration,
        voices := V } } ∧ ∀ w : Fin 4, (V[w]).holder = (s.sched.voices[w]).holder := by
  rw [State.given_eq]
  exact ⟨_, rfl, fun w => (congrArg Resource.holder (Vector.getElem_ofFn w.isLt)).trans (Resource.unreserve_holder _ _)⟩

/-- The narration cue as it starts. -/
def narrationPlaying (uid : Nat) (items : List PhraseItem) (speaks : Bool) (start now : Nat) : Cue :=
  { narrationCue uid items with
    state := .playing, phase := some .main, latestStart := start, speechPlays := speaks,
    holdTimer := if speaks then none else some (now + 100000) }

theorem narrationCue_started (speaks : Bool) (start now : Nat) :
    (narrationCue uid items).started speaks start now = narrationPlaying uid items speaks start now := by
  cases speaks <;> simp [Cue.started, narrationCue, panelCue, narrationPlaying, Cue.firstPhase, Cue.timing?, Config.unit100, Config.msec]

/-- What a pending narration cue's start leaves: it takes the current position, with the speech path and its list if it speaks. -/
theorem State.startCue_narration (hc : s.sched.narration.pending = some (narrationCue uid items))
    (hlist : s.needsPath (narrationCue uid items) = true → (s.assemble (narrationCue uid items)).entries ≠ []) :
    ∃ V, (s.startCue .narration none).sched = { s.sched with
        path := (if s.needsPath (narrationCue uid items) then { s.sched.path with holder := some .narration } else
          s.sched.path).unreserve .narration,
        voices := V, narration := ⟨none, some (narrationPlaying uid items (s.needsPath (narrationCue uid items)) s.sched.nextStart s.now)⟩,
        nextStart := s.sched.nextStart + 1 } ∧ (∀ w : Fin 4, (V[w]).holder = (s.sched.voices[w]).holder) ∧
      (s.needsPath (narrationCue uid items) = true →
        (s.startCue .narration none).utt = ⟨(s.assemble (narrationCue uid items)).entries, some .narration⟩) := by
  obtain ⟨V, give, holders⟩ := s.given_narration (narrationCue uid items)
  have start := State.startCue_eq (s := s) (r := .narration) none hc
  obtain ⟨y, hy⟩ : ∃ y : State, y = { s with sched := { s.sched with
      path := (if s.needsPath (narrationCue uid items) then { s.sched.path with holder := some .narration } else
        s.sched.path).unreserve .narration,
      voices := V, narration := ⟨none, some (narrationPlaying uid items (s.needsPath (narrationCue uid items)) s.sched.nextStart s.now)⟩,
      nextStart := s.sched.nextStart + 1 } } := ⟨_, rfl⟩
  have placed : s.placed .narration none (narrationCue uid items) = y := by
    have parts : s.placed .narration none (narrationCue uid items) = ((s.given .narration none (narrationCue uid items)).dropReservations
        .narration).onSched fun sc => { sc with
          narration := ⟨none, some ((narrationCue uid items).started (s.needsPath (narrationCue uid items)) s.sched.nextStart s.now)⟩,
          nextStart := sc.nextStart + 1 } := rfl
    rw [parts, give, narrationCue_started, hy]
    rfl
  have assembled : y.assemble (narrationCue uid items) = s.assemble (narrationCue uid items) := by
    rw [hy]
    unfold State.assemble State.assemblyContext
    rfl
  rw [placed, narrationCue_started] at start
  cases need : s.needsPath (narrationCue uid items) with
  | false =>
    rw [need, if_neg Bool.false_ne_true] at start
    obtain ⟨eq, -⟩ := y.startDisplay_eq
    have quiet (z : State) : z.beginFirstPhase .narration (narrationPlaying uid items false s.sched.nextStart s.now) = z := rfl
    rw [quiet] at start
    rw [start, eq]
    refine ⟨V, ?_, holders, nofun⟩
    show y.sched = _
    rw [hy, need]
  | true =>
    rw [need, if_pos rfl] at start
    obtain ⟨z, hz⟩ : ∃ z, z = y.assembleFor .narration (narrationCue uid items) := ⟨_, rfl⟩
    have list : z = y.setUtt ⟨(s.assemble (narrationCue uid items)).entries, some .narration⟩ := by
      rw [hz, State.assembleFor, assembled]
      exact ite_self _
    rw [← hz] at start
    obtain ⟨eq, -⟩ := z.startDisplay_eq
    generalize z.wakeBacklight.stopIdle.chooseRing = x at start eq
    have utt : x.utt = ⟨(s.assemble (narrationCue uid items)).entries, some .narration⟩ := by rw [eq, list]; rfl
    have speaks : x.beginFirstPhase .narration (narrationPlaying uid items true s.sched.nextStart s.now) = x.startSpeech := by
      have main : x.beginFirstPhase .narration (narrationPlaying uid items true s.sched.nextStart s.now) = x.beginUtterance .narration := rfl
      rw [main, State.beginUtterance, utt, if_neg (by simpa using hlist need)]
    rw [start, speaks]
    refine ⟨V, ?_, holders, fun _ => utt⟩
    show x.sched = _
    rw [eq, list]
    show y.sched = _
    rw [hy, need]

/-! ### The arbitrations and the narration entry (R62, R63, R70) -/

/-- The narration entry does not play, or holds nothing that the arbiter could take, and no feedback cue needs the speech path. -/
theorem State.secure_narration (h : ∀ c, s.sched.narration.current = some c → c.state = .playing →
    s.sched.path.holder ≠ some .narration ∧ ∀ v ∈ tableVoices, (s.sched.voices[v]).holder ≠ some .narration) :
    State.Secure (some .narration) s := by
  refine ⟨fun _ _ e => (CueRef.noConfusion (Option.some.inj e)), fun x c hx hc hp => ?_, fun e => (CueRef.noConfusion (Option.some.inj e))⟩
  cases hx
  exact h c hc hp

/-- Without a pending cue the narration entry is served nothing. -/
theorem State.serve_narration_none (h : s.sched.narration.pending = none) : s.serve .narration = s := by
  unfold State.serve
  have no : s.candidate? .narration = none := h
  rw [no]

/-- The turns of the candidates spare a narration entry that no turn serves. -/
theorem State.serves_sparesNarration (l : List CueRef) (hl : ∀ r ∈ l, r ≠ .feedback)
    (hn : .narration ∈ l → s.sched.narration.pending = none) (h : State.Secure (some .narration) s) :
    State.Spares (some .narration) s (l.foldl State.serve s) := by
  induction l generalizing s with
  | nil => exact .refl _ s
  | cons r l ih =>
    have hr := hl r (by simp)
    have rest (x : CueRef) (hx : x ∈ l) := hl x (by simp [hx])
    by_cases ne : r = .narration
    · subst ne
      show State.Spares _ s (l.foldl State.serve (s.serve .narration))
      rw [State.serve_narration_none (hn (by simp))]
      exact ih rest (fun hm => hn (by simp [hm])) h
    · have apart : (some CueRef.narration) ≠ some r := fun e => ne (Option.some.inj e).symm
      have spares := State.serve_spares (h.apart apart hr) hr h.safe
      refine spares.trans (ih rest (fun hm => ?_) (h.of_spares spares))
      exact (congrArg CueView.pending (spares.view _ rfl)).trans (hn (by simp [hm]))

/-- So does the feedback entry's, unless it needs the speech path. -/
theorem State.servesAll_sparesNarration (l : List CueRef) (hl : ∀ r ∈ l, r ≠ .feedback)
    (hn : .narration ∈ l → s.sched.narration.pending = none) (h : State.Secure (some .narration) s)
    (hf : s.plays .narration = true → s.ResourceLaws) : State.Spares (some .narration) s (l.foldl State.serve s).serveFeedback := by
  have serves := State.serves_sparesNarration l hl hn h
  have turns := State.serves_turns l hl s
  generalize l.foldl State.serve s = y at serves turns ⊢
  refine serves.trans (State.serveFeedback_spares (by decide) (h.of_spares serves) fun c x hc hx hp => ?_)
  cases hx
  have same : y.cue? .narration = s.cue? .narration := congrArg CueView.current (serves.view _ rfl)
  obtain ⟨-, -, -, -, -, silent⟩ := turns.laws (hf (by rw [State.plays, same] at hp; exact hp))
  simp [State.needsPath, silent c hc]

/-- An arbitration spares a narration entry that it does not serve. -/
theorem State.arbitrate_sparesNarration (h : State.Secure (some .narration) s)
    (hn : ∀ c, s.sched.narration.pending = some c → s.isCandidate c = false)
    (hf : s.plays .narration = true → s.ResourceLaws) : State.Spares (some .narration) s s.clearArb.arbitrate := by
  have clear := s.clearArb_spares (q := some .narration)
  refine clear.trans (State.servesAll_sparesNarration s.clearArb.candidates (fun r hr => State.mem_candidates_ne_feedback _ hr)
    (fun hm => ?_) (h.of_spares clear) fun k => s.clearArb_turns.laws (hf k))
  obtain ⟨c, hc, hi⟩ := State.narration_mem_candidates.1 hm
  rw [show s.clearArb.isCandidate c = s.isCandidate c from rfl, hn c hc] at hi
  cases hi

/-- While a store check bars the pending narration cue's speech, the arbitrations leave the entry alone (R62). -/
theorem State.settleArb_barsNarration (hidle : ∀ c, s.sched.narration.current = some c → c.state ≠ .playing)
    (hp : ∀ c, s.sched.narration.pending = some c → s.isCandidate c = false) :
    s.settleArb.sched.narration = s.sched.narration := by
  have spares := State.arbitrateFor_spares (q := some .narration) (P := fun x =>
      (∀ c, x.sched.narration.current = some c → c.state ≠ .playing) ∧ ∀ c, x.sched.narration.pending = some c → x.isCandidate c = false)
    (fun x hx => by
      have quiet : x.plays .narration = false := by
        show x.sched.narration.current.any _ = false
        cases hc : x.sched.narration.current with
        | none => rfl
        | some c => simp [hx.1 c hc]
      have once := State.arbitrate_sparesNarration (State.secure_narration fun c hc hp => absurd hp (hx.1 c hc)) hx.2
        fun k => by rw [quiet] at k; cases k
      have current := congrArg CueView.current (once.view _ rfl)
      have pending := congrArg CueView.pending (once.view _ rfl)
      have turns := x.clearArb_turns.trans (State.arbitrate_turns x.clearArb)
      refine ⟨once, fun c hc => hx.1 c (current.symm.trans hc), fun c hc => ?_⟩
      rw [State.isCandidate_congr turns.store.1 turns.store.2]
      exact hx.2 c (pending.symm.trans hc)) arbitrationBound s ⟨hidle, hp⟩
  exact congrArg₂ PanelEntry.mk (congrArg CueView.pending (spares.view _ rfl)) (congrArg CueView.current (spares.view _ rfl))

/-- A playing narration entry with none pending is left by the arbitrations while it holds nothing. -/
theorem State.arbitrateFor_sparesNarration (n : Nat) (law : s.ResourceLaws) (h : State.Secure (some .narration) s)
    (hn : s.sched.narration.pending = none) : State.Spares (some .narration) s (State.arbitrateFor n s) := by
  refine State.arbitrateFor_spares (P := fun x => x.ResourceLaws ∧ State.Secure (some .narration) x ∧ x.sched.narration.pending = none)
    (fun x hx => ?_) n s ⟨law, h, hn⟩
  obtain ⟨laws, secure, none_pending⟩ := hx
  have once := State.arbitrate_sparesNarration secure (fun c hc => absurd (none_pending.symm.trans hc) nofun) fun _ => laws
  exact ⟨once, (x.clearArb_turns.trans (State.arbitrate_turns x.clearArb)).laws laws, secure.of_spares once,
    (congrArg CueView.pending (once.view _ rfl)).trans none_pending⟩

/-- A pending narration cue that needs no path starts at its turn. -/
theorem State.serve_narration_silent (hc : s.sched.narration.pending = some (narrationCue uid items))
    (hneed : s.needsPath (narrationCue uid items) = false) : s.serve .narration = s.startCue .narration none :=
  State.serve_available (r := .narration) hc rfl (.inl (by simp [State.judgePath, hneed])) (.inl ⟨State.judgeVoice_of_no_tone rfl, rfl⟩)

/-- Without a store to read from, the pending narration cue plays its hold (R66, R80, R101). -/
theorem State.settleArb_playsNarration (law : s.ResourceLaws) (hdue : s.sched.arbDue = true) (hfailed : s.store.state ≠ .ok)
    (hn : s.sched.narration = ⟨some (narrationCue uid items), none⟩) :
    ∃ k, s.settleArb.sched.narration = ⟨none, some (narrationPlaying uid items false k s.now)⟩ := by
  have need (x : State) (hx : x.store.state = s.store.state) : x.needsPath (narrationCue uid items) = false := by
    simp [State.needsPath, hx, hfailed]
  have pending : s.clearArb.sched.narration.pending = some (narrationCue uid items) := congrArg (·.pending) hn
  have mem : CueRef.narration ∈ s.clearArb.candidates := State.narration_mem_candidates.2 ⟨_, pending, by
    simp only [State.isCandidate, need s.clearArb rfl, Bool.and_false, Bool.not_false, Bool.and_true]
    rfl⟩
  obtain ⟨l₁, l₂, split⟩ := List.append_of_mem mem
  have others (r : CueRef) (hr : r ∈ s.clearArb.candidates) : r ≠ .feedback := State.mem_candidates_ne_feedback _ hr
  have nodup := s.clearArb.candidates_nodup
  rw [split] at others nodup
  have first : CueRef.narration ∉ l₁ := fun k => (List.nodup_append.1 nodup).2.2 _ k _ (by simp) rfl
  have idle (x : State) (hx : x.sched.narration.current = none) : State.Secure (some .narration) x :=
    State.secure_narration fun c hc => absurd (hx.symm.trans hc) nofun
  have before := State.serves_sparesNarration l₁ (fun r hr => others r (by simp [hr])) (s := s.clearArb) (fun k => absurd k first)
    (idle _ (congrArg (·.current) hn))
  have turns := s.clearArb_turns.trans (State.serves_turns l₁ (fun r hr => others r (by simp [hr])) s.clearArb)
  obtain ⟨y, hy⟩ : ∃ y, y = l₁.foldl State.serve s.clearArb := ⟨_, rfl⟩
  rw [← hy] at before turns
  have waits : y.sched.narration.pending = some (narrationCue uid items) := (congrArg CueView.pending (before.view _ rfl)).trans pending
  have alone : y.sched.narration.current = none := (congrArg CueView.current (before.view _ rfl)).trans (congrArg (·.current) hn)
  have silent := need y turns.store.1
  have now : y.now = s.now := turns.outside.now
  obtain ⟨V, started, holders, -⟩ := State.startCue_narration waits (by rw [silent]; exact nofun)
  rw [silent, if_neg Bool.false_ne_true, now] at started
  have laws := turns.laws law
  have moved : y.Turns (y.startCue .narration none) := by
    have served := State.serve_turns y .narration (by decide)
    rwa [State.serve_narration_silent waits silent] at served
  obtain ⟨z, hz⟩ : ∃ z, z = y.startCue .narration none := ⟨_, rfl⟩
  rw [← hz] at started moved
  have entry : z.sched.narration = ⟨none, some (narrationPlaying uid items false y.sched.nextStart s.now)⟩ := by rw [started]
  have secure : State.Secure (some .narration) z := by
    refine State.secure_narration fun c _ _ => ?_
    have gone : ¬y.mayHold .narration := by
      rintro ⟨c, hc, -⟩
      exact absurd (alone.symm.trans hc) nofun
    refine ⟨fun k => ?_, fun v _ k => ?_⟩
    · rw [started] at k
      exact gone (laws.1 _ ((Resource.unreserve_holder _ _).symm.trans k)).1
    · rw [started] at k
      exact gone (laws.2.1 v _ ((holders v).symm.trans k)).1
  have rest := State.servesAll_sparesNarration l₂ (fun r hr => others r (by simp [hr])) (s := z) (fun _ => by rw [entry]) secure
    fun _ => moved.laws laws
  have round : s.clearArb.arbitrate = (l₂.foldl State.serve z).serveFeedback := by
    rw [State.arbitrate, split, List.foldl_append, List.foldl_cons, ← hy, State.serve_narration_silent waits silent, ← hz]
  rw [← round] at rest
  have last := State.arbitrateFor_sparesNarration 1023 ((s.clearArb_turns.trans (State.arbitrate_turns s.clearArb)).laws law)
    (secure.of_spares rest) ((congrArg CueView.pending (rest.view _ rfl)).trans (congrArg (·.pending) entry))
  have all := rest.trans last
  rw [State.settleArb_due hdue]
  exact ⟨y.sched.nextStart, congrArg₂ PanelEntry.mk ((congrArg CueView.pending (all.view _ rfl)).trans (congrArg (·.pending) entry))
    ((congrArg CueView.current (all.view _ rfl)).trans (congrArg (·.current) entry))⟩

/-! ### A narration cue that speaks (R66, R99) -/

theorem State.beginTone_leaves (r : CueRef) : (s.beginTone r).sched = s.sched ∧ (s.beginTone r).utt = s.utt := by
  unfold State.beginTone State.beginPattern
  repeat' split
  all_goals exact ⟨rfl, rfl⟩

theorem Sched.serveMarker_leaves (sc : Sched) (c : Cue) : (sc.serveMarker c).path = sc.path ∧ (sc.serveMarker c).narration = sc.narration ∧
    (sc.serveMarker c).arbDue = sc.arbDue := by
  unfold Sched.serveMarker
  repeat' split
  all_goals exact ⟨rfl, rfl, rfl⟩

/-- A feedback cue without speech starts beside the speech path. -/
theorem State.startCue_feedback_leaves {v : Option (Fin 4)} (hc : s.sched.feedback.pending = some c) (hneed : s.needsPath c = false) :
    (s.startCue .feedback v).utt = s.utt ∧ (s.startCue .feedback v).sched.path = s.sched.path.unreserve .feedback ∧
      (s.startCue .feedback v).sched.narration = s.sched.narration ∧ (s.startCue .feedback v).sched.arbDue = s.sched.arbDue := by
  have start := State.startCue_eq (s := s) (r := .feedback) v hc
  rw [hneed, if_neg Bool.false_ne_true] at start
  obtain ⟨x, hx⟩ : ∃ x, x = ((s.given .feedback v c).dropReservations .feedback) := ⟨_, rfl⟩
  have given : x.sched.path = s.sched.path.unreserve .feedback ∧ x.sched.narration = s.sched.narration ∧
      x.sched.arbDue = s.sched.arbDue ∧ x.utt = s.utt := by
    rw [hx, State.given_eq, hneed, if_neg Bool.false_ne_true]
    exact ⟨rfl, rfl, rfl, rfl⟩
  have place : s.placed .feedback v c = x.onSched fun sc =>
      { (sc.serveMarker c).placeStarted .feedback (c.started (s.needsPath c) s.sched.nextStart s.now) with nextStart := sc.nextStart + 1 } := by
    rw [hx]
    rfl
  obtain ⟨path, narration, due⟩ := x.sched.serveMarker_leaves c
  obtain ⟨shown, -⟩ := (s.placed .feedback v c).startDisplay_eq
  generalize (s.placed .feedback v c).wakeBacklight.stopIdle.chooseRing = z at start shown
  have begins : (z.beginFirstPhase .feedback (c.started false s.sched.nextStart s.now)).sched = z.sched ∧
      (z.beginFirstPhase .feedback (c.started false s.sched.nextStart s.now)).utt = z.utt := by
    have mute : (c.started false s.sched.nextStart s.now).speechPlays = false := by
      unfold Cue.started Cue.markPartial
      dsimp only
      split <;> rfl
    unfold State.beginFirstPhase
    simp only [mute, Bool.false_eq_true, false_and, if_false]
    split
    · exact ⟨rfl, rfl⟩
    · split
      · exact z.beginTone_leaves _
      · exact ⟨rfl, rfl⟩
  rw [start, begins.1, begins.2, shown, place]
  exact ⟨given.2.2.2, path.trans given.1, narration.trans given.2.1, due.trans given.2.2.1⟩

/-- With the speech path free and nothing else waiting, a narration cue speaks in the arbitration it sets off (R66, R72, R99). -/
theorem State.settleArb_speaksNarration (hdue : s.sched.arbDue = true) (hstore : s.store.state = .ok)
    (hpath : s.sched.path = ⟨none, none⟩) (hn : s.sched.narration = ⟨some (narrationCue uid items), none⟩)
    (hcand : s.candidates = [.narration]) (hlist : (s.assemble (narrationCue uid items)).entries ≠ [])
    (hfb : ∀ c, s.sched.feedback.pending = some c → c.speech = none) :
    ∃ k, s.settleArb.sched.narration = ⟨none, some (narrationPlaying uid items true k s.now)⟩ ∧
      s.settleArb.sched.path = ⟨some .narration, none⟩ ∧
      s.settleArb.utt = ⟨(s.assemble (narrationCue uid items)).entries, some .narration⟩ := by
  have pending : s.clearArb.sched.narration.pending = some (narrationCue uid items) := congrArg (·.pending) hn
  have need : s.clearArb.needsPath (narrationCue uid items) = true := State.needsPath_iff.2 ⟨nofun, hstore⟩
  have same : s.clearArb.assemble (narrationCue uid items) = s.assemble (narrationCue uid items) := by
    unfold State.assemble State.assemblyContext
    rfl
  obtain ⟨V, started, -, utt⟩ := State.startCue_narration pending fun _ => by rw [same]; exact hlist
  have path : s.clearArb.sched.path = ⟨none, none⟩ := hpath
  rw [need, if_pos rfl, path] at started
  have utt := utt need
  rw [same] at utt
  have served : s.clearArb.serve .narration = s.clearArb.startCue .narration none :=
    State.serve_available (r := .narration) pending rfl
      (.inr (State.judgePath_available need (congrArg (·.holder) path) (.inl (congrArg (·.reservation) path))))
      (.inl ⟨State.judgeVoice_of_no_tone rfl, rfl⟩)
  obtain ⟨y, hy⟩ : ∃ y, y = s.clearArb.startCue .narration none := ⟨_, rfl⟩
  rw [← hy] at started utt served
  have round : s.clearArb.arbitrate = y.serveFeedback := by
    have list : s.clearArb.candidates = [.narration] := hcand
    rw [State.arbitrate, list, List.foldl_cons, List.foldl_nil, served]
  have entry : y.sched.narration = ⟨none, some (narrationPlaying uid items true s.sched.nextStart s.now)⟩ := by rw [started]; rfl
  have held : y.sched.path = ⟨some .narration, none⟩ := by rw [started]; rfl
  have quiet : y.sched.arbDue = false := by rw [started]; rfl
  have after : y.serveFeedback.utt = y.utt ∧ y.serveFeedback.sched.path = ⟨some .narration, none⟩ ∧
      y.serveFeedback.sched.narration = y.sched.narration ∧ y.serveFeedback.sched.arbDue = false := by
    unfold State.serveFeedback
    split
    next hf =>
      simp only [Bool.and_eq_true, Option.isSome_iff_exists] at hf
      obtain ⟨⟨c, hc⟩, -⟩ := hf
      have own : s.sched.feedback.pending = some c := by
        rw [← hc, started]
        rfl
      obtain ⟨utt, path, narration, due⟩ := State.startCue_feedback_leaves (v := some 0) hc
        (by simp [State.needsPath, hfb c own])
      refine ⟨utt, path.trans ?_, narration, due.trans quiet⟩
      rw [held]
      rfl
    next => exact ⟨rfl, held, rfl, quiet⟩
  rw [← round] at after
  obtain ⟨sameUtt, samePath, sameEntry, done⟩ := after
  rw [State.settleArb_due hdue]
  have last : State.arbitrateFor 1023 s.clearArb.arbitrate = s.clearArb.arbitrate := if_neg (by rw [done]; exact Bool.false_ne_true)
  rw [last]
  exact ⟨_, sameEntry.trans entry, samePath, sameUtt.trans utt⟩

end Sys2Proof.Machine
end

section
/-! SUPPORT. The panel cues that the local actions set (R33, R35, R54, R55, R174, R175), from the event to what the arbitrations leave. -/

namespace Sys2Proof.Machine

variable {s t u x y : State} {m : Side} {c : Cue} {items : List PhraseItem} {q : Fin 32}

/-! ### What is set (R54, R55) -/

/-- `y` is `s` with the pending feedback cue set to the pattern `q`. -/
structure State.SetsFeedback (s y : State) (q : Fin 32) : Prop where
  entry : ∃ uid, y.sched.feedback = ⟨some (feedbackCue uid q), s.superseded s.sched.feedback.current⟩
  voice0 : (y.sched.voices[(0 : Fin 4)]).holder = (s.sched.voices[(0 : Fin 4)]).holder
  patterns : y.tone.patterns = s.tone.patterns
  due : y.sched.arbDue = true

/-- `y` is `s` with the pending narration cue set to `items`. -/
structure State.SetsNarration (s y : State) (items : List PhraseItem) : Prop where
  entry : ∃ uid, y.sched.narration = ⟨some (narrationCue uid items), s.superseded s.sched.narration.current⟩
  table : y.sched.table = s.sched.table
  path : y.sched.path = s.sched.path.unreserve .narration
  store : y.store = s.store
  now : y.now = s.now
  due : y.sched.arbDue = true

theorem State.supersede_store (r : CueRef) : (s.supersede r).store = s.store := by
  have ends : (s.enterEnding r .preempted).store = s.store := by
    unfold State.enterEnding State.leftPlaying State.modCue
    rw [State.chooseRing_eq]
    cases r <;> split <;> rfl
  unfold State.supersede
  split
  · rfl
  · split
    · exact ends
    · rfl

theorem State.setFeedback_sets (s : State) (q : Fin 32) : s.SetsFeedback (s.setFeedback q) q := by
  have sched := s.setFeedback_sched q
  exact ⟨⟨_, by rw [sched]⟩, by rw [sched], (s.setFeedback_frame q).patterns, by rw [sched]⟩

theorem State.setNarration_sets (s : State) (items : List PhraseItem) : s.SetsNarration (s.setNarration items) items := by
  have sched := s.setNarration_sched items
  refine ⟨⟨_, by rw [sched]⟩, by rw [sched], by rw [sched], ?_, (s.setNarration_frame items).now, by rw [sched]⟩
  refine (State.supersede_store _).trans ?_
  unfold State.endReservations
  split <;> rfl

/-- What was changed before beside the cues, the resources, the store and the tone unit. -/
theorem State.SetsFeedback.after (h : x.SetsFeedback y q) (hs : x.sched = s.sched) (ht : x.tone = s.tone) (hn : x.now = s.now) :
    s.SetsFeedback y q := by
  obtain ⟨entry, voice0, patterns, due⟩ := h
  have old : x.superseded = s.superseded := by
    funext o
    rw [State.superseded, hn, State.superseded]
  rw [old, hs] at entry
  exact ⟨entry, voice0.trans (by rw [hs]), patterns.trans (by rw [ht]), due⟩

theorem State.SetsNarration.after (h : x.SetsNarration y items) (hs : x.sched = s.sched) (hst : x.store = s.store) (hn : x.now = s.now) :
    s.SetsNarration y items := by
  obtain ⟨entry, table, path, store, now, due⟩ := h
  have old : x.superseded = s.superseded := by
    funext o
    rw [State.superseded, hn, State.superseded]
  rw [old, hs] at entry
  exact ⟨entry, table.trans (by rw [hs]), path.trans (by rw [hs]), store.trans hst, now.trans hn, due⟩

/-- What is changed afterwards beside the cues, the resources, the store and the tone unit. -/
theorem State.SetsFeedback.before (h : s.SetsFeedback x q) (hs : y.sched = x.sched) (ht : y.tone = x.tone) : s.SetsFeedback y q := by
  obtain ⟨entry, voice0, patterns, due⟩ := h
  exact ⟨by rw [hs]; exact entry, by rw [hs]; exact voice0, by rw [ht]; exact patterns, by rw [hs]; exact due⟩

theorem State.SetsNarration.before (h : s.SetsNarration x items) (hs : y.sched = x.sched) (hst : y.store = x.store) (hn : y.now = x.now) :
    s.SetsNarration y items := by
  obtain ⟨entry, table, path, store, now, due⟩ := h
  exact ⟨by rw [hs]; exact entry, by rw [hs]; exact table, by rw [hs]; exact path, hst.trans store, hn.trans now, by rw [hs]; exact due⟩

/-- A feedback cue set beside it leaves the narration set. -/
theorem State.SetsNarration.feedback (h : s.SetsNarration x items) (q : Fin 32) : s.SetsNarration (x.setFeedback q) items := by
  obtain ⟨entry, table, path, store, now, -⟩ := h
  have sched := x.setFeedback_sched q
  refine ⟨by rw [sched]; exact entry, by rw [sched]; exact table, by rw [sched]; exact path, ?_, (x.setFeedback_frame q).now.trans now,
    by rw [sched]⟩
  exact (State.supersede_store _).trans store

/-! ### What the arbitrations make of it -/

/-- What a narration that an event sets in `s` has come to in `t`, by the store and the path it finds (R54, R62, R66, R80, R101). -/
def State.Narrates (s t : State) (items : List PhraseItem) : Prop :=
  let narration (d : Cue) : Prop := d.speech = some items ∧ d.tone = none ∧ d.cls = .echo ∧ d.origin = .panel
  (s.store.state = .ok → s.store.check ≠ .idle → ∃ d, t.sched.narration = ⟨some d, s.superseded s.sched.narration.current⟩ ∧
    narration d ∧ d.state = .waiting) ∧
  (s.ResourceLaws → s.store.state = .failed → s.sched.narration.current = none → ∃ d, t.sched.narration = ⟨none, some d⟩ ∧
    narration d ∧ d.state = .playing ∧ d.phase = some .main ∧ d.holdTimer = some (s.now + 100000)) ∧
  ∀ h e rest, s.ResourceLaws → s.store.state = .ok → s.store.check = .idle → s.sched.path = ⟨none, none⟩ →
    s.sched.narration.current = none → s.candidates = [] → t.focus = some h →
    (s.assembleItems (t.context h) items).entries = e :: rest → ∃ d, t.sched.narration = ⟨none, some d⟩ ∧ narration d ∧
      d.state = .playing ∧ d.phase = some .main ∧ d.speechPlays = true ∧ t.sched.path = ⟨some .narration, none⟩ ∧
      t.utt = ⟨e :: rest, some .narration⟩

/-- With no other cue a candidate, the pending narration cue is the only one. -/
theorem State.candidates_narration (hs : s.candidates = []) (ht : y.sched.table = s.sched.table) (hst : y.store = s.store)
    (hp : y.sched.narration.pending = some c) (hc : y.isCandidate c = true) : y.candidates = [.narration] := by
  obtain ⟨table, -⟩ := State.candidates_eq_nil_iff.1 hs
  refine List.eq_singleton_of_mem y.candidates_nodup fun r => ⟨fun hr => ?_, fun hr => ?_⟩
  · match r, hr with
    | .slot i, hr =>
      obtain ⟨d, m, hd, hi, he, ho⟩ := (y.mem_candidates i).1 hr
      rw [State.isCandidate_congr (s := s) (by rw [hst]) (by rw [hst]), table i d m (by rw [← ht]; exact hd) he ho] at hi
      cases hi
    | .narration, _ => exact rfl
    | .feedback, hr => exact absurd rfl (State.mem_candidates_ne_feedback _ hr)
  · cases hr
    exact State.narration_mem_candidates.2 ⟨c, hp, hc⟩

theorem State.SetsNarration.narrates (h : s.SetsNarration y items) (law : s.ResourceLaws → y.ResourceLaws)
    (hs : u.sched = y.settleArb.sched) (hu : u.utt = y.settleArb.utt) (hf : u.focus = y.focus) (hc : u.ctx = y.ctx) :
    s.Narrates u items := by
  obtain ⟨⟨uid, entry⟩, table, path, store, now, due⟩ := h
  refine ⟨fun hok hck => ?_, fun hlaw hfail hcur => ?_, fun k e rest hlaw hok hck hpath hcur hcand hfocus hlist => ?_⟩
  · refine ⟨narrationCue uid items, ?_, ⟨rfl, rfl, rfl, rfl⟩, rfl⟩
    rw [hs, State.settleArb_barsNarration, entry]
    · intro c hcue
      rw [entry] at hcue
      exact s.superseded_idle hcue
    · intro c hcue
      rw [entry] at hcue
      cases hcue
      have active : y.checkActive = true := by
        simp [State.checkActive, store, hck]
      simp [State.isCandidate, active, State.needsPath, store, hok, narrationCue, panelCue]
  · rw [hcur] at entry
    obtain ⟨k, played⟩ := State.settleArb_playsNarration (law hlaw) due (by rw [store, hfail]; exact nofun) entry
    refine ⟨_, by rw [hs, played], ⟨rfl, rfl, rfl, rfl⟩, rfl, rfl, ?_⟩
    rw [now]
    rfl
  · rw [hcur] at entry
    have only : y.candidates = [.narration] := by
      refine State.candidates_narration hcand table store (congrArg (·.pending) entry) ?_
      simp [State.isCandidate, State.checkActive, store, hck, narrationCue, panelCue]
    have list : (y.assemble (narrationCue uid items)).entries = e :: rest := by
      have focus : y.focus = some k := hf.symm.trans hfocus
      have own : y.assemblyContext (narrationCue uid items) = u.context k := by
        have reads : y.assemblyContext (narrationCue uid items) = (y.focus.map y.context).getD resetContext := by
          unfold State.assemblyContext
          cases y.focus <;> rfl
        rw [reads, focus]
        exact congrArg (fun v : PerSide Context => v.get k) hc.symm
      rw [← hlist, State.assemble, own]
      exact congrArg (·.entries) (State.assembleItems_congr (s := s) (t := y) (by rw [store]) (by rw [store]) _ _)
    obtain ⟨n, played, held, utt⟩ := State.settleArb_speaksNarration due (by rw [store, hok]) (by rw [path, hpath]; rfl) entry only
      (by rw [list]; exact nofun) (law hlaw).2.2.2.2.2
    refine ⟨_, by rw [hs, played], ⟨rfl, rfl, rfl, rfl⟩, rfl, rfl, rfl, by rw [hs, held], ?_⟩
    rw [hu, utt, list]

/-- On a free voice 0 the feedback cue plays (R66, R70, R136). -/
theorem State.SetsFeedback.plays {p : Pattern} (h : s.SetsFeedback y q) (law : y.ResourceLaws) (hs : u.sched = y.settleArb.sched)
    (ht : u.tone = y.settleArb.tone) (hp : s.tone.patterns[q] = some p) (hcur : s.sched.feedback.current = none)
    (hv : (s.sched.voices[(0 : Fin 4)]).holder = none) : (u.sched.voices[(0 : Fin 4)]).holder = some .feedback ∧
      u.tone.voices[(0 : Fin 4)] = voiceAt q p ∧ ∃ uid k, u.sched.feedback = ⟨none, some (feedbackPlaying uid q k)⟩ := by
  obtain ⟨⟨uid, entry⟩, voice0, patterns, due⟩ := h
  rw [hcur] at entry
  obtain ⟨k, played, held, sounds⟩ := State.settleArb_playsFeedback law due entry (voice0.trans hv) (by rw [patterns]; exact hp)
  rw [hs, ht]
  exact ⟨held, sounds, uid, k, played⟩

/-- Behind a cue that holds voice 0 it waits (R55, R70). -/
theorem State.SetsFeedback.waits {c : Cue} (h : s.SetsFeedback y q) (hs : u.sched = y.settleArb.sched)
    (hcur : s.sched.feedback.current = some c) (hv : (s.sched.voices[(0 : Fin 4)]).holder = some .feedback) : ∃ uid,
      u.sched.feedback = ⟨some (feedbackCue uid q), some (if c.state = .playing then c.fadingAs .preempted s.now else c)⟩ := by
  obtain ⟨⟨uid, entry⟩, voice0, -, -⟩ := h
  have held := voice0.trans hv
  have secure : State.Secure (some .feedback) y := by
    refine ⟨fun _ _ e => (CueRef.noConfusion (Option.some.inj e)), fun x d hx hd hp => ?_, fun _ r hr k => ?_⟩
    · cases hx
      exact absurd hp (s.superseded_idle ((congrArg (·.current) entry).symm.trans hd))
    · exact hr (Option.some.inj (k.symm.trans held))
  have spares := State.arbitrateFor_sparesFeedback arbitrationBound secure (.inr (by rw [held]; exact Option.some_ne_none _))
  refine ⟨uid, ?_⟩
  rw [hs]
  rw [hcur] at entry
  exact congrArg₂ PanelEntry.mk ((congrArg CueView.pending (spares.view _ rfl)).trans (congrArg (·.pending) entry))
    ((congrArg CueView.current (spares.view _ rfl)).trans (congrArg (·.current) entry))

/-! ### The local actions (R33, R35, R174, R175) -/

theorem State.knobStep_sets (s : State) (m : Side) (up : Bool) :
    ((detentResult (s.context m) up).2 = true → s.SetsFeedback (s.knobStep m up) 2) ∧
      ((detentResult (s.context m) up).2 = false → (s.context m).assist = false → s.SetsFeedback (s.knobStep m up) 0) ∧
      ((detentResult (s.context m) up).2 = false → (s.context m).assist = true →
        s.SetsNarration (s.knobStep m up) [.field .program]) := by
  have assist : ((s.onCtx m fun c => { c with index := (detentResult (s.context m) up).1 }).context m).assist = (s.context m).assist := by
    rw [State.context_onCtx, if_pos rfl]
  unfold State.knobStep
  dsimp only
  rw [assist]
  refine ⟨fun h => ?_, fun h ha => ?_, fun h ha => ?_⟩
  · rw [if_pos h]
    exact (State.setFeedback_sets _ _).after rfl rfl rfl
  · rw [if_neg (by rw [h]; exact Bool.false_ne_true), if_neg (by rw [ha]; exact Bool.false_ne_true)]
    exact (State.setFeedback_sets _ _).after rfl rfl rfl
  · rw [if_neg (by rw [h]; exact Bool.false_ne_true), if_pos ha]
    exact (State.setNarration_sets _ _).after rfl rfl rfl

theorem State.changeFocus_sets (s : State) (m : Side) (h : (s.context m).assist = true) :
    s.SetsNarration (s.changeFocus m) [.fragment (nameFragment m), .field .program] := by
  have named : s.changeFocus m =
      State.setNarration ({ s with focus := some m }.onAttachedLinks Link.setFocusMark) [.fragment (nameFragment m), .field .program] := if_pos h
  rw [named]
  exact (State.setNarration_sets _ _).after rfl rfl rfl

theorem State.changeFocus_feedback (s : State) (m : Side) : (s.changeFocus m).sched.feedback = s.sched.feedback ∧
    ((s.changeFocus m).sched.voices[(0 : Fin 4)]).holder = (s.sched.voices[(0 : Fin 4)]).holder ∧
    (s.changeFocus m).tone.patterns = s.tone.patterns ∧ (s.changeFocus m).now = s.now := by
  have narrated (x : State) (l : List PhraseItem) : (x.setNarration l).sched.feedback = x.sched.feedback ∧
      ((x.setNarration l).sched.voices[(0 : Fin 4)]).holder = (x.sched.voices[(0 : Fin 4)]).holder ∧
      (x.setNarration l).tone.patterns = x.tone.patterns ∧ (x.setNarration l).now = x.now := by
    have frame := x.setNarration_frame l
    rw [State.setNarration_sched, frame.patterns, frame.now]
    exact ⟨rfl, (congrArg Resource.holder (Vector.getElem_ofFn (by decide))).trans (Resource.unreserve_holder _ _), rfl, rfl⟩
  unfold State.changeFocus
  dsimp only
  split
  · exact narrated _ _
  · exact ⟨rfl, rfl, rfl, rfl⟩

theorem State.swapPress_sets (s : State) (m : Side) :
    (s.attached m.other = true → s.SetsFeedback (s.swapPress m) 1) ∧ (s.attached m.other = false → s.SetsFeedback (s.swapPress m) 2) ∧
      (s.attached m.other = true → (s.context m.other).assist = true →
        s.SetsNarration (s.swapPress m) [.fragment (nameFragment m.other), .field .program]) := by
  have att : (s.noteInput m).attached m.other = s.attached m.other := State.attached_noteInput _ _ _
  have moves (h : s.attached m.other = true) :
      s.swapPress m = (((s.noteInput m).noteInput m.other).changeFocus m.other).setFeedback acceptPattern := if_pos (att.trans h)
  refine ⟨fun h => ?_, fun h => ?_, fun h ha => ?_⟩
  · rw [moves h]
    obtain ⟨entry, voice, patterns, now⟩ := ((s.noteInput m).noteInput m.other).changeFocus_feedback m.other
    generalize ((s.noteInput m).noteInput m.other).changeFocus m.other = x at entry voice patterns now
    obtain ⟨⟨uid, set⟩, voice0, pats, due⟩ := x.setFeedback_sets acceptPattern
    refine ⟨⟨uid, set.trans ?_⟩, voice0.trans voice, pats.trans patterns, due⟩
    rw [entry, State.superseded, now]
    rfl
  · have stays : s.swapPress m = (s.noteInput m).setFeedback rejectPattern := if_neg (by rw [att, h]; exact Bool.false_ne_true)
    rw [stays]
    exact (State.setFeedback_sets _ _).after rfl rfl rfl
  · rw [moves h]
    refine State.SetsNarration.feedback ?_ _
    refine (State.changeFocus_sets _ _ ?_).after rfl rfl rfl
    have other : (s.noteInput m).context m.other = s.context m.other :=
      (State.context_onCtx _ _ _ _).trans (if_neg (Side.other_ne m))
    show (State.context (State.onCtx _ _ _) _).assist = true
    rw [State.context_onCtx, if_pos rfl, other]
    exact ha

/-- ASSIST PRESS turns assist mode on with a spoken word or off with ACCEPT (R175). -/
theorem State.assistPress_sets (s : State) (m : Side) :
    ((s.context m).assist = true → s.SetsFeedback (s.keyAction m .assist .press) 1) ∧
      ((s.context m).assist = false → s.SetsNarration (s.keyAction m .assist .press) [.fragment 66]) := by
  unfold State.keyAction
  dsimp only
  refine ⟨fun h => ?_, fun h => ?_⟩
  · rw [if_neg (by rw [h]; exact Bool.false_ne_true)]
    exact (State.setFeedback_sets _ _).after rfl rfl rfl
  · rw [if_pos (by rw [h]; rfl)]
    exact (State.setNarration_sets _ _).after rfl rfl rfl

/-- The event of a detent, and when it is at an end stop (R174). -/
theorem detent_of {step action : Byte} (h : step = 1 ∨ step = 0xFF) : ∃ up, parseInputForce [0, step, action] = some (.detent up) ∧
    ∀ c : Context, (detentResult c up).2 = true ↔
      c.wrap = false ∧ ((step = 1 ∧ c.programs.length ≤ c.index + 1) ∨ (step = 0xFF ∧ c.index = 0)) := by
  rcases h with rfl | rfl
  · refine ⟨true, parseInputForce_detent true rfl, fun c => ?_⟩
    rw [detentResult_eq]
    simp [and_comm]
  · refine ⟨false, parseInputForce_detent false rfl, fun c => ?_⟩
    rw [detentResult_eq]
    simp [and_comm]

/-- The forced events that set a feedback cue, and which (R33, R174, R175). -/
theorem forced_setsFeedback (s : State) (m : Side) {cls step action : Byte} {q : Fin 32} :
    let c := s.context m
    let detent := cls = 0 ∧ (step = 1 ∨ step = 0xFF)
    let stop := c.wrap = false ∧ ((step = 1 ∧ c.programs.length ≤ c.index + 1) ∨ (step = 0xFF ∧ c.index = 0))
    let swap := cls = 5 ∧ action = 0
    (q = 0 ∧ detent ∧ ¬stop ∧ c.assist = false) ∨
      (q = 1 ∧ ((swap ∧ s.attached m.other = true) ∨ (cls = 6 ∧ action.toNat ≤ 1) ∨
        (cls = 7 ∧ action = 0 ∧ c.assist = true))) ∨
      (q = 2 ∧ ((detent ∧ stop) ∨ (swap ∧ s.attached m.other = false))) →
    ∃ e, parseInputForce [cls, step, action] = some e ∧ setsInputTime e = true ∧ s.SetsFeedback (s.localAction m e) q := by
  intro c detent stop swap h
  rcases h with ⟨rfl, ⟨rfl, hd⟩, hs, ha⟩ | ⟨rfl, ⟨⟨rfl, rfl⟩, hatt⟩ | ⟨rfl, ha⟩ | ⟨rfl, rfl, ha⟩⟩ | ⟨rfl, ⟨⟨rfl, hd⟩, hs⟩ | ⟨⟨rfl, rfl⟩, hatt⟩⟩
  · obtain ⟨up, parsed, ends⟩ := detent_of (action := action) hd
    exact ⟨_, parsed, rfl, (s.knobStep_sets m up).2.1 (Bool.eq_false_iff.2 fun k => hs ((ends c).1 k)) ha⟩
  · exact ⟨_, parseInputForce_event step (by decide) rfl rfl, rfl, (s.swapPress_sets m).1 hatt⟩
  · rcases (by omega : action.toNat = 0 ∨ action.toNat = 1) with e | e
    · exact ⟨.key .volume .press, parseInputForce_event step (by decide) rfl (by rw [e]; rfl), rfl, (State.setFeedback_sets _ _).after rfl rfl rfl⟩
    · exact ⟨.key .volume .long, parseInputForce_event step (by decide) rfl (by rw [e]; rfl), rfl, (State.setFeedback_sets _ _).after rfl rfl rfl⟩
  · exact ⟨_, parseInputForce_event step (by decide) rfl rfl, rfl, (s.assistPress_sets m).1 ha⟩
  · obtain ⟨up, parsed, ends⟩ := detent_of (action := action) hd
    exact ⟨_, parsed, rfl, (s.knobStep_sets m up).1 ((ends c).2 hs)⟩
  · exact ⟨_, parseInputForce_event step (by decide) rfl rfl, rfl, (s.swapPress_sets m).2.1 hatt⟩

/-- The forced events that set a narration, and which (R33, R174, R175). -/
theorem forced_setsNarration (s : State) (m : Side) {cls step action : Byte} {items : List PhraseItem} :
    let c := s.context m
    let detent := cls = 0 ∧ (step = 1 ∨ step = 0xFF)
    let stop := c.wrap = false ∧ ((step = 1 ∧ c.programs.length ≤ c.index + 1) ∨ (step = 0xFF ∧ c.index = 0))
    (items = [.field .program] ∧ detent ∧ ¬stop ∧ c.assist = true) ∨
      (items = [.fragment 66] ∧ cls = 7 ∧ action = 0 ∧ c.assist = false) ∨
      (items = [.fragment 67] ∧ cls = 7 ∧ action = 1) ∨
      (items = [.fragment (if m = .w then 65 else 64), .field .program] ∧ (cls = 5 ∧ action = 0) ∧ s.attached m.other = true ∧
        (s.context m.other).assist = true) →
    ∃ e, parseInputForce [cls, step, action] = some e ∧ setsInputTime e = true ∧ s.SetsNarration (s.localAction m e) items := by
  intro c detent stop h
  rcases h with ⟨rfl, ⟨rfl, hd⟩, hs, ha⟩ | ⟨rfl, rfl, rfl, ha⟩ | ⟨rfl, rfl, rfl⟩ | ⟨rfl, ⟨rfl, rfl⟩, hatt, ha⟩
  · obtain ⟨up, parsed, ends⟩ := detent_of (action := action) hd
    exact ⟨_, parsed, rfl, (s.knobStep_sets m up).2.2 (Bool.eq_false_iff.2 fun k => hs ((ends c).1 k)) ha⟩
  · exact ⟨_, parseInputForce_event step (by decide) rfl rfl, rfl, (s.assistPress_sets m).2 ha⟩
  · exact ⟨.key .assist .long, parseInputForce_event step (by decide) rfl rfl, rfl, (State.setNarration_sets _ _).after rfl rfl rfl⟩
  · refine ⟨_, parseInputForce_event step (by decide) rfl rfl, rfl, ?_⟩
    have name : nameFragment m.other = if m = .w then 65 else 64 := by cases m <;> rfl
    rw [← name]
    exact (s.swapPress_sets m).2.2 hatt ha

/-- Beside contexts, panel, links and display an event is its local action (R173). -/
theorem State.takeEvent_sound (hf : s.focus = some m) {e : PanelEvent} (he : setsInputTime e = true) :
    (s.takeEvent e).sched = ((s.noteInput m).localAction m e).sched ∧ (s.takeEvent e).tone = ((s.noteInput m).localAction m e).tone ∧
      (s.takeEvent e).store = ((s.noteInput m).localAction m e).store ∧ (s.takeEvent e).now = ((s.noteInput m).localAction m e).now := by
  have report (x : State) (k : InputClass) (r : InputContent) : (x.reportInput m k r).sched = x.sched ∧
      (x.reportInput m k r).tone = x.tone ∧ (x.reportInput m k r).store = x.store ∧ (x.reportInput m k r).now = x.now := by
    unfold State.reportInput
    split <;> exact ⟨rfl, rfl, rfl, rfl⟩
  have light (x : State) : x.backlightEvent e = x.panelInput := by
    cases e with
    | proximity => cases he
    | detent up => rfl
    | key k a => rfl
  rw [State.takeEvent_of_focus hf, if_pos he]
  generalize (s.noteInput m).localAction m e = y
  rw [light, State.panelInput_eq]
  exact report _ _ _

theorem State.noteInput_context (s : State) (m : Side) : (s.noteInput m).context m = { s.context m with lastInput := some s.now } ∧
    (s.noteInput m).context m.other = s.context m.other ∧ (s.noteInput m).attached m.other = s.attached m.other :=
  ⟨State.context_onCtx_same _ _ _, (State.context_onCtx _ _ _ _).trans (if_neg (Side.other_ne m)), State.attached_noteInput _ _ _⟩

/-- A forced event of the focus holder, or FORMAT: what is left beside contexts, panel, links and display. -/
theorem exec_inputForce_sound (h : s.ServesRequest m) (hf : s.focus = some m) (note : Bool) (cls step action : Byte) :
    ∃ u, exec (.inputForce m note [cls, step, action]) s = .next u ∧
      ∀ e, parseInputForce [cls, step, action] = some e → u.sched = (s.takeEvent e).settleArb.sched ∧
        u.utt = (s.takeEvent e).settleArb.utt ∧ u.tone = (s.takeEvent e).settleArb.tone ∧ u.focus = (s.takeEvent e).focus ∧
        u.ctx = (s.takeEvent e).ctx := by
  cases hp : parseInputForce [cls, step, action] with
  | none =>
    refine ⟨_, exec_request_format h .inputForce note rfl ?_, nofun⟩
    rw [State.handle, hp]
    rfl
  | some e =>
    obtain ⟨u, exec_eq, units, ⟨sched, utt, tone⟩, -⟩ := exec_request_units h .inputForce note rfl (by decide) (handle_inputForce hp hf)
    refine ⟨u, exec_eq, fun x hx => ?_⟩
    cases hx
    exact ⟨sched, utt, tone, units.focus, units.ctx⟩

theorem State.takeEvent_laws (law : s.ResourceLaws) (e : PanelEvent) : (s.takeEvent e).ResourceLaws :=
  (s.takeEvent_calms e).keeps (fun h => (State.Move.calm h).resourceLaws) law

/-- Settles O52: the event sets the entries as its local action says, and the arbitrations serve them. -/
theorem panelCuesFollowActions : Obligations.PanelCuesFollowActions := by
  unfold Obligations.PanelCuesFollowActions
  intro narrates
  refine ⟨fun s m note cls step action h hf => ?_, fun s m holder note h hf hatt hne hlast hassist => ?_⟩
  · intro c detent stop swap feedback narration
    obtain ⟨own, other, att⟩ := s.noteInput_context m
    obtain ⟨u, exec_eq, after⟩ := exec_inputForce_sound h hf note cls step action
    refine ⟨u, exec_eq, fun q p hq hp => ?_, fun items hi => ?_⟩
    · have sets := forced_setsFeedback (s.noteInput m) m (cls := cls) (step := step) (action := action) (q := q)
      rw [own, att] at sets
      obtain ⟨e, parsed, timed, set⟩ := sets hq
      obtain ⟨sched, -, tone, -, -⟩ := after e parsed
      obtain ⟨ySched, yTone, -, -⟩ := State.takeEvent_sound hf timed
      have set := (set.after (s := s) rfl rfl rfl).before ySched yTone
      refine ⟨fun law hcur hv => ?_, fun x hx hv => ?_⟩
      · obtain ⟨held, sounds, uid, k, played⟩ := set.plays (State.takeEvent_laws law e) sched tone hp hcur hv
        exact ⟨held, sounds, _, played, rfl, rfl, rfl, rfl, rfl, rfl⟩
      · obtain ⟨uid, waits⟩ := set.waits sched hx hv
        exact ⟨_, waits, rfl, rfl, rfl, rfl, rfl⟩
    · have sets := forced_setsNarration (s.noteInput m) m (cls := cls) (step := step) (action := action) (items := items)
      rw [own, other, att] at sets
      obtain ⟨e, parsed, timed, set⟩ := sets hi
      obtain ⟨sched, utt, -, focus, ctx⟩ := after e parsed
      obtain ⟨ySched, -, yStore, yNow⟩ := State.takeEvent_sound hf timed
      exact ((set.after (s := s) rfl rfl rfl).before ySched yStore yNow).narrates (fun law => State.takeEvent_laws law e) sched utt focus ctx
  · have handled : s.handle m .focusClaim [] = (.done [], s.changeFocus m) := by
      have claim : s.handle m .focusClaim [] = s.focusClaim m := rfl
      have free : s.claimable holder = true := by
        rw [State.claimable_eq, hlast]
        rfl
      rw [claim, State.focusClaim, hf]
      dsimp only
      rw [if_neg hne, if_pos free]
    obtain ⟨u, exec_eq, units, ⟨sched, utt, -⟩, -⟩ := exec_request_units h .focusClaim note (p := []) rfl (by decide) handled
    have set := s.changeFocus_sets m hassist
    have name : nameFragment m = if m = .w then 64 else 65 := by cases m <;> rfl
    rw [name] at set
    have law (k : s.ResourceLaws) : (s.changeFocus m).ResourceLaws :=
      (State.changeFocus_calms h.2.2).keeps (fun g => (State.Move.calm g).resourceLaws) k
    exact ⟨u, exec_eq, units.focus.trans (State.changeFocus_leaves _ _).2, set.narrates law sched utt units.focus units.ctx⟩

end Sys2Proof.Machine
end

section
/-! SUPPORT. The input sample class by class (R170 to R173): what each class leaves of the Input Unit, of the backlight, and of a part
that nobody's focus reaches. -/

namespace Sys2Proof.Machine

variable {s t x y : State} {m : Side} {before P : Panel} {detent : Option Bool} {n : Nat} {k : Key}

/-! ### One class of a sample -/

theorem State.takeClass_key (before : Panel) (detent : Option Bool) (x : State) (k : Key) : State.takeClass before detent x (keyClass k) =
    if (before.lines[keyLine k]).level = (x.panel.lines[keyLine k]).level then x
    else State.settleInput before (x.keyChange k (x.panel.lines[keyLine k]).level) := by
  cases k <;> rfl

theorem keyClass_injective {k j : Key} : keyClass k = keyClass j ↔ k = j := by cases k <;> cases j <;> decide

theorem keyTimer_injective {k j : Key} : keyTimer k = keyTimer j ↔ k = j := by cases k <;> cases j <;> decide

/-- The classes: the knob, the proximity line, and one for each key. -/
theorem inputClass_cases (c : InputClass) : c = .knob ∨ c = .proximity ∨ ∃ k, c = keyClass k := by
  cases c with
  | knob => exact .inl rfl
  | proximity => exact .inr (.inl rfl)
  | push => exact .inr (.inr ⟨.push, rfl⟩)
  | start => exact .inr (.inr ⟨.start, rfl⟩)
  | options => exact .inr (.inr ⟨.options, rfl⟩)
  | back => exact .inr (.inr ⟨.back, rfl⟩)
  | swap => exact .inr (.inr ⟨.swap, rfl⟩)
  | volume => exact .inr (.inr ⟨.volume, rfl⟩)
  | assist => exact .inr (.inr ⟨.assist, rfl⟩)

/-- A filtered change of a key's line is a timer and an event. -/
theorem State.keyChange_eq (x : State) (k : Key) (pressed : Bool) : x.keyChange k pressed =
    (x.setLongTimer k (if pressed then some (x.now + 1500000) else none)).takeEvent (.key k (if pressed then .press else .release)) := by
  cases pressed <;> rfl

/-- A class is taken as an event that is then settled as the sample lets it, or not at all. -/
theorem State.takeClass_cases (before : Panel) (detent : Option Bool) (x : State) (c : InputClass) :
    State.takeClass before detent x c = x ∨ ∃ z e, State.takeClass before detent x c = State.settleInput before (z.takeEvent e) ∧
      (z = x ∨ ∃ k t, z = x.setLongTimer k t) := by
  rcases inputClass_cases c with rfl | rfl | ⟨k, rfl⟩
  · cases detent with
    | none => exact .inl rfl
    | some up => exact .inr ⟨x, _, rfl, .inl rfl⟩
  · by_cases h : before.proximityRises x.panel = true
    · exact .inr ⟨x, _, if_pos h, .inl rfl⟩
    · exact .inl (if_neg h)
  · rw [State.takeClass_key]
    split
    · exact .inl rfl
    · rw [State.keyChange_eq]
      exact .inr ⟨_, _, rfl, .inr ⟨k, _, rfl⟩⟩

theorem State.settleInput_units (before : Panel) (y : State) : y.SameUnits (State.settleInput before y) := by
  unfold State.settleInput
  split
  · exact (y.txChoose_units .w).trans (State.txChoose_units _ .d)
  · exact y.settle_units

/-! ### The backlight (R169) -/

theorem State.takeEvent_full (z : State) (e : PanelEvent) : (z.takeEvent e).display.backlight = .full := by
  have light (y : State) : (y.backlightEvent e).display.backlight = .full := by
    have input (y : State) : y.panelInput.display.backlight = .full := by
      rw [State.panelInput_eq]
      rfl
    cases e with
    | proximity =>
      show y.proximityInput.display.backlight = .full
      unfold State.proximityInput
      split <;> exact input _
    | detent up => exact input y
    | key k a => exact input y
  unfold State.takeEvent
  split <;> exact light _

theorem State.settle_full (h : y.display.backlight = .full) : y.settle.display.backlight = .full := by
  obtain ⟨st, L, eq, -⟩ := y.settle_eq
  rw [eq]
  exact State.settleArb_full h

theorem State.settleInput_full (before : Panel) (h : y.display.backlight = .full) :
    (State.settleInput before y).display.backlight = .full := by
  unfold State.settleInput
  split
  · obtain ⟨l, hl, -⟩ := y.txChoose_eq .w
    obtain ⟨j, hj, -⟩ := (y.txChoose .w).txChoose_eq .d
    rw [hj, hl]
    exact h
  · exact State.settle_full h

theorem State.takeClass_full (before : Panel) (detent : Option Bool) (c : InputClass) (h : x.display.backlight = .full) :
    (State.takeClass before detent x c).display.backlight = .full := by
  rcases State.takeClass_cases before detent x c with e | ⟨z, e, eq, -⟩
  · rw [e]
    exact h
  · rw [eq]
    exact State.settleInput_full _ (z.takeEvent_full e)

/-! ### The Input Unit (R170 to R172) -/

theorem State.localAction_now (s : State) (m : Side) (e : PanelEvent) : (s.localAction m e).now = s.now := by
  have focus (z : State) (m : Side) : (z.changeFocus m).now = z.now := (z.changeFocus_feedback m).2.2.2
  have feedback (z : State) (q : Fin 32) : (z.setFeedback q).now = z.now := (z.setFeedback_frame q).now
  have narration (z : State) (l : List PhraseItem) : (z.setNarration l).now = z.now := (z.setNarration_frame l).now
  cases e with
  | proximity => rfl
  | detent up =>
    simp only [State.localAction, State.knobStep]
    repeat' split
    all_goals first
      | exact feedback _ _
      | exact narration _ _
  | key k a =>
    simp only [State.localAction]
    unfold State.keyAction
    split
    next =>
      unfold State.swapPress
      dsimp only
      split
      · exact (feedback _ _).trans (focus _ _)
      · exact feedback _ _
    next => exact feedback _ _
    next => exact feedback _ _
    next =>
      dsimp only
      split
      · exact narration _ _
      · exact feedback _ _
    next => exact narration _ _
    next => rfl

theorem State.takeEvent_now (s : State) (e : PanelEvent) : (s.takeEvent e).now = s.now := by
  have light (y : State) : (y.backlightEvent e).now = y.now := (y.backlightEvent_turns e).outside.now
  have report (y : State) (m : Side) (c : InputClass) (r : InputContent) : (y.reportInput m c r).now = y.now := by
    unfold State.reportInput
    split <;> rfl
  cases hf : s.focus with
  | none =>
    have event : s.takeEvent e = s.backlightEvent e := by rw [State.takeEvent, hf]
    rw [event, light]
  | some m =>
    rw [State.takeEvent_of_focus hf, light, report]
    show (State.localAction _ m e).now = _
    rw [State.localAction_now]
    split <;> rfl

/-- The Input Unit is `P` but for summaries and long-press timers, and it is the moment `n`. -/
structure State.SampleOf (P : Panel) (n : Nat) (x : State) : Prop where
  panel : x.panel = { P with longTimers := x.panel.longTimers, summary := x.panel.summary }
  now : x.now = n

theorem State.SampleOf.lines (h : State.SampleOf P n x) : x.panel.lines = P.lines := by rw [h.panel]

/-- An event of a sample, as it is settled, leaves the Input Unit but for the summaries. -/
theorem State.SampleOf.event (h : State.SampleOf P n x) (e : PanelEvent) :
    State.SampleOf P n (State.settleInput before (x.takeEvent e)) ∧
      (State.settleInput before (x.takeEvent e)).panel.longTimers = x.panel.longTimers := by
  have units := State.settleInput_units before (x.takeEvent e)
  have panel := units.panel.trans (x.takeEvent_panel e)
  have timers : (State.settleInput before (x.takeEvent e)).panel.longTimers = x.panel.longTimers := by rw [panel]
  refine ⟨⟨?_, units.now.trans ((x.takeEvent_now e).trans h.now)⟩, timers⟩
  rw [timers, units.panel, x.takeEvent_panel e, h.panel]

/-- The long-press timer that a filtered change of a key's line leaves (R172). -/
def timerOf (pressed : Bool) (n : Nat) : Option Nat := if pressed then some (n + 1500000) else none

/-- What a class of a sample leaves of the Input Unit: the timer of a key whose line changed is started or stopped. -/
theorem State.SampleOf.takeClass (h : State.SampleOf P n x) (before : Panel) (detent : Option Bool) (c : InputClass) :
    State.SampleOf P n (State.takeClass before detent x c) ∧ ∀ k, (State.takeClass before detent x c).panel.longTimers[keyTimer k] =
      if c = keyClass k ∧ (before.lines[keyLine k]).level ≠ (P.lines[keyLine k]).level then timerOf (P.lines[keyLine k]).level n
      else x.panel.longTimers[keyTimer k] := by
  have other (hc : ∀ k, c ≠ keyClass k) (hs : State.SampleOf P n (State.takeClass before detent x c) ∧
      (State.takeClass before detent x c).panel.longTimers = x.panel.longTimers) :
      State.SampleOf P n (State.takeClass before detent x c) ∧ ∀ k, (State.takeClass before detent x c).panel.longTimers[keyTimer k] =
        if c = keyClass k ∧ (before.lines[keyLine k]).level ≠ (P.lines[keyLine k]).level then timerOf (P.lines[keyLine k]).level n
        else x.panel.longTimers[keyTimer k] :=
    ⟨hs.1, fun k => by rw [if_neg fun e => hc k e.1, hs.2]⟩
  rcases inputClass_cases c with rfl | rfl | ⟨j, rfl⟩
  · refine other (fun k => by cases k <;> exact nofun) ?_
    cases detent with
    | none => exact ⟨h, rfl⟩
    | some up => exact h.event (.detent up)
  · refine other (fun k => by cases k <;> exact nofun) ?_
    by_cases hr : before.proximityRises x.panel = true
    · rw [show State.takeClass before detent x .proximity = _ from if_pos hr]
      exact h.event .proximity
    · rw [show State.takeClass before detent x .proximity = _ from if_neg hr]
      exact ⟨h, rfl⟩
  · rw [State.takeClass_key, h.lines]
    by_cases e : (before.lines[keyLine j]).level = (P.lines[keyLine j]).level
    · rw [if_pos e]
      refine ⟨h, fun k => (if_neg fun g => g.2 ?_).symm⟩
      rw [← keyClass_injective.1 g.1]
      exact e
    · rw [if_neg e, State.keyChange_eq, h.now]
      have timed : State.SampleOf P n (x.setLongTimer j (timerOf (P.lines[keyLine j]).level n)) :=
        ⟨congrArg (fun p : Panel => { p with longTimers := x.panel.longTimers.set (keyTimer j) (timerOf (P.lines[keyLine j]).level n) })
          h.panel, h.now⟩
      obtain ⟨sample, timers⟩ := timed.event (before := before) (.key j (if (P.lines[keyLine j]).level then .press else .release))
      refine ⟨sample, fun k => (congrArg (·[keyTimer k]) timers).trans ((Vector.getElem_set_fin _ _ _ _).trans ?_)⟩
      by_cases hk : j = k
      · subst hk
        rw [if_pos rfl, if_pos ⟨rfl, e⟩]
      · rw [if_neg fun g => hk (keyTimer_injective.1 g).symm, if_neg fun g => hk (keyClass_injective.1 g.1)]

/-! ### A whole sample -/

theorem State.SampleOf.classes (h : State.SampleOf P n x) (before : Panel) (detent : Option Bool) (l : List InputClass) :
    State.SampleOf P n (l.foldl (State.takeClass before detent) x) ∧
      ∀ k, (l.foldl (State.takeClass before detent) x).panel.longTimers[keyTimer k] =
        if keyClass k ∈ l ∧ (before.lines[keyLine k]).level ≠ (P.lines[keyLine k]).level then timerOf (P.lines[keyLine k]).level n
        else x.panel.longTimers[keyTimer k] := by
  induction l generalizing x with
  | nil => exact ⟨h, fun k => (if_neg fun g => nomatch g.1).symm⟩
  | cons c l ih =>
    obtain ⟨first, timer⟩ := h.takeClass before detent c
    obtain ⟨sample, timers⟩ := ih first
    refine ⟨sample, fun k => (timers k).trans ?_⟩
    rw [timer k]
    by_cases moved : (before.lines[keyLine k]).level ≠ (P.lines[keyLine k]).level
    · by_cases later : keyClass k ∈ l
      · rw [if_pos ⟨later, moved⟩, if_pos ⟨by simp [later], moved⟩]
      · rw [if_neg fun g => later g.1]
        by_cases now : c = keyClass k
        · rw [if_pos ⟨now, moved⟩, if_pos ⟨by simp [now], moved⟩]
        · rw [if_neg fun g => now g.1, if_neg fun g => ?_]
          exact (List.mem_cons.1 g.1).elim (fun e => now e.symm) later
    · rw [if_neg fun g => moved g.2, if_neg fun g => moved g.2, if_neg fun g => moved g.2]

theorem mem_eventOrder (order : List InputClass) (c : InputClass) : c ∈ eventOrder order := by
  unfold eventOrder
  by_cases h : c ∈ order
  · exact List.mem_append_left _ (List.mem_eraseDups.2 h)
  · refine List.mem_append_right _ (List.mem_filter.2 ⟨?_, by simp [h]⟩)
    cases c <;> decide

/-- Where nothing of a class has moved nothing is taken. -/
theorem State.takeClass_unmoved {c : InputClass} (hl : x.panel.lines = P.lines) (hd : c = .knob → detent = none)
    (hp : c = .proximity → before.proximityRises P = false)
    (hk : ∀ k, c = keyClass k → (before.lines[keyLine k]).level = (P.lines[keyLine k]).level) :
    State.takeClass before detent x c = x := by
  rcases inputClass_cases c with rfl | rfl | ⟨k, rfl⟩
  · rw [hd rfl]
    rfl
  · have still : before.proximityRises x.panel = false := by
      unfold Panel.proximityRises
      rw [hl]
      exact hp rfl
    exact if_neg (by rw [still]; exact Bool.false_ne_true)
  · rw [State.takeClass_key, hl]
    exact if_pos (hk k rfl)

/-- A moved key line and a proximity edge light the backlight (R169). -/
theorem State.takeClass_lights {c : InputClass} (hl : x.panel.lines = P.lines)
    (h : (c = .proximity ∧ before.proximityRises P = true) ∨
      ∃ k, c = keyClass k ∧ (before.lines[keyLine k]).level ≠ (P.lines[keyLine k]).level) :
    (State.takeClass before detent x c).display.backlight = .full := by
  rcases h with ⟨rfl, hr⟩ | ⟨k, rfl, moved⟩
  · have rises : before.proximityRises x.panel = true := by
      unfold Panel.proximityRises
      rw [hl]
      exact hr
    rw [show State.takeClass before detent x .proximity = _ from if_pos rises]
    exact State.settleInput_full _ (x.takeEvent_full _)
  · rw [State.takeClass_key, hl, if_neg moved, State.keyChange_eq]
    exact State.settleInput_full _ (State.takeEvent_full _ _)

theorem State.SampleOf.lights (h : State.SampleOf P n x) {c : InputClass} {l : List InputClass} (hc : c ∈ l)
    (hm : (c = .proximity ∧ before.proximityRises P = true) ∨
      ∃ k, c = keyClass k ∧ (before.lines[keyLine k]).level ≠ (P.lines[keyLine k]).level) :
    (l.foldl (State.takeClass before detent) x).display.backlight = .full := by
  have stays (l : List InputClass) (y : State) (hy : y.display.backlight = .full) :
      (l.foldl (State.takeClass before detent) y).display.backlight = .full := by
    induction l generalizing y with
    | nil => exact hy
    | cons b l ih => exact ih _ (State.takeClass_full before detent b hy)
  obtain ⟨l₁, l₂, rfl⟩ := List.append_of_mem hc
  rw [List.foldl_append, List.foldl_cons]
  exact stays l₂ _ (State.takeClass_lights (h.classes before detent l₁).1.lines hm)

/-- Nothing is handed to a machine while nobody holds focus (R173). -/
structure State.Unfocused (s x : State) : Prop where
  focus : x.focus = none
  ctx : x.ctx = s.ctx
  summary : x.panel.summary = s.panel.summary
  inputs : ∀ m, (x.link m).inputs = (s.link m).inputs

theorem State.Unfocused.units (h : s.Unfocused x) (g : x.SameUnits y) : s.Unfocused y :=
  ⟨g.focus.trans h.focus, g.ctx.trans h.ctx, (congrArg (·.summary) g.panel).trans h.summary, fun m => (g.inputs m).trans (h.inputs m)⟩

theorem State.Unfocused.takeClass (h : s.Unfocused x) (before : Panel) (detent : Option Bool) (c : InputClass) :
    s.Unfocused (State.takeClass before detent x c) := by
  rcases State.takeClass_cases before detent x c with e | ⟨z, e, eq, hz⟩
  · rw [e]
    exact h
  · rw [eq]
    have timed : s.Unfocused z := by
      rcases hz with rfl | ⟨k, t, rfl⟩
      · exact h
      · exact ⟨h.focus, h.ctx, h.summary, h.inputs⟩
    have event : z.takeEvent e = z.backlightEvent e := by rw [State.takeEvent, timed.focus]
    rw [event]
    exact timed.units ((z.backlightEvent_turns e).outside.units.trans (State.settleInput_units _ _))

theorem State.Unfocused.classes (h : s.Unfocused x) (before : Panel) (detent : Option Bool) (l : List InputClass) :
    s.Unfocused (l.foldl (State.takeClass before detent) x) := by
  induction l generalizing x with
  | nil => exact h
  | cons c l ih => exact ih (h.takeClass before detent c)

/-! ### The encoder (R171) -/

theorem Panel.encoderStep_fst (p : Panel) (a b : Bool) : let count := countEdge p.edgeCount (encoderEdge p.refA p.refB a b)
    (p.encoderStep a b).1 = { p with
      refA := a, refB := b, edgeCount := if p.edgesPerDetent ≤ count.natAbs ∧ count ≠ 0 then 0 else count } := by
  intro count
  unfold Panel.encoderStep
  dsimp only
  by_cases h : p.edgesPerDetent ≤ count.natAbs ∧ count ≠ 0
  · rw [if_pos (by exact h), if_pos h]
  · rw [if_neg (by exact h), if_neg h]

theorem Panel.afterSample_lines (p : Panel) (levels : BitVec 10) : (p.afterSample levels).1.lines = (p.sampleLines levels).lines ∧
    (p.afterSample levels).1.longTimers = p.longTimers ∧ (p.afterSample levels).1.summary = p.summary ∧
    (p.afterSample levels).1.sampled = p.sampled := by
  unfold Panel.afterSample
  dsimp only
  split
  · rw [Panel.encoderStep_fst]
    exact ⟨rfl, rfl, rfl, rfl⟩
  · exact ⟨rfl, rfl, rfl, rfl⟩

end Sys2Proof.Machine
end

section
/-! SUPPORT. A VOLUME PRESS with a proximity edge of the same sample (R169), and a long-press expiry (R172). -/

namespace Sys2Proof.Machine

variable {s t x y : State} {m : Side} {before P : Panel} {detent : Option Bool} {n : Nat} {k : Key}

/-! ### The order of a sample's events (log 5) -/

theorem nodup_eraseDups (l : List InputClass) : l.eraseDups.Nodup := by
  induction h : l.length using Nat.strong_induction_on generalizing l with
  | _ n ih =>
    cases l with
    | nil => exact List.nodup_nil
    | cons a l =>
      rw [List.eraseDups_cons]
      have shorter : (l.filter fun b => !b == a).length < n := by
        have := List.length_filter_le (fun b => !b == a) l
        simp only [List.length_cons] at h
        omega
      refine List.nodup_cons.2 ⟨fun hm => ?_, ih _ shorter _ rfl⟩
      have := (List.mem_filter.1 (List.mem_eraseDups.1 hm)).2
      simp at this

theorem nodup_eventOrder (order : List InputClass) : (eventOrder order).Nodup := by
  unfold eventOrder
  refine List.nodup_append.2 ⟨nodup_eraseDups order, List.Nodup.filter _ (by decide), fun a ha b hb => ?_⟩
  rintro rfl
  have := (List.mem_filter.1 hb).2
  simp [List.mem_eraseDups.1 ha] at this

/-- Of two classes the order gives either one first. -/
theorem eventOrder_pair (order : List InputClass) {a b : InputClass} (h : a ≠ b) :
    (eventOrder order).filter (fun c => c = a ∨ c = b) = [a, b] ∨ (eventOrder order).filter (fun c => c = a ∨ c = b) = [b, a] := by
  obtain ⟨l, hl⟩ : ∃ l, l = (eventOrder order).filter fun c => c = a ∨ c = b := ⟨_, rfl⟩
  have mem (c : InputClass) : c ∈ l ↔ c = a ∨ c = b := by simp [hl, mem_eventOrder]
  have nodup : l.Nodup := hl ▸ (nodup_eventOrder order).filter _
  have perm : l.Perm [a, b] := (List.perm_ext_iff_of_nodup nodup (by simp [h])).2 fun c => by simp [mem]
  rw [← hl]
  obtain ⟨c, d, rfl⟩ := List.length_eq_two.1 perm.length_eq
  have ne : c ≠ d := by simpa using nodup
  rcases (mem c).1 (by simp) with rfl | rfl <;> rcases (mem d).1 (by simp) with rfl | rfl
  · exact absurd rfl ne
  · exact .inl rfl
  · exact .inr rfl
  · exact absurd rfl ne

/-- The classes of which nothing has moved can be left out. -/
theorem State.SampleOf.acting (h : State.SampleOf P n x) (act : InputClass → Bool)
    (still : ∀ c (y : State), act c = false → y.panel.lines = P.lines → State.takeClass before detent y c = y) (l : List InputClass) :
    l.foldl (State.takeClass before detent) x = (l.filter act).foldl (State.takeClass before detent) x := by
  induction l generalizing x with
  | nil => rfl
  | cons c l ih =>
    cases ha : act c with
    | true =>
      rw [List.filter_cons_of_pos ha, List.foldl_cons, List.foldl_cons]
      exact ih (h.takeClass before detent c).1
    | false =>
      rw [List.filter_cons_of_neg (by rw [ha]; exact Bool.false_ne_true), List.foldl_cons, still c x ha h.lines]
      exact ih h

/-! ### ACCEPT and WAKE of one sample (R169) -/

/-- A part of whose focus holder an ACCEPT would play at once. -/
structure State.TakesAccept (p : Pattern) (x : State) : Prop where
  laws : x.ResourceLaws
  focus : ∃ h, x.focus = some h
  current : x.sched.feedback.current = none
  voice0 : (x.sched.voices[(0 : Fin 4)]).holder = none
  pattern : x.tone.patterns[(1 : Fin 32)] = some p

/-- A part that plays ACCEPT, with a bright backlight and nothing to arbitrate. -/
structure State.PlaysAccept (x : State) : Prop where
  focus : ∃ h, x.focus = some h
  entry : ∃ uid start, x.sched.feedback = ⟨none, some (feedbackPlaying uid 1 start)⟩
  light : x.display.backlight = .full
  done : x.sched.arbDue = false

theorem State.settle_tone (s : State) : s.settle.tone = s.settleArb.tone := by
  obtain ⟨st, L, e, -⟩ := s.settle_eq
  rw [e]

/-- A VOLUME PRESS plays ACCEPT. -/
theorem State.TakesAccept.volume {p : Pattern} (h : x.TakesAccept p) (hl : x.panel.lines = P.lines)
    (moved : (before.lines[(7 : Fin 10)]).level ≠ (P.lines[(7 : Fin 10)]).level) (pressed : (P.lines[(7 : Fin 10)]).level = true) :
    (State.takeClass before detent x .volume).PlaysAccept := by
  obtain ⟨laws, ⟨m, hm⟩, current, voice0, pattern⟩ := h
  obtain ⟨z, hz⟩ : ∃ z, z = x.setLongTimer .volume (some (x.now + 1500000)) := ⟨_, rfl⟩
  obtain ⟨w, hw⟩ : ∃ w, w = z.takeEvent (.key .volume .press) := ⟨_, rfl⟩
  have take : State.takeClass before detent x .volume = State.settleInput before w := by
    refine (State.takeClass_key before detent x .volume).trans ?_
    rw [hl]
    refine (if_neg moved).trans ?_
    rw [show (P.lines[keyLine .volume]).level = true from pressed, State.keyChange_eq, hw, hz]
    rfl
  have focus : z.focus = some m := by rw [hz]; exact hm
  obtain ⟨sched, tone, -, -⟩ := State.takeEvent_sound focus (e := .key .volume .press) rfl
  have set : z.SetsFeedback w 1 := by
    rw [hw]
    exact (State.SetsFeedback.after (s := z)
      (State.setFeedback_sets (((z.noteInput m).onCtx m fun c => { c with volume := volumeStep c }).markProfile m) 1)
      rfl rfl rfl).before sched tone
  have awake : w.wakePending = false := by
    obtain ⟨uid, entry⟩ := set.entry
    simp [State.wakePending, entry, feedbackCue, panelCue, wakePattern]
  have settled : State.settleInput before w = w.settle := by
    unfold State.settleInput
    rw [awake, Bool.and_false]
    exact if_neg Bool.false_ne_true
  have wlaws : w.ResourceLaws := by
    rw [hw]
    refine State.takeEvent_laws ?_ _
    rw [hz]
    exact laws
  obtain ⟨-, -, uid, start, played⟩ := set.plays (u := w.settle) wlaws w.settle_sched w.settle_tone (p := p) (by rw [hz]; exact pattern)
    (by rw [hz]; exact current) (by rw [hz]; exact voice0)
  rw [take, settled]
  refine ⟨⟨m, ?_⟩, ⟨uid, start, played⟩, State.settle_full (by rw [hw]; exact z.takeEvent_full _), ?_⟩
  · have leaves := (State.takeEvent_leaves focus (e := .key .volume .press) rfl rfl).2.1
    rw [w.settle_units.focus, hw, leaves]
    refine (State.setFeedback_leaves (((z.noteInput m).onCtx m fun c => { c with volume := volumeStep c }).markProfile m) 1).2.1.trans focus
  · rw [w.settle_sched]
    exact w.settleArb_arbDue

/-- A proximity edge on a bright backlight leaves the cues alone. -/
theorem State.takeProximity_full (hm : x.focus = some m) (hf : x.display.backlight = .full) (hw : x.wakePending = false)
    (hd : x.sched.arbDue = false) : (State.takeClass before detent x .proximity).sched = x.sched ∧
      (State.takeClass before detent x .proximity).tone = x.tone := by
  by_cases rises : before.proximityRises x.panel = true
  · have event : (x.takeEvent .proximity).sched = x.sched ∧ (x.takeEvent .proximity).tone = x.tone := by
      rw [State.takeEvent_proximity hm, State.proximityInput]
      dsimp only
      rw [hf]
      dsimp only
      rw [State.panelInput_eq]
      exact ⟨rfl, rfl⟩
    rw [show State.takeClass before detent x .proximity = _ from if_pos rises, State.settleInput]
    generalize x.takeEvent .proximity = y at event
    obtain ⟨sched, tone⟩ := event
    have awake : y.wakePending = false := by
      unfold State.wakePending
      rw [sched]
      exact hw
    rw [awake, Bool.and_false, if_neg Bool.false_ne_true, y.settle_sched, y.settle_tone,
      State.settleArb_of_not_due _ (by rw [sched]; exact hd)]
    exact ⟨sched, tone⟩
  · rw [show State.takeClass before detent x .proximity = _ from if_neg rises]
    exact ⟨rfl, rfl⟩

theorem State.SetsFeedback.panelInput {q : Fin 32} (h : s.SetsFeedback x q) : s.SetsFeedback x.panelInput q := by
  rw [State.panelInput_eq]
  exact h.before rfl rfl

/-- A proximity edge leaves the part ready for the ACCEPT of its sample: a WAKE it sets waits (R169). -/
theorem State.TakesAccept.proximity {p : Pattern} (h : x.TakesAccept p) (hp : x.sched.feedback.pending = none) (hd : x.sched.arbDue = false) :
    (State.takeClass before detent x .proximity).TakesAccept p := by
  have laws := (State.takeClass_moves before detent x .proximity).keeps (fun g => g.resourceLaws) h.laws
  obtain ⟨-, ⟨m, hm⟩, current, voice0, pattern⟩ := h
  have units : (State.takeClass before detent x .proximity).focus = some m := by
    by_cases rises : before.proximityRises x.panel = true
    · rw [show State.takeClass before detent x .proximity = _ from if_pos rises, (State.settleInput_units _ _).focus,
        State.takeEvent_proximity hm]
      unfold State.proximityInput
      split
      · rw [State.panelInput_eq]
        exact (State.setFeedback_leaves _ _).2.1.trans hm
      · rw [State.panelInput_eq]
        exact hm
    · rw [show State.takeClass before detent x .proximity = _ from if_neg rises]
      exact hm
  suffices rest : (State.takeClass before detent x .proximity).sched.feedback.current = none ∧
      ((State.takeClass before detent x .proximity).sched.voices[(0 : Fin 4)]).holder = none ∧
      (State.takeClass before detent x .proximity).tone.patterns[(1 : Fin 32)] = some p from
    ⟨laws, ⟨m, units⟩, rest.1, rest.2.1, rest.2.2⟩
  cases light : x.display.backlight with
  | full =>
    obtain ⟨sched, tone⟩ := State.takeProximity_full (before := before) (detent := detent) hm light (by simp [State.wakePending, hp]) hd
    rw [sched, tone]
    exact ⟨current, voice0, pattern⟩
  | dimmed =>
    by_cases rises : before.proximityRises x.panel = true
    · obtain ⟨w, hw⟩ : ∃ w, w = x.takeEvent .proximity := ⟨_, rfl⟩
      have set : x.SetsFeedback w 6 := by
        obtain ⟨z, event, sched, tone, now, display⟩ : ∃ z : State, x.takeEvent .proximity = z.proximityInput ∧ z.sched = x.sched ∧
            z.tone = x.tone ∧ z.now = x.now ∧ z.display = x.display := ⟨_, State.takeEvent_proximity hm, rfl, rfl, rfl, rfl⟩
        rw [State.proximityInput, display, light] at event
        rw [hw, event]
        exact ((State.setFeedback_sets z wakePattern).after sched tone now).panelInput
      have panel : w.panel.lines = x.panel.lines := by rw [hw]; exact x.takeEvent_lines _
      obtain ⟨⟨uid, entry⟩, voice, patterns, -⟩ := set
      have waits : State.settleInput before w = (w.txChoose .w).txChoose .d := by
        refine if_pos ?_
        have still : before.proximityRises w.panel = true := by
          unfold Panel.proximityRises
          rw [panel]
          exact rises
        rw [still, State.wakePending, entry]
        rfl
      obtain ⟨l, hl, -⟩ := w.txChoose_eq .w
      obtain ⟨j, hj, -⟩ := (w.txChoose .w).txChoose_eq .d
      rw [show State.takeClass before detent x .proximity = _ from if_pos rises, ← hw, waits, hj, hl]
      refine ⟨(congrArg (·.current) entry).trans ?_, voice.trans voice0, (congrArg (·[(1 : Fin 32)]) patterns).trans pattern⟩
      rw [current]
      rfl
    · rw [show State.takeClass before detent x .proximity = _ from if_neg rises]
      exact ⟨current, voice0, pattern⟩

/-- In either order the sample leaves ACCEPT playing. -/
theorem State.SampleOf.accepts {p : Pattern} (h : State.SampleOf P n x) (ready : x.TakesAccept p) (hp : x.sched.feedback.pending = none)
    (hd : x.sched.arbDue = false) (moved : (before.lines[(7 : Fin 10)]).level ≠ (P.lines[(7 : Fin 10)]).level)
    (pressed : (P.lines[(7 : Fin 10)]).level = true) {l : List InputClass} (hl : l = [.volume, .proximity] ∨ l = [.proximity, .volume]) :
    ∃ uid start, (l.foldl (State.takeClass before detent) x).sched.feedback = ⟨none, some (feedbackPlaying uid 1 start)⟩ ∧
      (l.foldl (State.takeClass before detent) x).sched.arbDue = false := by
  rcases hl with rfl | rfl
  · obtain ⟨⟨m, hm⟩, ⟨uid, start, entry⟩, light, done⟩ := ready.volume (detent := detent) h.lines moved pressed
    obtain ⟨sched, -⟩ := State.takeProximity_full (before := before) (detent := detent) hm light (by simp [State.wakePending, entry]) done
    refine ⟨uid, start, ?_⟩
    rw [List.foldl_cons, List.foldl_cons, List.foldl_nil, sched]
    exact ⟨entry, done⟩
  · obtain ⟨-, ⟨uid, start, entry⟩, -, done⟩ := (ready.proximity (before := before) (detent := detent) hp hd).volume (detent := detent)
      (h.takeClass before detent .proximity).1.lines moved pressed
    exact ⟨uid, start, entry, done⟩

/-! ### A long press (R172, R173) -/

/-- A link at rest takes an INPUT report up: an IDLE transmitter begins it (R15). -/
theorem State.txChoose_input {l : Link} {r : InputReport} {n : Nat} (hrest : l.atRest)
    (hl : s.link m = { l with inputs := l.inputs ++ [r], nextOrder := n }) : s.txChoose m = s.onLink m fun l => l.sends (.input r) := by
  cases ht : (s.link m).tx with
  | sending f =>
    have hself : (s.link m).sends (.input r) = s.link m := by
      generalize s.link m = k at ht
      cases k
      simp_all [Link.sends]
    have hstay : s.txChoose m = s := by
      unfold State.txChoose
      rw [ht]
    rw [hstay]
    exact (s.onLink_self m).symm.trans (State.onLink_congr s m hself.symm)
  | idle =>
    have htx : l.tx = .idle := by rw [hl] at ht; exact ht
    obtain ⟨hreply, havail⟩ := hrest htx
    obtain ⟨hd, hi, hf, hp, hft⟩ := (Link.available_eq_nil_iff l).1 havail
    have hav : (s.link m).available = [(r.order, .input r)] := by rw [hl]; simp [Link.available, hd, hi, hf, hp, hft]
    have hr : (s.link m).reply = none := by rw [hl]; exact hreply
    have choice : s.txChoose m = s.beginReport m (.input r) := by
      unfold State.txChoose
      simp [ht, hr, hav, earliest]
    rw [choice]
    exact State.onLink_congr s m (by simp [Link.sends, ht])

/-- A link after an INPUT report is offered to it and its transmitter has chosen (R13, R15, R177). -/
def Link.takesInput (l : Link) (masked : Bool) (c : InputContent) : Link :=
  let r : InputReport := { order := l.nextOrder, content := c }
  if masked = false then l
  else if l.inputs.length < 16 then { l.sends (.input r) with inputs := l.inputs ++ [r], nextOrder := l.nextOrder + 1 }
  else { l with fault := true, causes := { l.causes with reportDrop := true } }

/-- With nothing else to settle, the transmitter of a link that was offered a report begins it. -/
theorem State.settle_reported {b : Bool} {c : InputContent} (hs : s.Settled) (hsched : t.sched = s.sched) (hstore : t.store = s.store)
    (hstream : t.stream = s.stream) (hl : t.links = s.links.modify m fun l => l.reported b c) :
    t.settle = { t with links := s.links.modify m fun l => l.takesInput b c } := by
  have own : t.link m = (s.link m).reported b c := by
    show t.links.get m = _
    rw [hl, PerSide.get_modify_same]
    rfl
  have rest : t.SettledBut m := by
    have quiet := hs.link m.other
    obtain ⟨due, check, port, -⟩ := hs
    refine ⟨by rw [hsched]; exact due, ?_, ?_, ?_⟩
    · unfold State.checkCanBegin
      rw [hsched, hstore]
      exact check
    · unfold State.eligibleS State.eligibleG
      rw [hstore, hstream]
      exact port
    · rw [State.link_modify_other hl]
      exact quiet
  have result : ∃ f : Link → Link, t.txChoose m = t.onLink m f ∧ f (t.link m) = (s.link m).takesInput b c := by
    have atRest := hs.link m
    unfold Link.reported at own
    unfold Link.takesInput
    dsimp only
    by_cases hb : b = false
    · rw [if_pos hb] at own ⊢
      exact ⟨id, (State.txChoose_of_rest _ m (by rw [own]; exact atRest)).trans (t.onLink_self m).symm, own⟩
    · rw [if_neg hb] at own ⊢
      by_cases hn : (s.link m).inputs.length < 16
      · rw [if_pos hn] at own ⊢
        refine ⟨_, State.txChoose_input atRest own, ?_⟩
        rw [own]
        rfl
      · rw [if_neg hn] at own ⊢
        refine ⟨id, (State.txChoose_of_rest _ m ?_).trans (t.onLink_self m).symm, own⟩
        rw [own]
        exact atRest
  obtain ⟨f, chosen, link⟩ := result
  rw [rest.settle, chosen]
  have links : t.links.modify m f = s.links.modify m fun l => l.takesInput b c := by
    have mine : f (t.links.get m) = (s.links.get m).takesInput b c := link
    rw [hl] at mine ⊢
    rw [PerSide.get_modify_same] at mine
    rw [PerSide.modify_modify]
    exact congrArg (s.links.set m) mine
  exact congrArg (fun L => { t with links := L }) links

theorem exec_longPressExpiry_up (h : s.resetHeld = false) (k : Key) :
    exec (.longPressExpiry k) s = .next (s.longPressExpiry k).settle := running_of_up h fun s => (s.longPressExpiry k).settle

theorem exec_inputSample_up (h : s.resetHeld = false) (levels : BitVec 10) (order : List InputClass) :
    exec (.inputSample levels order) s = .next (s.inputSample levels order) := running_of_up h fun s => s.inputSample levels order

theorem State.longPressExpiry_running (h : s.panel.longTimers[keyTimer k] ≠ none) :
    s.longPressExpiry k = (s.setLongTimer k none).takeEvent (.key k .long) := by
  unfold State.longPressExpiry
  split
  · rfl
  next e => exact absurd e h

end Sys2Proof.Machine
end

section
/-! SUPPORT. INPUT_SAMPLE and LONG_PRESS_EXPIRY (R170 to R173): Obligation O53. -/

namespace Sys2Proof.Machine

variable {s t : State} {k : Key}

/-- What a later sample leaves: the classes taken in their order, and settled at last where a WAKE may wait (R169, log 5). -/
structure State.LaterSample (s : State) (P : Panel) (detent : Option Bool) (order : List InputClass) (t : State) : Prop where
  sample : State.SampleOf P s.now t
  timers : ∀ k, t.panel.longTimers[keyTimer k] = if (s.panel.lines[keyLine k]).level ≠ (P.lines[keyLine k]).level then
    timerOf (P.lines[keyLine k]).level s.now else s.panel.longTimers[keyTimer k]
  taken : t = if s.panel.proximityRises P then
      State.settle ((eventOrder order).foldl (State.takeClass s.panel detent) (s.onPanel fun _ => P))
    else (eventOrder order).foldl (State.takeClass s.panel detent) (s.onPanel fun _ => P)

theorem State.inputSample_later (hs : s.panel.sampled = true) (levels : BitVec 10) (order : List InputClass) :
    s.LaterSample (s.panel.afterSample levels).1 (s.panel.afterSample levels).2 order (s.inputSample levels order) := by
  obtain ⟨-, timers, -, -⟩ := s.panel.afterSample_lines levels
  have first : State.SampleOf (s.panel.afterSample levels).1 s.now (s.onPanel fun _ => (s.panel.afterSample levels).1) := ⟨rfl, rfl⟩
  obtain ⟨sample, timer⟩ := first.classes s.panel (s.panel.afterSample levels).2 (eventOrder order)
  have run : s.inputSample levels order = _ := if_pos hs
  dsimp only at run
  refine ⟨?_, fun k => ?_, run⟩
  · rw [run]
    split
    · have units := State.settle_units ((eventOrder order).foldl (State.takeClass s.panel (s.panel.afterSample levels).2)
        (s.onPanel fun _ => (s.panel.afterSample levels).1))
      exact ⟨by rw [units.panel]; exact sample.panel, units.now.trans sample.now⟩
    · exact sample
  · have final : (s.inputSample levels order).panel = ((eventOrder order).foldl (State.takeClass s.panel (s.panel.afterSample levels).2)
        (s.onPanel fun _ => (s.panel.afterSample levels).1)).panel := by
      rw [run]
      split
      · exact (State.settle_units _).panel
      · rfl
    rw [final, timer k]
    simp only [mem_eventOrder, true_and]
    rw [State.onPanel_panel, timers]

/-- The filtered line after a sample, written out (R170). -/
theorem LineFilter.sample_eq (f : LineFilter) (n : Nat) (level : Bool) : f.sample n level =
    if level = f.level then { level := f.level, run := 0 }
    else if n ≤ f.run + 1 then { level := !f.level, run := 0 }
    else { level := f.level, run := f.run + 1 } := by
  unfold LineFilter.sample
  by_cases h : level = f.level
  · rw [if_pos h, if_pos h]
  · have flip : level = !f.level := by cases level <;> cases hl : f.level <;> simp_all
    rw [if_neg h, if_neg h, flip]

/-- The place of a pair of encoder levels, written out (R171). -/
theorem pairPlace_eq (a b : Bool) : pairPlace a b = if a then (if b then 2 else 1) else if b then 3 else 0 := by
  cases a <;> cases b <;> rfl

/-- The encoder after a sample (R171). -/
theorem Panel.afterSample_encoder (p : Panel) (levels : BitVec 10) :
    let P := (p.afterSample levels).1
    let moved := (P.lines[(0 : Fin 10)]).level ≠ (p.lines[(0 : Fin 10)]).level ∨ (P.lines[(1 : Fin 10)]).level ≠ (p.lines[(1 : Fin 10)]).level
    let count := countEdge p.edgeCount (encoderEdge p.refA p.refB (P.lines[(0 : Fin 10)]).level (P.lines[(1 : Fin 10)]).level)
    (moved → P.refA = (P.lines[(0 : Fin 10)]).level ∧ P.refB = (P.lines[(1 : Fin 10)]).level ∧
      P.edgeCount = if p.edgesPerDetent ≤ count.natAbs ∧ count ≠ 0 then 0 else count) ∧
    (¬moved → P = p.sampleLines levels ∧ (p.afterSample levels).2 = none) := by
  obtain ⟨lines, -, -, -⟩ := p.afterSample_lines levels
  intro P
  show _ ∧ _
  rw [show P.lines = (p.sampleLines levels).lines from lines]
  have changed : p.encoderChanged (p.sampleLines levels) = true ↔
      ((p.sampleLines levels).lines[(0 : Fin 10)]).level ≠ (p.lines[(0 : Fin 10)]).level ∨
        ((p.sampleLines levels).lines[(1 : Fin 10)]).level ≠ (p.lines[(1 : Fin 10)]).level := by
    simp only [Panel.encoderChanged, Bool.or_eq_true, decide_eq_true_eq, ne_comm]
  refine ⟨fun moved => ?_, fun still => ?_⟩
  · have step : P = ((p.sampleLines levels).encoderStep ((p.sampleLines levels).lines[(0 : Fin 10)]).level
        ((p.sampleLines levels).lines[(1 : Fin 10)]).level).1 := congrArg Prod.fst (if_pos (changed.2 moved))
    rw [step, Panel.encoderStep_fst]
    exact ⟨rfl, rfl, rfl⟩
  · have none_taken : p.afterSample levels = (p.sampleLines levels, none) := if_neg fun h => still (changed.1 h)
    exact ⟨congrArg Prod.fst none_taken, congrArg Prod.snd none_taken⟩

theorem key_of_timer (i : Fin 7) : ∃ k, keyTimer k = i ∧ keyLine k = ⟨i.val + 2, by omega⟩ := by
  match i with
  | 0 => exact ⟨.push, rfl, rfl⟩
  | 1 => exact ⟨.start, rfl, rfl⟩
  | 2 => exact ⟨.options, rfl, rfl⟩
  | 3 => exact ⟨.back, rfl, rfl⟩
  | 4 => exact ⟨.swap, rfl, rfl⟩
  | 5 => exact ⟨.volume, rfl, rfl⟩
  | 6 => exact ⟨.assist, rfl, rfl⟩

theorem key_of_line {i : Fin 10} (h : 2 ≤ i.val ∧ i.val ≤ 8) : ∃ k, keyLine k = i := by
  obtain ⟨k, -, hk⟩ := key_of_timer ⟨i.val - 2, by omega⟩
  exact ⟨k, hk.trans (Fin.ext (Nat.sub_add_cancel h.1))⟩

variable {P : Panel} {detent : Option Bool} {order : List InputClass}

/-- A moved key line and a proximity edge leave the backlight FULL (R169). -/
theorem State.LaterSample.full (h : s.LaterSample P detent order t) {c : InputClass}
    (hm : (c = .proximity ∧ s.panel.proximityRises P = true) ∨
      ∃ k, c = keyClass k ∧ (s.panel.lines[keyLine k]).level ≠ (P.lines[keyLine k]).level) : t.display.backlight = .full := by
  have lit : ((eventOrder order).foldl (State.takeClass s.panel detent) (s.onPanel fun _ => P)).display.backlight = .full :=
    State.SampleOf.lights (n := s.now) (P := P) (x := s.onPanel fun _ => P) ⟨rfl, rfl⟩ (mem_eventOrder order c) hm
  rw [h.taken]
  split
  · exact State.settle_full lit
  · exact lit

theorem State.LaterSample.unfocused (h : s.LaterSample P detent order t) (hf : s.focus = none) (hs : P.summary = s.panel.summary) :
    s.Unfocused t := by
  have first : s.Unfocused (s.onPanel fun _ => P) := ⟨hf, rfl, hs, fun _ => rfl⟩
  have all := first.classes s.panel detent (eventOrder order)
  rw [h.taken]
  split
  · exact all.units (State.settle_units _)
  · exact all

/-- With no line moved the sample leaves the filters alone to change. -/
theorem State.LaterSample.unmoved (h : s.LaterSample P detent order t) (hd : detent = none)
    (hl : ∀ i : Fin 10, (P.lines[i]).level = (s.panel.lines[i]).level) : t = s.onPanel fun _ => P := by
  have still : s.panel.proximityRises P = false := by
    unfold Panel.proximityRises
    rw [hl]
    cases (s.panel.lines[(9 : Fin 10)]).level <;> rfl
  have first : State.SampleOf P s.now (s.onPanel fun _ => P) := ⟨rfl, rfl⟩
  rw [h.taken, still, if_neg Bool.false_ne_true, first.acting (fun _ => false) (fun c y _ hy =>
    State.takeClass_unmoved hy (fun _ => hd) (fun _ => still) fun k _ => (hl _).symm)]
  simp

/-- A VOLUME PRESS with a proximity edge leaves ACCEPT playing (R169). -/
theorem State.LaterSample.accepts {p : Pattern} (h : s.LaterSample P detent order t) (ready : s.TakesAccept p)
    (hp : s.sched.feedback.pending = none) (hdue : s.sched.arbDue = false) (hd : detent = none)
    (hl : ∀ k, k ≠ Key.volume → (s.panel.lines[keyLine k]).level = (P.lines[keyLine k]).level)
    (moved : (s.panel.lines[(7 : Fin 10)]).level ≠ (P.lines[(7 : Fin 10)]).level) (pressed : (P.lines[(7 : Fin 10)]).level = true) :
    ∃ uid start, t.sched.feedback = ⟨none, some (feedbackPlaying uid 1 start)⟩ := by
  have first : State.SampleOf P s.now (s.onPanel fun _ => P) := ⟨rfl, rfl⟩
  have started : (s.onPanel fun _ => P).TakesAccept p := by
    obtain ⟨laws, focus, current, voice0, pattern⟩ := ready
    exact ⟨laws, focus, current, voice0, pattern⟩
  obtain ⟨uid, start, entry, done⟩ := first.accepts (detent := detent) started hp hdue moved pressed
    (eventOrder_pair order (a := .volume) (b := .proximity) (by decide))
  have same := first.acting (before := s.panel) (detent := detent) (fun c => decide (c = .volume ∨ c = .proximity)) (fun c y ha hy => by
    simp only [decide_eq_false_iff_not, not_or] at ha
    refine State.takeClass_unmoved hy (fun _ => hd) (fun e => absurd e ha.2) fun k hk => hl k ?_
    rintro rfl
    exact ha.1 hk) (eventOrder order)
  rw [← same] at entry done
  refine ⟨uid, start, ?_⟩
  rw [h.taken]
  split
  · rw [State.settle_sched, State.settleArb_of_not_due _ done]
    exact entry
  · exact entry

/-- Settles O53: the Input Unit after a sample is that of its filters, its encoder and its timers, whatever the events set off; and a
long press is the event of its key. -/
theorem panelLinesTaken : Obligations.PanelLinesTaken := by
  refine ⟨⟨fun s levels order hup hs => ?_, fun s levels order hup hs => ?_⟩, fun s k hrest => ⟨fun h => ?_, fun h hf => ?_, fun m n h hf hk => ?_⟩⟩
  · have first : s.inputSample levels order = s.onPanel fun p => p.firstSample levels := if_neg (by rw [hs]; exact Bool.false_ne_true)
    rw [exec_inputSample_up hup, first]
    rfl
  · refine ⟨_, exec_inputSample_up hup levels order, ?_⟩
    have later := State.inputSample_later hs levels order
    obtain ⟨moves, stays⟩ := s.panel.afterSample_encoder levels
    obtain ⟨lines, -, summary, -⟩ := s.panel.afterSample_lines levels
    generalize s.inputSample levels order = t at later ⊢
    generalize (s.panel.afterSample levels).1 = P at *
    generalize (s.panel.afterSample levels).2 = detent at *
    have tlines : t.panel.lines = P.lines := later.sample.lines
    intro p old new
    have new_eq (i : Fin 10) : new i = (P.lines[i]).level := by
      show (t.panel.lines[i]).level = _
      rw [tlines]
    refine ⟨fun i => ?_, fun h => ?_, ?_, fun i => ?_, fun h => ?_, fun hf => ?_, fun hfocus hfb hv hpat hl hvol hprox hrest law => ?_⟩
    · rw [tlines, lines]
      exact (Vector.getElem_ofFn i.isLt).trans (LineFilter.sample_eq _ _ _)
    · have still : P = p.sampleLines levels ∧ detent = none := stays (by
        rw [← new_eq 0, ← new_eq 1]
        exact fun k => k.elim (· (h 0)) (· (h 1)))
      have unmoved := later.unmoved still.2 fun i => (new_eq i).symm.trans (h i)
      rw [tlines, unmoved, still.1]
      rfl
    · intro place moved before now edge count
      have places : place = pairPlace := by
        funext a b
        exact (pairPlace_eq a b).symm
      have edges : edge = encoderEdge p.refA p.refB (P.lines[(0 : Fin 10)]).level (P.lines[(1 : Fin 10)]).level := by
        show (if place (new 0) (new 1) = (place p.refA p.refB + 1) % 4 then (1 : Int)
          else if place (new 0) (new 1) = (place p.refA p.refB + 3) % 4 then -1 else 0) = _
        rw [places, new_eq 0, new_eq 1]
        rfl
      have counts : count = countEdge p.edgeCount (encoderEdge p.refA p.refB (P.lines[(0 : Fin 10)]).level (P.lines[(1 : Fin 10)]).level) := by
        rw [← edges]
        rfl
      have panel := later.sample.panel
      have refs : t.panel.refA = P.refA ∧ t.panel.refB = P.refB ∧ t.panel.edgeCount = P.edgeCount := by
        rw [panel]
        exact ⟨rfl, rfl, rfl⟩
      obtain ⟨refA, refB, edgeCount⟩ := refs
      rw [refA, refB, edgeCount, counts, new_eq 0, new_eq 1]
      refine ⟨fun hm => moves ?_, fun hn => ?_⟩
      · rw [← new_eq 0, ← new_eq 1]
        exact hm
      · have still : P = p.sampleLines levels ∧ detent = none := stays (by
          rw [← new_eq 0, ← new_eq 1]
          exact hn)
        rw [still.1]
        exact ⟨rfl, rfl, rfl⟩
    · intro line
      obtain ⟨k, rfl, keyed⟩ := key_of_timer i
      have now_line : new line = (P.lines[keyLine k]).level :=
        (new_eq line).trans (congrArg (fun j : Fin 10 => (P.lines[j]).level) keyed.symm)
      have old_line : old line = (s.panel.lines[keyLine k]).level := congrArg (fun j : Fin 10 => (s.panel.lines[j]).level) keyed.symm
      rw [now_line, old_line, later.timers k]
      by_cases same : (P.lines[keyLine k]).level = (s.panel.lines[keyLine k]).level
      · rw [if_neg fun g => g same.symm, if_pos same]
      · rw [if_pos (Ne.symm same), if_neg same]
        rfl
    · rcases h with ⟨i, h2, h8, hi⟩ | ⟨h9, h9'⟩
      · obtain ⟨k, rfl⟩ := key_of_line ⟨h2, h8⟩
        rw [new_eq] at hi
        exact later.full (.inr ⟨k, rfl, Ne.symm hi⟩)
      · rw [new_eq] at h9
        refine later.full (.inl ⟨rfl, ?_⟩)
        unfold Panel.proximityRises
        rw [show (s.panel.lines[(9 : Fin 10)]).level = false from h9', h9]
        rfl
    · obtain ⟨focus, ctx, sums, inputs⟩ := later.unfocused hf summary
      exact ⟨focus, ctx, sums, inputs⟩
    · obtain ⟨pat, hpat⟩ := Option.ne_none_iff_exists'.1 hpat
      have ready : s.TakesAccept pat :=
        ⟨law, Option.ne_none_iff_exists'.1 hfocus, by rw [hfb], hv, hpat⟩
      have still : P = p.sampleLines levels ∧ detent = none := stays (by
        rw [← new_eq 0, ← new_eq 1]
        exact fun g => g.elim (· (hl 0 (by decide) (by decide))) (· (hl 1 (by decide) (by decide))))
      have pressed : (P.lines[(7 : Fin 10)]).level = true := (new_eq 7).symm.trans hvol.1
      have moved : (s.panel.lines[(7 : Fin 10)]).level ≠ (P.lines[(7 : Fin 10)]).level := by
        rw [pressed, show (s.panel.lines[(7 : Fin 10)]).level = false from hvol.2]
        exact Bool.false_ne_true
      obtain ⟨uid, start, entry⟩ := later.accepts ready (by rw [hfb]) hrest.2.1 still.2 (fun k hk => by
        refine (hl (keyLine k) ?_ ?_).symm.trans (new_eq _)
        · cases k <;> first | exact absurd rfl hk | decide
        · cases k <;> decide) moved pressed
      exact ⟨_, entry, rfl, rfl⟩
  · have stopped : s.longPressExpiry k = s := by
      unfold State.longPressExpiry
      rw [h]
    rw [exec_longPressExpiry_up hrest.1, stopped, State.settle_of_settled _ hrest.2]
  · rw [exec_longPressExpiry_up hrest.1, State.longPressExpiry_running h]
    have event : (s.setLongTimer k none).takeEvent (.key k .long) = (s.setLongTimer k none).panelInput := by
      rw [State.takeEvent, show (s.setLongTimer k none).focus = none from hf]
      rfl
    rw [event, State.panelInput_eq]
    exact congrArg _ (State.settle_of_settled _ (State.SameRest.settled (s := s) ⟨rfl, rfl, rfl, rfl⟩ hrest.2))
  · have alone : actsAlone k .long := by
      refine actsAlone_of ?_
      match n, hk with
      | 0, hk | 1, hk | 2, hk | 3, hk =>
        cases hk
        exact .inl (by decide)
      | 4, hk =>
        cases hk
        exact .inr (.inr ⟨rfl, rfl⟩)
    have code : classCode (keyClass k) = n + 1 := by
      refine classCode_keyClass ?_
      match n, hk with
      | 0, hk | 1, hk | 2, hk | 3, hk | 4, hk => exact hk
    have taken := State.takeEvent_alone (s := s.setLongTimer k none) hf alone
    rw [code] at taken
    rw [exec_longPressExpiry_up hrest.1, State.longPressExpiry_running h, taken]
    exact congrArg _ (State.settle_reported (s := s) (m := m) (b := (s.panel.mask.get m).getLsbD (n + 1)) (c := .key k .long)
      hrest.2 rfl rfl rfl rfl)

end Sys2Proof.Machine
end

section
/-! SUPPORT. The end of a catalog check (R28, R90, R94 to R96), and the cues that start together as the store is found FAILED (R63, R66,
R80): Obligation O26. -/

namespace Sys2Proof.Machine

variable {s t u x y : State} {m : Side} {i j : Fin 24} {c d : Cue}

/-! ### Cues that start together (R63, R66, R72, R80) -/

/-- The record of a cue that starts without its speech and has no tone part. -/
def Cue.unheard (c : Cue) (serial now : Nat) : Cue :=
  { c.holding serial now with flags := { c.flags with isPartial := c.flags.isPartial || c.speech.isSome } }

theorem Cue.started_unheard (hm : c.origin ≠ .panel) (ht : c.tone = none) (n now : Nat) : c.started false n now = c.unheard n now := by
  cases hs : c.speech with
  | none =>
    simp [Cue.started, Cue.unheard, Cue.holding, Cue.firstPhase, Cue.timing?, Config.unit100, Config.msec, hs, ht]
  | some items =>
    simp [Cue.started, Cue.unheard, Cue.holding, Cue.firstPhase, Cue.timing?, Config.unit100, Config.msec, Cue.markPartial, hs, ht, hm]

/-- What an unheard start leaves: its record, and one more start counted. -/
theorem State.serve_unheard (hc : s.sched.table[i] = some c) (ho : c.origin = .machine m) (hw : c.state = .waiting) (ht : c.tone = none)
    (hst : s.store.state = .failed) : (s.serve (.slot i)).sched.table = s.sched.table.set i (some (c.unheard s.sched.nextStart s.now)) ∧
      (s.serve (.slot i)).sched.nextStart = s.sched.nextStart + 1 ∧ (s.serve (.slot i)).sched.arbDue = s.sched.arbDue ∧
      (s.serve (.slot i)).sched.feedback = s.sched.feedback ∧ (s.serve (.slot i)).store.state = .failed ∧
      (s.serve (.slot i)).now = s.now := by
  have need : s.needsPath c = false := by simp [State.needsPath, hst]
  have turns := s.serve_turns (.slot i) nofun
  have served : s.serve (.slot i) = s.startCue (.slot i) none :=
    State.serve_available (r := .slot i) hc hw (.inl (by simp [State.judgePath, need])) (.inl ⟨State.judgeVoice_of_no_tone ht, rfl⟩)
  obtain ⟨V, give⟩ : ∃ V, (s.given (.slot i) none c).dropReservations (.slot i) =
      { s with sched := { s.sched with path := s.sched.path.unreserve (.slot i), voices := V } } := by
    rw [State.given_eq, need, if_neg Bool.false_ne_true]
    exact ⟨_, rfl⟩
  obtain ⟨p, start, eq, -⟩ := State.startCue_slot hc ho give
  have record : s.startRecord c = c.unheard s.sched.nextStart s.now := by
    simp only [State.startRecord, need, Bool.false_eq_true, false_and, if_false]
    exact Cue.started_unheard (by rw [ho]; exact nofun) ht _ _
  have quiet : p.beginFirstPhase (.slot i) (c.unheard s.sched.nextStart s.now) = p := by
    simp [State.beginFirstPhase, Cue.timing?, ht, Cue.unheard, Cue.holding]
  have store := turns.store.1.trans hst
  have now := turns.outside.now
  rw [need, Cue.started_unheard (by rw [ho]; exact nofun) ht, quiet] at start
  rw [served, start] at store now ⊢
  refine ⟨?_, ?_, ?_, ?_, store, now⟩
  all_goals
    rw [eq, record]
    rfl

theorem idxOf_lt_of_sublist {l : List CueRef} {a b : CueRef} (h : [a, b].Sublist l) (hn : l.Nodup) : l.idxOf a < l.idxOf b := by
  induction l with
  | nil => cases h
  | cons r l ih =>
    obtain ⟨fresh, rest⟩ := List.nodup_cons.1 hn
    cases h with
    | cons _ h =>
      have ne (q : CueRef) (hq : q ∈ [a, b]) : r ≠ q := fun e => fresh (e ▸ h.subset hq)
      rw [List.idxOf_cons_ne _ (ne a (by simp)), List.idxOf_cons_ne _ (ne b (by simp))]
      exact Nat.succ_lt_succ (ih h rest)
    | cons_cons _ h =>
      have ne : a ≠ b := fun e => fresh (e ▸ h.subset (by simp))
      rw [List.idxOf_cons_self, List.idxOf_cons_ne _ ne]
      exact Nat.succ_pos _

/-- The candidates served in turn start one after the other, each at its place. -/
theorem State.serves_unheard (l : List CueRef) (hn : l.Nodup) (s : State) (hst : s.store.state = .failed)
    (hl : ∀ r ∈ l, ∃ (i : Fin 24) (c : Cue) (m : Side), r = .slot i ∧ s.sched.table[i] = some c ∧ c.origin = .machine m ∧
      c.state = .waiting ∧ c.tone = none) :
    (∀ (i : Fin 24) c, CueRef.slot i ∈ l → s.sched.table[i] = some c → (l.foldl State.serve s).sched.table[i] =
      some (c.unheard (s.sched.nextStart + l.idxOf (.slot i)) s.now)) ∧
    (∀ i : Fin 24, CueRef.slot i ∉ l → (l.foldl State.serve s).sched.table[i] = s.sched.table[i]) ∧
      (l.foldl State.serve s).sched.arbDue = s.sched.arbDue ∧ (l.foldl State.serve s).sched.feedback = s.sched.feedback := by
  induction l generalizing s with
  | nil => exact ⟨fun _ _ h => (List.not_mem_nil h).elim, fun _ _ => rfl, rfl, rfl⟩
  | cons r l ih =>
    obtain ⟨fresh, rest⟩ := List.nodup_cons.1 hn
    obtain ⟨i, c, m, rfl, hc, ho, hw, ht⟩ := hl r (by simp)
    obtain ⟨table, next, due, feedback, store, now⟩ := State.serve_unheard hc ho hw ht hst
    have other (j : Fin 24) (hj : j ≠ i) : (s.serve (.slot i)).sched.table[j] = s.sched.table[j] := by
      rw [table]
      exact (Vector.getElem_set_fin _ _ _ _).trans (if_neg hj)
    have far (j : Fin 24) (hj : CueRef.slot j ∈ l) : j ≠ i := by
      rintro rfl
      exact fresh hj
    obtain ⟨starts, stays, dues, feedbacks⟩ := ih rest (s.serve (.slot i)) store (fun q hq => by
      obtain ⟨j, d, n, rfl, hd, props⟩ := hl q (by simp [hq])
      exact ⟨j, d, n, rfl, (other j (far j hq)).trans hd, props⟩)
    rw [List.foldl_cons]
    refine ⟨fun j d hj hd => ?_, fun j hj => ?_, dues.trans due, feedbacks.trans feedback⟩
    · by_cases e : j = i
      · subst e
        rw [stays j fresh, table, List.idxOf_cons_self]
        have same : c = d := Option.some.inj (hc.symm.trans hd)
        rw [← same]
        exact (Vector.getElem_set_fin _ _ _ _).trans (if_pos rfl)
      · have later : CueRef.slot j ∈ l := (List.mem_cons.1 hj).resolve_left fun k => e (CueRef.slot.inj k)
        rw [starts j d later ((other j e).trans hd), next, now, List.idxOf_cons_ne _ (fun k => e (CueRef.slot.inj k).symm)]
        congr 2
        omega
    · rw [stays j fun k => hj (by simp [k]), other j fun e => hj (by simp [e])]

/-! ### The links and the store at the end of a check (R94 to R96) -/

/-- What settling leaves of a link beside its reports and its transmitter. -/
theorem State.settle_linkRest (s : State) (n : Side) : (s.settle.link n).inService = (s.link n).inService ∧
    (s.settle.link n).reply = (s.link n).reply ∧ (s.settle.link n).fault = (s.link n).fault ∧
    (s.settle.link n).causes = (s.link n).causes := by
  have twice : s.settle = s.settleArb.settle := by
    rw [State.settle_of_arb rfl, State.settle_of_arb (State.settleArb_of_not_due _ s.settleArb_arbDue)]
  obtain ⟨service, reply, -, -, -, fault, causes⟩ := State.settle_linkFrame s.settleArb_arbDue n
  obtain ⟨d, k, arb, -⟩ := s.settleArb_frame.links n
  rw [twice, service, reply, fault, causes, arb]
  exact ⟨rfl, rfl, rfl, rfl⟩

/-- The check state is IDLE or not as before, and the waiters are as before. -/
structure Store.KeepsCheck (a b : Store) : Prop where
  idle : b.check = .idle ↔ a.check = .idle
  current : b.currentWaiters = a.currentWaiters
  next : b.nextWaiters = a.nextWaiters

theorem Store.KeepsCheck.refl (a : Store) : a.KeepsCheck a := ⟨Iff.rfl, rfl, rfl⟩

theorem Store.KeepsCheck.trans {a b c : Store} (h : a.KeepsCheck b) (g : b.KeepsCheck c) : a.KeepsCheck c :=
  ⟨g.idle.trans h.idle, g.current.trans h.current, g.next.trans h.next⟩

theorem State.settle_keepsCheck (s : State) : s.store.KeepsCheck s.settle.store := by
  have arb : s.store.KeepsCheck s.settleArb.store := by
    rw [s.settleArb_frame.store]
    exact ⟨Iff.rfl, rfl, rfl⟩
  have race (x : State) : x.store.KeepsCheck x.grantRace.store := by
    unfold State.grantRace
    split
    · exact ⟨Iff.rfl, rfl, rfl⟩
    · exact .refl _
  have begin (x : State) : x.store.KeepsCheck x.tryBeginCheck.store := by
    unfold State.tryBeginCheck
    split
    next h =>
      have pending : x.store.check = .pending := by
        simp only [State.checkCanBegin, Bool.and_eq_true, decide_eq_true_eq] at h
        exact h.1.1.1
      exact ⟨by rw [pending]; exact ⟨nofun, nofun⟩, rfl, rfl⟩
    · exact .refl _
  have decide (x : State) : x.store.KeepsCheck x.portDecide.store := by
    unfold State.portDecide
    repeat' split
    all_goals exact ⟨Iff.rfl, rfl, rfl⟩
  have choose (x : State) (m : Side) : x.store.KeepsCheck (x.txChoose m).store := by
    rw [(x.txChoose_frame m).2.2.1]
    exact .refl _
  exact ((((arb.trans (race _)).trans (begin _)).trans (decide _)).trans (choose _ .w)).trans (choose _ .d)

/-- The deferred reply that the end of a check forms for a waiter (R95 step 5). -/
theorem State.answerWaiter_link (s : State) (m n : Side) : (s.answerWaiter m).store = s.store ∧
    ((s.answerWaiter m).link n).fault = (s.link n).fault ∧ ((s.answerWaiter m).link n).causes = (s.link n).causes ∧
    (n ≠ m ∨ s.store.currentWaiters.get m = false → (s.answerWaiter m).link n = s.link n) ∧
    (∀ r, n = m → s.store.currentWaiters.get m = true → (s.link m).inService = some r → r.kind = .storeCheck →
      ((s.answerWaiter m).link m).inService = none ∧ ∃ cond, ((s.answerWaiter m).link m).reply = some
        { echo := 0x30, body := .done [storeByte s.store.state], condition := if r.note then some cond else none }) := by
  unfold State.answerWaiter
  split
  next h =>
    unfold State.finishDeferred
    split
    next e => exact ⟨rfl, rfl, rfl, fun _ => rfl, fun r _ _ hr => absurd (e.symm.trans hr) nofun⟩
    next r e =>
      refine ⟨rfl, ?_, ?_, fun hn => ?_, fun q hn _ hq hk => ?_⟩
      · simp only [State.formReply, State.link_onLink]
        split <;> simp_all
      · simp only [State.formReply, State.link_onLink]
        split <;> simp_all
      · rcases hn with hn | hn
        · rw [State.link_onLink_of_ne _ _ hn]
          exact State.link_onLink_of_ne _ _ hn
        · exact absurd (h.symm.trans hn) nofun
      · have same : q = r := Option.some.inj (hq.symm.trans e)
        subst same
        refine ⟨by simp only [State.link_onLink_same], s.conditionByte m, ?_⟩
        simp only [State.formReply, State.link_onLink_same, hk]
        rfl
  next h => exact ⟨rfl, rfl, rfl, fun _ => rfl, fun r _ hw => absurd hw h⟩

theorem Link.storeFault_fields (l : Link) : l.storeFault.fault = true ∧ l.storeFault.causes.store = true ∧
    l.storeFault.inService = l.inService ∧ l.storeFault.reply = l.reply := by
  unfold Link.storeFault Link.setFaultMark
  dsimp only
  split <;> exact ⟨rfl, rfl, rfl, rfl⟩

/-- What the hand-offs of a check's end leave of a link (R95, R96). -/
theorem State.handOff_link (s : State) (f : Flash) (n : Side) :
    (s.store.state = .ok → runCheck f = none → s.attached n = true →
      ((s.handOff f).link n).fault = true ∧ ((s.handOff f).link n).causes.store = true) ∧
    (s.store.currentWaiters.get n = false →
      ((s.handOff f).link n).inService = (s.link n).inService ∧ ((s.handOff f).link n).reply = (s.link n).reply) ∧
    ∀ r, s.store.currentWaiters.get n = true → (s.link n).inService = some r → r.kind = .storeCheck →
      ((s.handOff f).link n).inService = none ∧ ∃ cond, ((s.handOff f).link n).reply = some
        { echo := 0x30, body := .done [if runCheck f = none then 1 else 0], condition := if r.note then some cond else none } := by
  obtain ⟨x, hx⟩ : ∃ x : State, x = State.onStore s fun st => st.takeResult (runCheck f) := ⟨_, rfl⟩
  obtain ⟨y, hy⟩ : ∃ y, y = if s.store.state = .ok ∧ x.store.state = .failed then x.storeFault else x := ⟨_, rfl⟩
  obtain ⟨z, hz⟩ : ∃ z : State, z = { y.clampLanguages with partState := .ready } := ⟨_, rfl⟩
  have handed : s.handOff f = (z.answerWaiter .w).answerWaiter .d := by
    rw [hz, hy, hx]
    rfl
  have result : x.store.state = (if runCheck f = none then .failed else .ok) ∧ x.store.currentWaiters = s.store.currentWaiters := by
    rw [hx]
    show ((s.store.takeResult (runCheck f)).state = _ ∧ (s.store.takeResult (runCheck f)).currentWaiters = _)
    unfold Store.takeResult
    cases runCheck f <;> exact ⟨rfl, rfl⟩
  have store : z.store = x.store := by
    rw [hz, hy]
    split <;> rfl
  have link : z.link n = if (s.store.state = .ok ∧ x.store.state = .failed) ∧ s.attached n = true then (s.link n).storeFault else s.link n := by
    have own : z.link n = y.link n := by rw [hz]; rfl
    have faulted : x.storeFault.link n = if s.attached n = true then (s.link n).storeFault else s.link n := by
      rw [hx]
      cases n <;> rfl
    rw [own, hy]
    by_cases h : s.store.state = .ok ∧ x.store.state = .failed
    · rw [if_pos h, faulted]
      by_cases ha : s.attached n = true
      · rw [if_pos ha, if_pos ⟨h, ha⟩]
      · rw [if_neg ha, if_neg fun k => ha k.2]
    · rw [if_neg h, if_neg fun k => h k.1, hx]
      rfl
  obtain ⟨wstore, wfault, wcauses, wsame, wanswer⟩ := z.answerWaiter_link .w n
  obtain ⟨-, dfault, dcauses, dsame, danswer⟩ := (z.answerWaiter .w).answerWaiter_link .d n
  obtain ⟨faultSet, causeSet, service, reply⟩ := (s.link n).storeFault_fields
  have served : (z.link n).inService = (s.link n).inService ∧ (z.link n).reply = (s.link n).reply := by
    rw [link]
    split
    · exact ⟨service, reply⟩
    · exact ⟨rfl, rfl⟩
  rw [handed]
  refine ⟨fun hok hnone ha => ?_, fun hn => ?_, fun r hw hr hk => ?_⟩
  · rw [dfault, dcauses, wfault, wcauses, link, if_pos ⟨⟨hok, by rw [result.1, if_pos hnone]⟩, ha⟩]
    exact ⟨faultSet, causeSet⟩
  · have waits : z.store.currentWaiters.get n = false := by rw [store, result.2]; exact hn
    have first : (z.answerWaiter .w).link n = z.link n := wsame (by cases n <;> simp_all)
    rw [dsame (by rw [wstore]; cases n <;> simp_all), first]
    exact served
  · have waits : z.store.currentWaiters.get n = true := by rw [store, result.2]; exact hw
    have byte : storeByte z.store.state = if runCheck f = none then 1 else 0 := by
      rw [store, result.1]
      split <;> rfl
    rw [← byte]
    cases n with
    | w =>
      rw [dsame (.inl nofun)]
      exact wanswer r rfl waits (served.1.trans hr) hk
    | d =>
      have first : (z.answerWaiter .w).link .d = z.link .d := wsame (.inl nofun)
      have answer := danswer r rfl (by rw [wstore]; exact waits) (by rw [first]; exact served.1.trans hr) hk
      rwa [wstore] at answer

/-! ### CHECK_END (R95) -/

theorem exec_checkEnd_up (h : s.resetHeld = false) (f : Flash) : exec (.checkEnd f) s = .next (s.endCheck f).settle :=
  running_of_up h fun s => (s.endCheck f).settle

/-- Beside the check's own work its end can only take reservations back and set an arbitration off (R69, R82, R95 step 7). -/
theorem State.endCheck_parts (f : Flash) (h : s.store.check = .running) : ∃ P V, s.endCheck f = { s.checkDone f with
    sched := { s.sched with path := P, voices := V, arbDue := true } } := by
  have sched := s.checkDone_sched f
  have drops (x : State) : ∃ P V, x.endPathReservation.setArb = { x with sched := { x.sched with path := P, voices := V, arbDue := true } } := by
    unfold State.endPathReservation State.endReservations
    split
    · exact ⟨_, _, rfl⟩
    · split <;> exact ⟨_, _, rfl⟩
  rw [State.endCheck_eq s f h]
  split
  · refine ⟨s.sched.path, s.sched.voices, ?_⟩
    rw [← sched]
    rfl
  · obtain ⟨P, V, e⟩ := drops (s.checkDone f)
    exact ⟨P, V, e.trans (by rw [sched])⟩

/-- The waiters and the check state as a check's end leaves them (R95 step 6). -/
theorem State.checkDone_store (s : State) (f : Flash) :
    (s.store.nextWaiters = .both false → (s.checkDone f).store.check = .idle ∧ (s.checkDone f).store.currentWaiters = .both false ∧
      (s.checkDone f).store.nextWaiters = .both false) ∧
    (s.store.nextWaiters ≠ .both false → (s.checkDone f).store.check = .pending ∧
      (s.checkDone f).store.currentWaiters = s.store.nextWaiters ∧ (s.checkDone f).store.nextWaiters = .both false) := by
  obtain ⟨L, e, -⟩ := s.handOff_keptLinks f
  have next : (s.handOff f).store.nextWaiters = s.store.nextWaiters := by
    rw [e]
    show (s.store.takeResult (runCheck f)).nextWaiters = _
    rw [Store.takeResult_eq]
  unfold State.checkDone
  refine ⟨fun h => ?_, fun h => ?_⟩
  · rw [State.onStore_store, if_pos (next.trans h)]
    exact ⟨rfl, rfl, next.trans h⟩
  · rw [State.onStore_store, if_neg fun k => h (next.symm.trans k)]
    exact ⟨rfl, next, rfl⟩

/-- With a store found FAILED every WAITING cue starts in the one arbitration that follows, in the order of R63. -/
theorem State.settleArb_unheard (hdue : s.sched.arbDue = true) (hst : s.store.state = .failed)
    (hall : ∀ (k : Fin 24) d, s.sched.table[k] = some d → d.state = .waiting → d.origin ≠ .panel ∧ d.cls ≠ .echo ∧ d.tone = none)
    (hnarr : s.sched.narration.pending = none) (hfb : s.sched.feedback.pending = none) :
    (∀ (k : Fin 24) d, s.sched.table[k] = some d → d.state = .waiting → s.settleArb.sched.table[k] =
      some (d.unheard (s.sched.nextStart + s.candidates.idxOf (.slot k)) s.now)) ∧
    ∀ (j k : Fin 24) a b, s.sched.table[j] = some a → s.sched.table[k] = some b → a.state = .waiting → b.state = .waiting →
      s.ServedBefore a b → s.candidates.idxOf (.slot j) < s.candidates.idxOf (.slot k) := by
  have candidate (d : Cue) (hd : d.state = .waiting) : s.isCandidate d = true := by
    simp [State.isCandidate, hd, State.needsPath, hst]
  have machine (d : Cue) (hd : d.origin ≠ .panel) : ∃ m, d.origin = .machine m := by
    cases ho : d.origin with
    | panel => exact absurd ho hd
    | machine m => exact ⟨m, rfl⟩
  have members (r : CueRef) (hr : r ∈ s.candidates) : ∃ (i : Fin 24) (c : Cue) (m : Side), r = .slot i ∧ s.sched.table[i] = some c ∧
      c.origin = .machine m ∧ c.state = .waiting ∧ c.tone = none := by
    match r, hr with
    | .slot i, hr =>
      obtain ⟨c, m, hc, hi, -, ho⟩ := (s.mem_candidates i).1 hr
      have waits : c.state = .waiting := by
        simp only [State.isCandidate, Bool.and_eq_true, decide_eq_true_eq] at hi
        exact hi.1
      exact ⟨i, c, m, rfl, hc, ho, waits, (hall i c hc waits).2.2⟩
    | .narration, hr =>
      obtain ⟨c, hc, -⟩ := State.narration_mem_candidates.1 hr
      exact absurd (hnarr.symm.trans hc) nofun
    | .feedback, hr => exact absurd rfl (State.mem_candidates_ne_feedback _ hr)
  obtain ⟨starts, -, due, feedback⟩ := State.serves_unheard s.candidates s.candidates_nodup s.clearArb hst members
  have round : s.settleArb = s.candidates.foldl State.serve s.clearArb := by
    have list : s.clearArb.candidates = s.candidates := rfl
    have idle : s.clearArb.arbitrate = s.candidates.foldl State.serve s.clearArb := by
      rw [State.arbitrate, list, State.serveFeedback, feedback, show s.clearArb.sched.feedback.pending = none from hfb]
      rfl
    rw [State.settleArb_due hdue, idle]
    exact if_neg (by rw [due]; exact Bool.false_ne_true)
  refine ⟨fun k d hd hw => ?_, fun j k a b ha hb wa wb before => ?_⟩
  · obtain ⟨ho, he, -⟩ := hall k d hd hw
    obtain ⟨m, hm⟩ := machine d ho
    rw [round]
    exact starts k d ((s.mem_candidates k).2 ⟨d, m, hd, candidate d hw, he, hm⟩) hd
  · obtain ⟨oa, ea, -⟩ := hall j a ha wa
    obtain ⟨ob, eb, -⟩ := hall k b hb wb
    obtain ⟨m, hm⟩ := machine a oa
    obtain ⟨n, hn⟩ := machine b ob
    exact idxOf_lt_of_sublist (s.candidates_before ha hb (candidate a wa) (candidate b wb) ea eb hm hn before) s.candidates_nodup

/-- Settles O26: the hand-offs in their order, then the next check and the arbitration, which settling leaves as they are. -/
theorem checkEndHandsOff : Obligations.CheckEndHandsOff := by
  intro s flash hup hrun
  obtain ⟨P, V, parts⟩ := State.endCheck_parts flash hrun
  obtain ⟨L, st, done, state, catalog, -, -⟩ := s.checkDone_eq flash
  obtain ⟨last, more⟩ := s.checkDone_store flash
  obtain ⟨u, hu⟩ : ∃ u, u = s.endCheck flash := ⟨_, rfl⟩
  have store : u.store = (s.checkDone flash).store := by rw [hu, parts]
  have units := u.settle_units
  have keeps := u.settle_keepsCheck
  have link (n : Side) : u.link n = (s.handOff flash).link n := by
    rw [hu, parts]
    rfl
  have rest := u.settle_linkRest
  have found : (s.checkDone flash).store.state = (if runCheck flash = none then .failed else .ok) ∧
      (s.checkDone flash).store.catalog = runCheck flash := by
    rw [done]
    refine ⟨state.trans ?_, catalog⟩
    unfold Store.takeResult
    cases runCheck flash <;> rfl
  obtain ⟨wst, wL, settled, wstate, wcatalog, -⟩ := u.settle_eq
  refine ⟨u.settle, by rw [exec_checkEnd_up hup, hu], ?_, ?_, ?_, ?_, fun h => ?_, fun h => ?_, fun m r hw hr hk => ?_, fun m hw => ?_,
    fun hok hnone m ha => ?_, fun hall hnarr hfb hnone => ?_⟩
  · rw [units.partState, hu, parts, done]
  · rw [settled]
    exact wcatalog.trans (by rw [store, found.2])
  · rw [settled]
    show wst.state = .ok ↔ _
    rw [wstate, store, found.1]
    split
    next e => exact ⟨nofun, fun k => absurd e k⟩
    next e => exact ⟨fun _ => e, fun _ => rfl⟩
  · rw [units.ctx, hu, parts, done]
    unfold State.clampedCtx
    cases runCheck flash <;> rfl
  · obtain ⟨check, current, next⟩ := last h
    exact ⟨keeps.idle.2 (by rw [store, check]), keeps.current.trans (by rw [store, current]), keeps.next.trans (by rw [store, next])⟩
  · obtain ⟨check, current, next⟩ := more h
    exact ⟨fun k => absurd (keeps.idle.1 k) (by rw [store, check]; exact nofun), keeps.current.trans (by rw [store, current]),
      keeps.next.trans (by rw [store, next])⟩
  · obtain ⟨service, reply, -, -⟩ := rest m
    rw [service, reply, link]
    exact (s.handOff_link flash m).2.2 r hw hr hk
  · obtain ⟨service, reply, -, -⟩ := rest m
    rw [service, reply, link]
    exact (s.handOff_link flash m).2.1 hw
  · obtain ⟨-, -, fault, causes⟩ := rest m
    rw [fault, causes, link]
    exact (s.handOff_link flash m).1 hok hnone ha
  · have sched : u.sched = { s.sched with path := P, voices := V, arbDue := true } := by rw [hu, parts]
    have now : u.now = s.now := by rw [hu, parts, done]
    have before (a b : Cue) (h : s.ServedBefore a b) : u.ServedBefore a b := by
      unfold State.ServedBefore
      have served : u.sched.firstServed = s.sched.firstServed := by rw [sched]; rfl
      rw [served]
      exact h
    obtain ⟨starts, order⟩ := State.settleArb_unheard (s := u) (by rw [sched]) (by rw [store, found.1, if_pos hnone])
      (by rw [sched]; exact hall) (by rw [sched]; exact hnarr) (by rw [sched]; exact hfb)
    have table : u.sched.table = s.sched.table := by rw [sched]
    have first : u.sched.nextStart = s.sched.nextStart := by rw [sched]
    rw [table, first, now] at starts
    rw [table] at order
    rw [State.settle_sched]
    refine ⟨fun k d hd hw => ⟨_, Nat.le_add_right _ _, starts k d hd hw⟩, fun j k a b a' b' ha hb wa wb hab ha' hb' => ?_⟩
    rw [starts j a ha wa] at ha'
    rw [starts k b hb wb] at hb'
    cases ha'
    cases hb'
    exact Nat.add_lt_add_left (order j k a b ha hb wa wb (before a b hab)) _

end Sys2Proof.Machine
end

section
/-! SUPPORT. The end of a fade (R76 to R78): what it frees, what becomes of the cue, and what the arbitration that follows leaves of it. -/

namespace Sys2Proof.Machine

variable {s t u x y : State} {m n : Side} {i a : Fin 24} {c d : Cue} {v : Option (Fin 4)} {f : FadeRecord}

/-! ### Slots that no arbitration serves (R62, R63) -/

/-- The cue of slot `i`, if there is one, neither plays, nor is HELD, nor is a candidate. -/
def State.PassesOver (s : State) (i : Fin 24) : Prop :=
  ∀ c, s.sched.table[i] = some c → c.state ≠ .playing ∧ c.state ≠ .held ∧ s.isCandidate c = false

/-- The arbitrations leave a slot that they pass over. -/
theorem State.settleArb_passesOver (h : s.PassesOver i) : s.settleArb.sched.table[i] = s.sched.table[i] := by
  have spares := State.arbitrateFor_spares (q := some (.slot i)) (P := fun x => x.PassesOver i) (fun x hx => ?_) arbitrationBound s h
  · exact congrArg CueView.current (spares.view _ rfl)
  have quiet (y : State) (hy : y.sched.table[i] = x.sched.table[i]) : State.Secure (some (.slot i)) y := by
    refine ⟨fun j c e hc => ?_, fun r c e hc hp => ?_, fun e => (CueRef.noConfusion (Option.some.inj e))⟩
    · cases e
      exact (hx c (hy.symm.trans hc)).2.1
    · cases e
      exact absurd hp (hx c (hy.symm.trans hc)).1
  have clear := x.clearArb_spares (q := some (.slot i))
  have others (r : CueRef) (hr : r ∈ x.clearArb.candidates) : some (CueRef.slot i) ≠ some r ∧ r ≠ .feedback := by
    refine ⟨fun e => ?_, State.mem_candidates_ne_feedback _ hr⟩
    cases e
    obtain ⟨c, -, hc, hi, -, -⟩ := (x.clearArb.mem_candidates i).1 hr
    exact Bool.false_ne_true ((hx c hc).2.2.symm.trans hi)
  have serves := clear.trans (State.serves_spares x.clearArb.candidates others x.clearArb (quiet _ rfl))
  have turns := x.clearArb_turns.trans (State.arbitrate_turns x.clearArb)
  have once : State.Spares (some (.slot i)) x x.clearArb.arbitrate := by
    unfold State.arbitrate
    refine serves.trans (State.serveFeedback_spares (by exact nofun) (quiet _ (congrArg CueView.current (serves.view _ rfl)))
      fun c r hc hr hp => ?_)
    cases hr
    have same : (x.clearArb.candidates.foldl State.serve x.clearArb).cue? (.slot i) = x.cue? (.slot i) :=
      congrArg CueView.current (serves.view _ rfl)
    rw [State.plays, same] at hp
    obtain ⟨d, hd, playing⟩ := (Option.any_eq_true _ _).1 hp
    exact absurd (of_decide_eq_true playing) (hx d hd).1
  refine ⟨once, fun c hc => ?_⟩
  have same : x.clearArb.arbitrate.sched.table[i] = x.sched.table[i] := congrArg CueView.current (once.view _ rfl)
  rw [State.isCandidate_congr turns.store.1 turns.store.2]
  exact hx c (same.symm.trans hc)

/-! ### The fade timer (R146) -/

theorem exec_fadeTimerExpiry_up (h : s.resetHeld = false) (r : CueRef) : exec (.fadeTimerExpiry r) s = .next (s.fadeExpiry r).settle :=
  running_of_up h fun s => (s.fadeExpiry r).settle

/-- The fade of a cue in ENDING: its factor falls, or it ends. -/
theorem State.fadeExpiry_ending {r : CueRef} (hc : s.cue? r = some c) (hst : c.state = .ending) (hf : c.fade = some f) : s.fadeExpiry r =
    if f.factor ≤ 16 then s.endFade r
    else s.setCue r (some { c with fade := some { factor := f.factor - 16, timer := f.timer + 1000 } }) := by
  simp only [State.fadeExpiry, hc, hst, hf]
  rfl

theorem exec_fadeTimerExpiry_ends {r : CueRef} (hs : s.AtRest) (hc : s.cue? r = some c) (hst : c.state = .ending) (hf : c.fade = some f)
    (hle : f.factor ≤ 16) : exec (.fadeTimerExpiry r) s = .next ((s.freeResources r).fadeResult r c).chooseRing.settle := by
  rw [exec_fadeTimerExpiry_up hs.1, State.fadeExpiry_ending hc hst hf, if_pos hle]
  simp only [State.endFade, hc]

/-! ### What becomes of the cue (R77) -/

/-- A preempted cue whose deadline has not passed is WAITING again. -/
def Cue.returned (c : Cue) : Cue := { c with state := .waiting, endCause := none, fade := none }

/-- The outcome with which a table cue is reported at the end of its fade. -/
def Cue.fadeOutcome (c : Cue) : Option CueOutcome :=
  match c.endCause with
  | some .displaced => some .displaced
  | some .preempted => if c.deadlinePassed then some .expired else none
  | some .purged => none
  | some .cancelled | none => some .cancelled

theorem State.fadeResult_reported {o : CueOutcome} (h : c.fadeOutcome = some o) : s.fadeResult (.slot i) c = s.enterReporting i o := by
  unfold Cue.fadeOutcome at h
  unfold State.fadeResult
  cases hcause : c.endCause with
  | none =>
    simp only [hcause, Option.some.injEq] at h ⊢
    rw [h]
  | some k =>
    cases k with
    | purged => simp only [hcause, reduceCtorEq] at h
    | preempted =>
      cases hd : c.deadlinePassed with
      | false => simp only [hcause, hd, Bool.false_eq_true, if_false, reduceCtorEq] at h
      | true =>
        simp only [hcause, hd, if_true, Option.some.injEq] at h ⊢
        rw [h]
    | displaced | cancelled =>
      simp only [hcause, Option.some.injEq] at h ⊢
      rw [h]

theorem State.fadeResult_returned (h : c.endCause = some .preempted) (hd : c.deadlinePassed = false) :
    s.fadeResult (.slot i) c = (s.setCue (.slot i) (some c.returned)).setArb := by
  simp only [State.fadeResult, h]
  exact if_neg (by simp [hd])

theorem State.fadeResult_purged (h : c.endCause = some .purged) : s.fadeResult (.slot i) c = s.setCue (.slot i) none := by
  simp only [State.fadeResult, h]

/-- The record of a cue that enters REPORTING, its fences checked. -/
theorem State.enterReporting_slot (hc : s.sched.table[i] = some c) (ho : c.origin = .machine m) (o : CueOutcome) :
    (s.enterReporting i o).sched.table[i] = some (c.toReporting o) := by
  rw [State.enterReporting_eq hc ho]
  unfold State.checkFences
  rw [State.releaseHeld_slot]
  have slot : (s.reportingAt i c m o).sched.table[i] = some (c.toReporting o) := (s.reportingAt_slot i c m o i).trans (if_pos rfl)
  have held (z : State) : z.released m (c.toReporting o) = false := by simp [State.released, Cue.toReporting]
  refine (congrArg (Option.map _) slot).trans ?_
  rw [Option.map_some, held, if_neg Bool.false_ne_true]

theorem State.chooseRing_settleSlot (h : x.PassesOver i) : x.chooseRing.settle.sched.table[i] = x.sched.table[i] := by
  have same : x.chooseRing.PassesOver i := by
    rw [State.chooseRing_eq]
    exact h
  rw [State.settle_sched, State.settleArb_passesOver same, State.chooseRing_sched]

/-! ### The part as the arbitration finds it -/

section ends

variable (hc : s.sched.table[i] = some c) (hv : s.voiceOf (.slot i) = v) (hheld : s.sched.path.holder = some (.slot i) ∨ v ≠ none)
include hc hv hheld

/-- A cue that ends quietly is reported, what it held given up. -/
theorem State.fadeResult_quiet (ho : c.origin = .machine m) (hq : s.EndsQuietly m i) {o : CueOutcome} (h : c.fadeOutcome = some o) :
    (s.freeResources (.slot i)).fadeResult (.slot i) c = ((s.freed i v).reported i c m o).setArb := by
  have quiet : (s.freed i v).setArb.EndsQuietly m i := EndsQuietly.freed (v := v) hq
  have slot : (s.freed i v).setArb.sched.table[i] = some c := hc
  rw [State.fadeResult_reported h, State.freeResources_frees hv hheld, ← State.freed_eq, State.enterReporting_quiet slot ho quiet]
  rfl

omit hc in
/-- A cue that waits again, what it held given up. -/
theorem State.fadeResult_waits (h : c.endCause = some .preempted) (hd : c.deadlinePassed = false) :
    (s.freeResources (.slot i)).fadeResult (.slot i) c = State.setArb { s.freed i v with
      sched := { (s.freed i v).sched with table := s.sched.table.set i (some c.returned) } } := by
  rw [State.fadeResult_returned h hd, State.freeResources_frees hv hheld]
  rfl

end ends

/-- The ring is chosen as a cue leaves the stage, and again as the cue of slot `a` comes on (R166). -/
theorem State.chooseRing_again (hx : u.sched.table[a] = some d) (hw : d.state = .waiting)
    (hothers : ∀ j : Fin 24, j ≠ a → t.sched.table[j] = u.sched.table[j]) (hnow : t.now = u.now)
    (ht : t.RingChosen u.chooseRing.display.ringEffect) : t.RingChosen (u.display.ringBut a) := by
  have table : u.chooseRing.sched = u.sched := State.chooseRing_sched u
  have off (e : Cue) (he : u.chooseRing.sched.table[a] = some e) : ¬(e.state = .playing ∨ e.state = .ending) := by
    rw [table, hx] at he
    cases he
    simp [hw]
  refine State.RingChosen.again (s := u.chooseRing) (State.chooseRing_chosen u) (fun e he => ?_) off (fun j hj => ?_) ?_ ht
  · rintro rfl
    obtain ⟨k, c, rfl, hc, stage⟩ := State.chooseRing_shows he
    rw [hx] at hc
    cases hc
    exact absurd stage (by simp [hw])
  · rw [hothers j hj, table]
  · rw [State.chooseRing_eq]
    exact hnow

/-! ### One turn that counts among others that do not (R63, R67) -/

theorem State.serves_still (l : List CueRef) (h : ∀ r ∈ l, s.serve r = s) : l.foldl State.serve s = s := by
  induction l with
  | nil => rfl
  | cons r l ih =>
    rw [List.foldl_cons, h r (by simp)]
    exact ih fun q hq => h q (by simp [hq])

/-- One arbitration, in which the turn of `r` alone changes anything. -/
theorem State.settleArb_turn {pre post : List CueRef} {r : CueRef} (hdue : s.sched.arbDue = false) (hc : s.candidates = pre ++ r :: post)
    (hpre : ∀ q ∈ pre, s.serve q = s) (hserve : s.serve r = u) (hpost : ∀ q ∈ post, u.serve q = u) (hu : u.sched.arbDue = false)
    (hf : u.sched.feedback.pending = none) : s.setArb.settleArb = u := by
  refine State.settleArb_once rfl ?_ hu
  rw [State.setArb_clearArb hdue, State.arbitrate, hc, List.foldl_append, State.serves_still pre hpre, List.foldl_cons, hserve,
    State.serves_still post hpost, State.serveFeedback_of_none hf]

/-- A cue whose path is blocked waits at its turn (R64, R67). -/
theorem State.PathBlocked.still {r : CueRef} (hc : s.candidate? r = some d) (h : s.PathBlocked d) : s.serve r = s := by
  obtain ⟨speech, store, q, e, held, he, stage⟩ := h
  refine State.serve_blocked hc (.inl ?_)
  have need : s.needsPath d = true := State.needsPath_iff.2 ⟨speech, store⟩
  rcases stage with ending | ⟨playing, rank⟩
  · simp [State.judgePath, need, held, he, ending]
  · rw [State.judgePath_held need held he playing, if_neg (Nat.not_lt.2 rank)]

/-- Every voice but 0 and `v` has an unreserved holder that the cue does not outrank, if it plays. -/
def State.VoicesKept (s : State) (v : Fin 4) (d : Cue) : Prop :=
  ∀ w : Fin 4, w ≠ 0 → w ≠ v → ∃ h, s.sched.voices[w] = ⟨some h, none⟩ ∧
    ∀ y, s.cue? h = some y → y.state = .playing → y.cls.rank ≤ d.cls.rank

/-- A cue with tone that outranks no holder of a voice waits at its turn (R65, R67). -/
theorem State.VoicesKept.still {r : CueRef} (hc : s.candidate? r = some d) (ht : d.tone ≠ none) (h : s.VoicesKept 0 d) : s.serve r = s := by
  refine State.serve_blocked hc (.inr ?_)
  have unavailable : s.availableVoice r = none := by
    have far (w : Fin 4) (hw : w ∈ tableVoices) : (s.sched.voices[w]).holder.isNone = false := by
      have ne : w ≠ 0 := by rintro rfl; revert hw; decide
      obtain ⟨q, hq, -⟩ := h w ne ne
      rw [hq]
      rfl
    unfold State.availableVoice
    have none_of (p : Fin 4 → Bool) : (tableVoices.find? fun w => (s.sched.voices[w]).holder.isNone && p w) = none :=
      List.find?_eq_none.2 fun w hw => by rw [far w hw, Bool.false_and]; exact Bool.false_ne_true
    rw [none_of]
    exact none_of _
  simp only [State.judgeVoice, Cue.needsVoice, Option.isSome_iff_ne_none.2 ht, Bool.true_eq_false, if_false, unavailable]
  split
  · rfl
  · split
    next w q y hy =>
      obtain ⟨hw, held, hq, hp⟩ := State.mem_victimVoices.1 (State.voiceVictim_mem s _ hy)
      obtain ⟨q', hq', kept⟩ := h w hw hw
      have same : q = q' := Option.some.inj (congrArg Resource.holder (held.symm.trans hq'))
      subst same
      exact if_neg (by simp [Cue.outranks, Nat.not_lt.2 (kept y hq hp)])
    · rfl

end Sys2Proof.Machine
end

section
/-! SUPPORT. A voice that is given up goes to a cue that waits for it (R61 to R65, R69), and the panel entries at the end of a fade (R70,
R78): Obligation O24. -/

namespace Sys2Proof.Machine

variable {s t u x y : State} {m n : Side} {i a : Fin 24} {c d e : Cue} {v : Fin 4} {f : FadeRecord}

/-! ### The turn of a cue that waits for a voice (R63 to R66) -/

/-- The cue `d` of slot `a`, of machine `n`, with tone alone, is offered voice `v`, and no other cue that waits is served before it or takes
anything after it. -/
structure State.TakesVoice (s : State) (a : Fin 24) (d : Cue) (n : Side) (v : Fin 4) : Prop where
  slot : s.sched.table[a] = some d
  waits : d.state = .waiting
  origin : d.origin = .machine n
  cls : d.cls ≠ .echo
  silent : d.speech = none
  due : s.sched.arbDue = false
  narration : ∀ e, s.sched.narration.pending = some e → s.isCandidate e = false
  feedback : s.sched.feedback.pending = none
  heard : ∀ t : State, t.sched.voices = s.sched.voices.set v ⟨some (.slot a), none⟩ → t.voiceOf (.slot a) = some v
  path : s.sched.path.reservation ≠ some (.slot a)
  own : s.sched.voices[v] = ⟨none, none⟩ ∨ s.sched.voices[v] = ⟨none, some (.slot a)⟩
  reserved : ∀ w : Fin 4, w ≠ v → (s.sched.voices[w]).reservation ≠ some (.slot a)
  offered : s.availableVoice (.slot a) = some v
  others : ∀ (k : Fin 24) e o, s.sched.table[k] = some e → k ≠ a → s.isCandidate e = true → e.cls ≠ .echo → e.origin = .machine o →
    s.PathBlocked e ∨ (e.tone ≠ none ∧ s.ServedBefore d e ∧ s.VoicesKept v e ∧ s.voiceOf (.slot a) = none)

/-- The display does not matter for it. -/
theorem State.TakesVoice.display {D : Display} (h : s.TakesVoice a d n v) : State.TakesVoice { s with display := D } a d n v := { h with }

/-- A voice that is free, or reserved for the cue that it is given to, is held by it and reserved for nobody. -/
theorem voices_given {V : Vector Resource 4} {r : CueRef} (own : V[v] = ⟨none, none⟩ ∨ V[v] = ⟨none, some r⟩)
    (others : ∀ w : Fin 4, w ≠ v → (V[w]).reservation ≠ some r) :
    (Vector.ofFn fun w : Fin 4 => ((V.set v { V[v] with holder := some r })[w]).unreserve r) = V.set v ⟨some r, none⟩ := by
  apply Vector.ext
  intro w hw
  rw [Vector.getElem_ofFn]
  have entry := Vector.getElem_set_fin V v ⟨w, hw⟩ { V[v] with holder := some r }
  have target := Vector.getElem_set_fin V v ⟨w, hw⟩ ⟨some r, none⟩
  refine (congrArg (Resource.unreserve · r) entry).trans (Eq.trans ?_ target.symm)
  by_cases e : (⟨w, hw⟩ : Fin 4) = v
  · rw [if_pos e, if_pos e]
    rcases own with own | own <;> rw [own] <;> simp [Resource.unreserve]
  · rw [if_neg e, if_neg e, Resource.unreserve_of_ne (others _ e)]

theorem State.TakesVoice.given (h : s.TakesVoice a d n v) : (s.given (.slot a) (some v) d).dropReservations (.slot a) =
    { s with sched := { s.sched with voices := s.sched.voices.set v ⟨some (.slot a), none⟩ } } := by
  have need : s.needsPath d = false := by simp [State.needsPath, h.silent]
  rw [State.given_eq, need, if_neg Bool.false_ne_true]
  unfold State.dropReservations
  simp only [State.onSched]
  rw [voices_given h.own h.reserved, Resource.unreserve_of_ne h.path]

/-- A free voice that is reserved for a cue is offered to it (R65 step 1). -/
theorem State.availableVoice_reserved {r : CueRef} (hv : v ≠ 0) (own : s.sched.voices[v] = ⟨none, some r⟩)
    (others : ∀ w : Fin 4, w ≠ v → (s.sched.voices[w]).reservation ≠ some r) : s.availableVoice r = some v := by
  unfold State.availableVoice
  rw [find_tableVoices hv (by rw [own]; simp [Resource.reservedFor]) fun w _ hw => by
    rw [Resource.reservedFor, decide_eq_false (others w (ne_of_lt hw)), Bool.and_false]]

theorem State.other_candidate (hn : ∀ e, s.sched.narration.pending = some e → s.isCandidate e = false) {r : CueRef} (hr : r ∈ s.candidates) :
    ∃ (k : Fin 24) (e : Cue) (o : Side), r = .slot k ∧ s.sched.table[k] = some e ∧ s.isCandidate e = true ∧ e.cls ≠ .echo ∧
      e.origin = .machine o := by
  match r, hr with
  | .slot k, hr =>
    obtain ⟨e, o, he⟩ := (s.mem_candidates k).1 hr
    exact ⟨k, e, o, rfl, he⟩
  | .narration, hr =>
    obtain ⟨e, he, hc⟩ := State.narration_mem_candidates.1 hr
    rw [hn e he] at hc
    cases hc
  | .feedback, hr => exact absurd rfl (State.mem_candidates_ne_feedback _ hr)

/-- A cue stands before those that are served after it. -/
theorem State.not_before {pre post : List CueRef} {k : Fin 24} {e : Cue} {o : Side} (hc : s.candidates = pre ++ .slot a :: post)
    (hd : s.sched.table[a] = some d) (he : s.sched.table[k] = some e) (cd : s.isCandidate d = true) (ce : s.isCandidate e = true)
    (kd : d.cls ≠ .echo) (ke : e.cls ≠ .echo) (od : d.origin = .machine n) (oe : e.origin = .machine o) (h : s.ServedBefore d e) :
    CueRef.slot k ∉ pre := by
  intro hk
  have order := idxOf_lt_of_sublist (s.candidates_before hd he cd ce kd ke od oe h) s.candidates_nodup
  have fresh : CueRef.slot a ∉ pre := by
    have nodup := s.candidates_nodup
    rw [hc] at nodup
    exact fun ha => (List.nodup_append.1 nodup).2.2 _ ha _ (by simp) rfl
  rw [hc, List.idxOf_append_of_mem hk, List.idxOf_append_of_notMem fresh] at order
  have := List.idxOf_lt_length_of_mem hk
  omega

/-- The arbitration that it finds leaves it playing its pattern on that voice. -/
theorem State.TakesVoice.settles {part : TonePart} {p : Pattern} (h : s.TakesVoice a d n v) (ht : d.tone = some part)
    (hp : s.tone.patterns[part.pattern] = some p) : ∃ t : State, s.setArb.settleArb = t ∧ t = { s with
      sched := { s.sched.withStart a (d.soundingAs false .main s.sched.nextStart) n with
        voices := s.sched.voices.set v ⟨some (.slot a), none⟩ },
      tone := { s.tone with voices := s.tone.voices.set v (voiceAt part.pattern p) },
      display := s.displayOfStart t } ∧ t.RingChosen s.display.ringEffect := by
  obtain ⟨x, served, eq, ring⟩ := State.serve_toned h.slot h.waits h.origin h.silent ht hp h.offered h.given
    h.heard
  obtain ⟨t, ht'⟩ : ∃ t, t = x.withPattern v part.pattern p := ⟨_, rfl⟩
  have teq : t = { s with
      sched := { s.sched.withStart a (d.soundingAs false .main s.sched.nextStart) n with
        voices := s.sched.voices.set v ⟨some (.slot a), none⟩ },
      tone := { s.tone with voices := s.tone.voices.set v (voiceAt part.pattern p) },
      display := s.displayOfStart t } := by
    rw [ht', State.withPattern, eq]
    rfl
  rw [← ht'] at served
  have candidate : s.isCandidate d = true := State.isCandidate_of_idle h.waits (.inr (by simp [State.needsPath, h.silent]))
  obtain ⟨pre, post, split⟩ := List.append_of_mem ((s.mem_candidates a).2 ⟨d, n, h.slot, candidate, h.cls, h.origin⟩)
  have nodup := s.candidates_nodup
  rw [split] at nodup
  obtain ⟨-, later, apart⟩ := List.nodup_append.1 nodup
  have slot (k : Fin 24) (hk : k ≠ a) : t.sched.table[k] = s.sched.table[k] := by
    rw [teq]
    exact (Vector.getElem_set_fin _ _ _ _).trans (if_neg hk)
  have record : t.sched.table[a] = some (d.soundingAs false .main s.sched.nextStart) := by
    rw [teq]
    exact (Vector.getElem_set_fin _ _ _ _).trans (if_pos rfl)
  have cue (q : CueRef) (hq : q ≠ .slot a) : t.cue? q = s.cue? q := by
    cases q with
    | slot k => exact slot k fun e => hq (by rw [e])
    | narration | feedback => rw [teq]; rfl
  refine ⟨t, State.settleArb_turn h.due split (fun q hq => ?_) served (fun q hq => ?_) (by rw [teq]; exact h.due)
    (by rw [teq]; exact h.feedback), teq, ?_⟩
  · obtain ⟨k, e, o, rfl, he, ce, ke, oe⟩ := State.other_candidate h.narration (r := q) (by rw [split]; simp [hq])
    have hk : k ≠ a := fun e => apart _ hq (.slot a) (by simp) (by rw [e])
    rcases h.others k e o he hk ce ke oe with blocked | ⟨-, before, -, -⟩
    · exact blocked.still (r := .slot k) he
    · exact absurd hq (State.not_before split h.slot he candidate ce h.cls ke h.origin oe before)
  · obtain ⟨k, e, o, rfl, he, ce, ke, oe⟩ := State.other_candidate h.narration (r := q) (by rw [split]; simp [hq])
    have hk : k ≠ a := fun e => (List.nodup_cons.1 later).1 (by rw [← e]; exact hq)
    have he' : t.candidate? (.slot k) = some e := (slot k hk).trans he
    rcases h.others k e o he hk ce ke oe with ⟨speech, store, q, b, held, hb, stage⟩ | ⟨tone, before, kept, holds⟩
    · refine State.PathBlocked.still he' ⟨speech, by rw [teq]; exact store, q, b, by rw [teq]; exact held, (cue q ?_).trans hb, stage⟩
      rintro rfl
      have same : d = b := Option.some.inj (h.slot.symm.trans hb)
      rw [← same, h.waits] at stage
      exact absurd stage (by simp)
    · refine State.VoicesKept.still he' tone fun w hw _ => ?_
      by_cases hv : w = v
      · subst hv
        refine ⟨.slot a, ?_, fun y hy _ => ?_⟩
        · rw [teq]
          exact (Vector.getElem_set_fin _ _ _ _).trans (if_pos rfl)
        · have same : d.soundingAs false .main s.sched.nextStart = y := Option.some.inj (record.symm.trans hy)
          rw [← same]
          show d.cls.rank ≤ e.cls.rank
          rcases before with lt | ⟨eq, -⟩
          · omega
          · rw [eq]
      · obtain ⟨q, hq, rank⟩ := kept w hw hv
        refine ⟨q, ?_, fun y hy => rank y ((cue q ?_).symm.trans hy)⟩
        · rw [teq]
          exact ((Vector.getElem_set_fin _ _ _ _).trans (if_neg hv)).trans hq
        · rintro rfl
          exact State.voiceOf_eq_none.1 holds w (congrArg Resource.holder hq)
  · rw [ht']
    exact ring

/-- At the end of a fade, the ring chosen afresh as one cue leaves the stage and another comes on (R166). -/
theorem State.TakesVoice.ends {part : TonePart} {p : Pattern} (h : u.TakesVoice a d n v) (ht : d.tone = some part)
    (hp : u.tone.patterns[part.pattern] = some p) : ∃ t : State, u.setArb.chooseRing.settleArb = t ∧ t = { u with
      sched := { u.sched.withStart a (d.soundingAs false .main u.sched.nextStart) n with
        voices := u.sched.voices.set v ⟨some (.slot a), none⟩ },
      tone := { u.tone with voices := u.tone.voices.set v (voiceAt part.pattern p) },
      display := u.displayOfStart t } ∧ t.RingChosen (u.display.ringBut a) := by
  obtain ⟨y, hy⟩ : ∃ y, y = u.chooseRing := ⟨_, rfl⟩
  have eq := u.chooseRing_eq
  rw [← hy] at eq
  have takes : y.TakesVoice a d n v := by
    rw [eq]
    exact h.display
  have due : u.setArb.chooseRing = y.setArb := by
    rw [hy]
    rfl
  obtain ⟨t, settled, teq, ring⟩ := takes.settles ht (by rw [eq]; exact hp)
  have teq : t = { u with
      sched := { u.sched.withStart a (d.soundingAs false .main u.sched.nextStart) n with
        voices := u.sched.voices.set v ⟨some (.slot a), none⟩ },
      tone := { u.tone with voices := u.tone.voices.set v (voiceAt part.pattern p) },
      display := u.displayOfStart t } := by
    refine teq.trans ?_
    rw [eq]
    rfl
  refine ⟨t, due ▸ settled, teq, State.chooseRing_again h.slot h.waits (fun j hj => ?_) ?_ (hy ▸ ring)⟩
  · rw [teq]
    exact (Vector.getElem_set_fin _ _ _ _).trans (if_neg hj)
  · rw [teq]

/-- Arbitrations that leave one report to send. -/
theorem State.settle_arb_report {o : CueOutcome} (hs : s.Settled) (h : y.settleArb = t) (hdue : t.sched.arbDue = false) (hports : t.ports = u)
    (hl : t.links = s.links.modify m fun l => { l with done := l.done ++ [s.doneReport m c o], nextOrder := l.nextOrder + 1 }) :
    y.settle = u.onLink m fun l => l.sends (.done (s.doneReport m c o)) := by
  have same : y.settle = t.settle := by
    rw [State.settle_of_arb h, State.settle_of_arb (State.settleArb_of_not_due _ hdue)]
  rw [same, State.settle_report hs hdue hports hl]

/-! ### A voice that is given up (R65, R76) -/

/-- `u` is `s` with voice `v` given up, the record `e` in slot `i`, and nothing else changed that an arbitration reads. -/
structure State.GivesVoice (s u : State) (v : Fin 4) (i : Fin 24) (e : Cue) : Prop where
  sched : u.sched = { s.sched with
    table := s.sched.table.set i (some e), voices := s.sched.voices.set v { s.sched.voices[v] with holder := none } }
  store : u.store = s.store

theorem State.GivesVoice.voice (h : s.GivesVoice u v i e) (w : Fin 4) : u.sched.voices[w] =
    if w = v then ⟨none, (s.sched.voices[v]).reservation⟩ else s.sched.voices[w] := by
  rw [h.sched]
  exact Vector.getElem_set_fin _ _ _ _

theorem State.GivesVoice.given (h : s.GivesVoice u v i e) : u.sched.voices.set v ⟨some (.slot a), none⟩ =
    s.sched.voices.set v ⟨some (.slot a), none⟩ := by
  rw [h.sched]
  exact Vector.set_set ..

/-- The voice given up is offered to the cue it is reserved for, or the lowest free and unreserved one is. -/
theorem State.GivesVoice.offers (h : s.GivesVoice u v i e) (hv : v ≠ 0)
    (hothers : ∀ w : Fin 4, w ≠ v → (s.sched.voices[w]).reservation ≠ some (.slot a))
    (hoffer : (s.sched.voices[v]).reservation = some (.slot a) ∨ ((s.sched.voices[v]).reservation = none ∧
      ∀ w : Fin 4, w ≠ 0 → w < v → s.sched.voices[w] ≠ ⟨none, none⟩)) (hpath : u.sched.path.reservation ≠ some (.slot a)) :
    u.availableVoice (.slot a) = some v := by
  have own := h.voice v
  rw [if_pos rfl] at own
  have other (w : Fin 4) (hw : w ≠ v) := (h.voice w).trans (if_neg hw)
  rcases hoffer with res | ⟨res, low⟩
  · exact State.availableVoice_reserved hv (by rw [own, res]) fun w hw => by
      rw [other w hw]
      exact hothers w hw
  · refine State.availableVoice_lowest ⟨hpath, fun w => ?_⟩ hv (by rw [own, res]) fun w hw hlt => by
      rw [other w (ne_of_lt hlt)]
      exact low w hw hlt
    by_cases e : w = v
    · subst e
      rw [own, res]
      exact nofun
    · rw [other w e]
      exact hothers w e

/-- Nothing of it matters to the ports. -/
theorem State.GivesVoice.ports (h : s.GivesVoice u v i e) (hs : s.Settled) (hstream : t.stream = s.stream) (hstore : t.store = u.store)
    (hpath : t.sched.path = u.sched.path) : t.ports = t := by
  obtain ⟨-, check, idle, -⟩ := hs
  have store : t.store = s.store := hstore.trans h.store
  have path : t.sched.path = s.sched.path := by rw [hpath, h.sched]
  refine State.ports_of_rest ?_ fun hp => ?_
  · unfold State.checkCanBegin at check ⊢
    rw [store, path]
    exact check
  · unfold State.eligibleS State.eligibleG at idle ⊢
    rw [store, hstream]
    exact idle (store ▸ hp)

theorem State.GivesVoice.slot (h : s.GivesVoice u v i e) (k : Fin 24) :
    u.sched.table[k] = if k = i then some e else s.sched.table[k] := by
  rw [h.sched]
  exact Vector.getElem_set_fin _ _ _ _

theorem State.GivesVoice.cue (h : s.GivesVoice u v i e) {q : CueRef} {z : Cue} (hz : u.cue? q = some z) (he : e.state ≠ .playing)
    (hp : z.state = .playing) : s.cue? q = some z := by
  match q, hz with
  | .slot k, hz =>
    have slot := (h.slot k).symm.trans hz
    split at slot
    · cases slot
      exact absurd hp he
    · exact slot
  | .narration, hz =>
    rw [← hz]
    exact (congrArg (·.narration.current) h.sched).symm
  | .feedback, hz =>
    rw [← hz]
    exact (congrArg (·.feedback.current) h.sched).symm

theorem State.GivesVoice.candidate (h : s.GivesVoice u v i e) (z : Cue) : u.isCandidate z = s.isCandidate z :=
  State.isCandidate_congr (by rw [h.store]) (by rw [h.store]) z

/-- A cue with tone alone that waits for it takes the voice that is given up. -/
theorem State.GivesVoice.takes (h : s.GivesVoice u v i e) (hs : s.Settled) (hv : v ≠ 0) (slot : u.sched.table[a] = some d)
    (waits : d.state = .waiting) (origin : d.origin = .machine n) (cls : d.cls ≠ .echo) (silent : d.speech = none)
    (narration : ∀ z, s.sched.narration.pending = some z → s.isCandidate z = false) (feedback : s.sched.feedback.pending = none)
    (path : s.sched.path.reservation ≠ some (.slot a))
    (reserved : ∀ w : Fin 4, w ≠ v → (s.sched.voices[w]).reservation ≠ some (.slot a))
    (offer : (s.sched.voices[v]).reservation = some (.slot a) ∨ ((s.sched.voices[v]).reservation = none ∧
      ∀ w : Fin 4, w ≠ 0 → w < v → s.sched.voices[w] ≠ ⟨none, none⟩))
    (heard : ∀ t : State, t.sched.voices = s.sched.voices.set v ⟨some (.slot a), none⟩ → t.voiceOf (.slot a) = some v)
    (others : ∀ (k : Fin 24) z o, u.sched.table[k] = some z → k ≠ a → s.isCandidate z = true → z.cls ≠ .echo → z.origin = .machine o →
      u.PathBlocked z ∨ (z.tone ≠ none ∧ u.ServedBefore d z ∧ u.VoicesKept v z ∧ u.voiceOf (.slot a) = none)) :
    u.TakesVoice a d n v where
  slot := slot
  waits := waits
  origin := origin
  cls := cls
  silent := silent
  due := by
    rw [h.sched]
    exact hs.1
  narration z hz := by
    rw [h.sched] at hz
    rw [h.candidate]
    exact narration z hz
  feedback := by
    rw [h.sched]
    exact feedback
  heard t ht := heard t (ht.trans h.given)
  path := by
    rw [h.sched]
    exact path
  own := by
    rw [h.voice, if_pos rfl]
    exact offer.elim (fun r => .inr (by rw [r])) fun r => .inl (by rw [r.1])
  reserved w hw := by
    rw [h.voice, if_neg hw]
    exact reserved w hw
  offered := h.offers hv reserved offer (by rw [h.sched]; exact path)
  others k z o hz hk hc := others k z o hz hk (h.candidate z ▸ hc)

theorem State.GivesVoice.holds_none (h : s.GivesVoice u v i e) (ha : s.voiceOf (.slot a) = none) : u.voiceOf (.slot a) = none := by
  refine State.voiceOf_eq_none.2 fun w => ?_
  rw [h.voice]
  split
  · exact nofun
  · exact State.voiceOf_eq_none.1 ha w

/-- Voices kept from a cue stay so as a cue that does not play takes the slot. -/
theorem State.GivesVoice.kept (h : s.GivesVoice u v i e) (he : e.state ≠ .playing) {z : Cue} (hz : s.VoicesKept v z) : u.VoicesKept v z := by
  intro w hw hwv
  obtain ⟨q, hq, rank⟩ := hz w hw hwv
  exact ⟨q, by rw [h.voice, if_neg hwv, hq], fun y hy hp => rank y (h.cue hy he hp) hp⟩

theorem State.GivesVoice.reported (hpath : s.sched.path.holder ≠ some (.slot i)) (o : CueOutcome) :
    s.GivesVoice ((s.freed i (some v)).reported i c m o) v i (c.toReporting o) := by
  rw [State.freed_eq, State.freedBy_voice hpath]
  exact ⟨rfl, rfl⟩

theorem State.GivesVoice.returned (hpath : s.sched.path.holder ≠ some (.slot i)) : s.GivesVoice { s.freed i (some v) with
    sched := { (s.freed i (some v)).sched with table := s.sched.table.set i (some c.returned) } } v i c.returned := by
  rw [State.freed_eq, State.freedBy_voice hpath]
  exact ⟨rfl, rfl⟩

/-! ### The end of a fade that gives up a voice -/

/-- The cue of slot `a` plays its pattern on voice `v`, which `s` gives up; `t` chooses the ring (R66, R136). -/
def State.playsOn (s u : State) (a : Fin 24) (d : Cue) (n : Side) (v : Fin 4) (q : Fin 32) (p : Pattern) (t : State) : State :=
  { u with
    sched := { u.sched.withStart a (d.soundingAs false .main s.sched.nextStart) n with
      voices := s.sched.voices.set v ⟨some (.slot a), none⟩ },
    tone := { s.tone with voices := s.tone.voices.set v (voiceAt q p) },
    display := s.displayOfStart t }

section fades

variable {q : Fin 32} {p : Pattern} {part : TonePart} (hs : s.AtRest) (hc : s.sched.table[i] = some c) (hst : c.state = .ending)
  (hf : c.fade = some f) (hle : f.factor ≤ 16) (hpath : s.sched.path.holder ≠ some (.slot i)) (hvoice : s.voiceOf (.slot i) = some v)
include hs hc hst hf hle hpath hvoice

/-- A cue that ends quietly is reported, and its voice goes to a cue that takes it. -/
theorem exec_fadeTimerExpiry_hands (ho : c.origin = .machine m) (hq : s.EndsQuietly m i) {o : CueOutcome} (h : c.fadeOutcome = some o)
    (takes : ((s.freed i (some v)).reported i c m o).TakesVoice a d n v) (ht : d.tone = some part)
    (hp : s.tone.patterns[part.pattern] = some p) : ∃ t : State,
      exec (.fadeTimerExpiry (.slot i)) s = .next (t.onLink m fun l => l.sends (.done (s.doneReport m c o))) ∧
      t = s.playsOn (s.reported i c m o) a d n v part.pattern p t ∧ t.RingChosen (s.display.ringBut a) := by
  have gives := State.GivesVoice.reported (c := c) (m := m) (v := v) hpath o
  have report : ((s.freed i (some v)).reported i c m o).links = s.links.modify m fun l =>
      { l with done := l.done ++ [s.doneReport m c o], nextOrder := l.nextOrder + 1 } := rfl
  obtain ⟨t, settled, eq, ring⟩ := takes.ends (p := p) ht hp
  rw [exec_fadeTimerExpiry_ends hs (r := .slot i) hc hst hf hle, State.fadeResult_quiet hc hvoice (.inr nofun) ho hq h]
  refine ⟨t, congrArg _ (State.settle_arb_report hs.2 settled (by rw [eq]; exact takes.due) (gives.ports hs.2 ?_ ?_ ?_) ?_), ?_, ring⟩
  · rw [eq, State.freed_eq, State.freedBy_voice hpath]
    rfl
  · rw [eq]
  · rw [eq]
    rfl
  · rw [eq]
    exact report
  · refine eq.trans ?_
    rw [State.freed_eq, State.freedBy_voice hpath]
    simp only [State.playsOn, State.reported, Sched.withStart, Vector.set_set]
    rfl

/-- A preempted cue waits again, and its voice goes to a cue that takes it. -/
theorem exec_fadeTimerExpiry_yields (h : c.endCause = some .preempted) (hd : c.deadlinePassed = false)
    (takes : State.TakesVoice { s.freed i (some v) with
      sched := { (s.freed i (some v)).sched with table := s.sched.table.set i (some c.returned) } } a d n v) (ht : d.tone = some part)
    (hp : s.tone.patterns[part.pattern] = some p) : ∃ t : State, exec (.fadeTimerExpiry (.slot i)) s = .next t ∧
      t = s.playsOn { s with sched := { s.sched with table := s.sched.table.set i (some c.returned) } } a d n v part.pattern p t ∧
      t.RingChosen (s.display.ringBut a) := by
  obtain ⟨t, settled, eq, ring⟩ := takes.ends (p := p) ht hp
  rw [exec_fadeTimerExpiry_ends hs (r := .slot i) hc hst hf hle, State.fadeResult_waits hvoice (.inr nofun) h hd]
  have eq : t = s.playsOn { s with sched := { s.sched with table := s.sched.table.set i (some c.returned) } } a d n v part.pattern p t := by
    refine eq.trans ?_
    rw [State.freed_eq, State.freedBy_voice hpath]
    simp only [State.playsOn, Sched.withStart, Vector.set_set]
    rfl
  refine ⟨t, congrArg _ (State.settle_of_arb_settled settled ?_), eq, ring⟩
  rw [eq]
  exact hs.2

end fades

/-! ### The panel entries at the end of a fade (R70, R78) -/

/-- The start of a pending feedback cue with tone alone: `x` is the part once it is given voice 0 and its reservations are gone. -/
theorem State.startCue_feedbackTone {part : TonePart} {p : Pattern} (hc : s.sched.feedback.pending = some d) (ho : d.origin = .panel)
    (hsp : d.speech = none) (ht : d.tone = some part) (hp : s.tone.patterns[part.pattern] = some p) :
    ∃ x : State, s.startCue .feedback (some 0) = x.withPattern 0 part.pattern p ∧
      x.sched.feedback = ⟨none, some (d.soundingAs false .main s.sched.nextStart)⟩ ∧ x.sched.nextStart = s.sched.nextStart + 1 ∧
      (x.sched.voices[(0 : Fin 4)]).holder = some .feedback ∧ x.sched.arbDue = s.sched.arbDue := by
  have need : s.needsPath d = false := by simp [State.needsPath, hsp]
  obtain ⟨g, hg⟩ : ∃ g, g = (s.given .feedback (some 0) d).dropReservations .feedback := ⟨_, rfl⟩
  have gtone : g.tone = s.tone ∧ g.sched.nextStart = s.sched.nextStart ∧ g.sched.arbDue = s.sched.arbDue := by
    rw [hg, State.given_eq]
    exact ⟨rfl, rfl, rfl⟩
  have gvoice : (g.sched.voices[(0 : Fin 4)]).holder = some .feedback := by
    rw [hg, State.given_eq]
    refine (congrArg Resource.holder (Vector.getElem_ofFn (by decide))).trans ((Resource.unreserve_holder _ _).trans ?_)
    exact congrArg Resource.holder ((Vector.getElem_set_fin _ _ _ _).trans (if_pos rfl))
  have placed : s.placed .feedback (some 0) d = g.onSched fun sc =>
      { sc with feedback := ⟨none, some (d.soundingAs false .main s.sched.nextStart)⟩, nextStart := sc.nextStart + 1 } := by
    have parts : s.placed .feedback (some 0) d = g.onSched fun sc =>
        { (sc.serveMarker d).placeStarted .feedback (d.started (s.needsPath d) s.sched.nextStart s.now) with nextStart := sc.nextStart + 1 } := by
      rw [hg]
      rfl
    rw [parts, need, Cue.started_toned hsp ht]
    simp only [Sched.serveMarker, ho]
    rfl
  have start := State.startCue_eq (s := s) (r := .feedback) (some 0) hc
  rw [need, if_neg Bool.false_ne_true, placed, Cue.started_toned hsp ht, State.beginFirstPhase_toned ht] at start
  obtain ⟨y, hy⟩ : ∃ y : State, y = g.onSched fun sc =>
    { sc with feedback := ⟨none, some (d.soundingAs false .main s.sched.nextStart)⟩, nextStart := sc.nextStart + 1 } := ⟨_, rfl⟩
  rw [← hy] at start
  obtain ⟨eq, -⟩ := y.startDisplay_eq
  generalize y.wakeBacklight.stopIdle.chooseRing = x at start eq
  have sched : x.sched = y.sched ∧ x.tone = y.tone := by
    rw [eq]
    exact ⟨rfl, rfl⟩
  have holder : (x.sched.voices[(0 : Fin 4)]).holder = some .feedback := by
    rw [sched.1, hy]
    exact gvoice
  refine ⟨x, start.trans ?_, ?_, ?_, holder, ?_⟩
  · refine State.beginTone_eq (c := d.soundingAs false .main s.sched.nextStart) ?_ ?_ ht ?_
    · show x.sched.feedback.current = _
      rw [sched.1, hy]
      rfl
    · exact (find_allVoices _ _).2 ⟨by simpa using holder, fun w hw => absurd hw (by simp)⟩
    · rw [sched.2, hy]
      show g.tone.patterns[part.pattern] = _
      rw [gtone.1]
      exact hp
  · rw [sched.1, hy]
    rfl
  · rw [sched.1, hy]
    exact congrArg (· + 1) gtone.2.1
  · rw [sched.1, hy]
    exact gtone.2.2

/-- What the end of the fade of the current feedback cue leaves to the arbitration. -/
theorem State.feedbackFade (hv : (s.sched.voices[(0 : Fin 4)]).holder = some .feedback) (hp : s.sched.path.holder ≠ some .feedback) :
    ∃ D : Display, ((s.freeResources .feedback).fadeResult .feedback c).chooseRing = { s with
      sched := { s.sched with
        voices := s.sched.voices.set 0 { s.sched.voices[(0 : Fin 4)] with holder := none },
        feedback := ⟨s.sched.feedback.pending, none⟩, arbDue := true },
      tone := { s.tone with voices := s.tone.voices.set 0 idleVoice }, display := D } := by
  have voice : s.voiceOf .feedback = some 0 :=
    (find_allVoices _ _).2 ⟨by simpa using hv, fun w hw => absurd hw (by simp)⟩
  rw [State.freeResources_frees voice (.inr nofun), State.freedBy_voice hp]
  exact ⟨_, State.chooseRing_eq _⟩

/-- The end of the fade of a feedback cue with none pending: the entry empty, voice 0 free and idle. -/
theorem State.settleArb_emptiesFeedback (hfb : s.sched.feedback = ⟨none, none⟩) (hv : (s.sched.voices[(0 : Fin 4)]).holder = none)
    (ht : s.tone.voices[(0 : Fin 4)] = idleVoice) : s.settleArb.sched.feedback = ⟨none, none⟩ ∧
      (s.settleArb.sched.voices[(0 : Fin 4)]).holder = none ∧ s.settleArb.tone.voices[(0 : Fin 4)] = idleVoice := by
  have secure : State.Secure (some .feedback) s := by
    refine ⟨fun _ _ e => (CueRef.noConfusion (Option.some.inj e)), fun r c hr hc => ?_, fun _ r _ => ?_⟩
    · cases hr
      rw [show s.cue? .feedback = none from congrArg (·.current) hfb] at hc
      cases hc
    · rw [hv]
      exact (Option.some_ne_none r).symm
  have view := (State.arbitrateFor_sparesFeedback arbitrationBound secure (.inl (by rw [hfb]))).view _ rfl
  have voice := congrArg CueView.voice0 view
  simp only [State.view, if_true, Option.some.injEq, Prod.mk.injEq] at voice
  exact ⟨congrArg₂ PanelEntry.mk ((congrArg CueView.pending view).trans (congrArg (·.pending) hfb))
    ((congrArg CueView.current view).trans (congrArg (·.current) hfb)), voice.1.trans hv, voice.2.trans ht⟩

/-- With no other candidate the feedback cue that waited behind it plays. -/
theorem State.settleArb_nextFeedback {part : TonePart} {p : Pattern} (hdue : s.sched.arbDue = true) (hnone : s.candidates = [])
    (hfb : s.sched.feedback.pending = some d) (hv : (s.sched.voices[(0 : Fin 4)]).holder = none) (ho : d.origin = .panel)
    (hsp : d.speech = none) (ht : d.tone = some part) (hp : s.tone.patterns[part.pattern] = some p) :
    s.settleArb.sched.feedback = ⟨none, some (d.soundingAs false .main (s.settleArb.sched.nextStart - 1))⟩ ∧
      (s.settleArb.sched.voices[(0 : Fin 4)]).holder = some .feedback ∧ s.settleArb.tone.voices[(0 : Fin 4)] = voiceAt part.pattern p := by
  obtain ⟨x, start, entry, next, holder, due⟩ := State.startCue_feedbackTone (s := s.clearArb) hfb ho hsp ht hp
  have none_left : s.clearArb.candidates = [] := hnone
  have turn : s.clearArb.arbitrate = x.withPattern 0 part.pattern p := by
    have pending : s.clearArb.sched.feedback.pending = some d := hfb
    have free : (s.clearArb.sched.voices[(0 : Fin 4)]).holder = none := hv
    rw [State.arbitrate, none_left, List.foldl_nil, State.serveFeedback, pending, free]
    exact start
  rw [State.settleArb_once hdue turn due]
  refine ⟨?_, holder, (Vector.getElem_set_fin _ _ _ _).trans (if_pos rfl)⟩
  show x.sched.feedback = ⟨none, some (d.soundingAs false .main (x.sched.nextStart - 1))⟩
  rw [entry, next]
  rfl

end Sys2Proof.Machine
end

section
/-! SUPPORT. What the end of a fade leaves of its cue and to whom it yields a voice: Obligation O24. -/

namespace Sys2Proof.Machine

variable {s t u x y : State} {m n : Side} {i a : Fin 24} {c d e : Cue} {v : Fin 4} {f : FadeRecord}

section fades

variable (hs : s.AtRest) (hc : s.sched.table[i] = some c) (hst : c.state = .ending) (hf : c.fade = some f) (hle : f.factor ≤ 16)
include hs hc hst hf hle

/-- A preempted cue that a store check bars waits on. -/
theorem exec_fadeTimerExpiry_barred (h : c.endCause = some .preempted) (hd : c.deadlinePassed = false) (hsp : c.speech ≠ none)
    (hok : s.store.state = .ok) (hck : s.store.check ≠ .idle) :
    ∃ t, exec (.fadeTimerExpiry (.slot i)) s = .next t ∧ t.sched.table[i] = some c.returned := by
  obtain ⟨z, hz⟩ : ∃ z, z = s.freeResources (.slot i) := ⟨_, rfl⟩
  have frame := (s.freeResources_frame (.slot i)).store
  rw [← hz] at frame
  have slot : (z.setCue (.slot i) (some c.returned)).setArb.sched.table[i] = some c.returned := (z.setCue_withSlot i _).slot
  have passes : (z.setCue (.slot i) (some c.returned)).setArb.PassesOver i := by
    intro e he
    have same : c.returned = e := Option.some.inj (slot.symm.trans he)
    refine ⟨same ▸ nofun, same ▸ nofun, ?_⟩
    have need : z.needsPath e = true := State.needsPath_iff.2 ⟨same ▸ hsp, by rw [frame]; exact hok⟩
    have active : z.checkActive = true := by
      have busy : z.store.check ≠ .idle := by rw [frame]; exact hck
      simpa [State.checkActive] using busy
    show (_ && !(z.checkActive && z.needsPath e)) = false
    rw [need, active]
    exact Bool.and_false _
  rw [exec_fadeTimerExpiry_ends hs (r := .slot i) hc hst hf hle, State.fadeResult_returned h hd, ← hz]
  exact ⟨_, rfl, (State.chooseRing_settleSlot passes).trans slot⟩

/-- A cue with tone alone plays again on its voice. -/
theorem exec_fadeTimerExpiry_again {tone : TonePart} {p : Pattern} (ho : c.origin = .machine m) (h : c.endCause = some .preempted)
    (hd : c.deadlinePassed = false) (he : c.cls ≠ .echo) (hsp : c.speech = none) (ht : c.tone = some tone)
    (hp : s.tone.patterns[tone.pattern] = some p) (hnone : s.NothingToServe) (hu : s.Unreserved (.slot i))
    (hpath : s.sched.path.holder ≠ some (.slot i)) (hvoice : s.voiceOf (.slot i) = some v) (hv : v ≠ 0)
    (hres : (s.sched.voices[v]).reservation = none) (hlow : ∀ w : Fin 4, w ≠ 0 → w < v → s.sched.voices[w] ≠ ⟨none, none⟩) :
    ∃ t : State, exec (.fadeTimerExpiry (.slot i)) s = .next t ∧ t = { s with
      sched := s.sched.withStart i (c.soundingAs false .main s.sched.nextStart) m,
      tone := { s.tone with voices := s.tone.voices.set v (voiceAt tone.pattern p) },
      display := s.displayOfStart t } ∧ t.RingChosen (s.display.ringBut i) := by
  obtain ⟨table, narration⟩ := State.candidates_eq_nil_iff.1 hnone.1
  have mine : s.sched.voices.set v ⟨some (.slot i), none⟩ = s.sched.voices := by
    have own : s.sched.voices[v] = ⟨some (.slot i), none⟩ := by
      have held := State.voiceOf_holder hvoice
      cases hx : s.sched.voices[v] with
      | mk holder reservation =>
        rw [hx] at held hres
        exact congrArg₂ Resource.mk held hres
    rw [← own]
    exact Vector.set_getElem_self _
  have gives := State.GivesVoice.returned (c := c) (v := v) hpath
  have slot := (gives.slot i).trans (if_pos rfl)
  have takes := gives.takes hs.2 hv slot rfl ho he hsp narration hnone.2 hu.1 (fun w _ => hu.2 w) (.inr ⟨hres, hlow⟩)
    (fun t ht => by rw [← hvoice, State.voiceOf, ht, mine]; rfl) fun k z o hz hk hcand hz' hzo => by
      rw [gives.slot, if_neg hk] at hz
      exact absurd ((table k z o hz hz' hzo).symm.trans hcand) nofun
  obtain ⟨t, exec_eq, eq, ring⟩ := exec_fadeTimerExpiry_yields hs hc hst hf hle hpath hvoice h hd takes ht hp
  refine ⟨t, exec_eq, eq.trans ?_, ring⟩
  simp only [State.playsOn, Sched.withStart, Vector.set_set, mine]
  rfl

/-- A cue that is cancelled gives up its voice, and no other waits for it. -/
theorem exec_fadeTimerExpiry_frees {o : CueOutcome} {w : Option (Fin 4)} (ho : c.origin = .machine m) (h : c.fadeOutcome = some o)
    (hvoice : s.voiceOf (.slot i) = w) (hheld : s.sched.path.holder = some (.slot i) ∨ w ≠ none) (hq : s.EndsQuietly m i)
    (hnone : s.NothingToServe) (hfree : s.FreesQuietly i) : ∃ t : State,
      exec (.fadeTimerExpiry (.slot i)) s = .next (t.onLink m fun l => l.sends (.done (s.doneReport m c o))) ∧
      t = { (s.freed i w).reported i c m o with display := { s.display with ringEffect := t.display.ringEffect } } ∧
      t.RingChosen s.display.ringEffect := by
  rw [exec_fadeTimerExpiry_ends hs (r := .slot i) hc hst hf hle, State.fadeResult_quiet hc hvoice hheld ho hq h]
  obtain ⟨u, hu⟩ : ∃ u, u = (s.freed i w).reported i c m o := ⟨_, rfl⟩
  have display : u.display = s.display := by
    rw [hu]
    rfl
  have eq : u.chooseRing = { (s.freed i w).reported i c m o with
      display := { s.display with ringEffect := u.chooseRing.display.ringEffect } } := by
    rw [← hu, ← display]
    exact u.chooseRing_eq
  have ports : s.sched.path.holder ≠ some (.slot i) → s.checkCanBegin = false ∧
      (s.store.port = .idle → s.eligibleS = false ∧ s.eligibleG = false) := fun _ => ⟨hs.2.2.1, hs.2.2.2.1⟩
  have settled := State.settle_freed_reported (s := s) (z := s) rfl hnone hs.2.1 ports hfree hs.2 eq
  refine ⟨u.chooseRing, ?_, eq, display ▸ State.chooseRing_chosen u⟩
  rw [← hu]
  exact congrArg _ settled

end fades

/-! ### To whom a voice goes (R63 to R65) -/

theorem State.GivesVoice.waiter (gives : s.GivesVoice u v i e) (hst : c.state = .ending) (hc : s.sched.table[i] = some c)
    (hd : s.sched.table[a] = some d) (hw : d.state = .waiting) : u.sched.table[a] = some d := by
  refine (gives.slot a).trans ((if_neg ?_).trans hd)
  rintro rfl
  rw [hc] at hd
  cases hd
  exact absurd (hst.symm.trans hw) nofun

theorem State.isCandidate_waiting (h : s.isCandidate d = true) : d.state = .waiting := by
  simp only [State.isCandidate, Bool.and_eq_true, decide_eq_true_eq] at h
  exact h.1

theorem State.GivesVoice.before (gives : s.GivesVoice u v i e) {z : Cue} (h : s.ServedBefore d z) : u.ServedBefore d z := by
  have same : u.sched.firstServed = s.sched.firstServed := by
    rw [gives.sched]
    rfl
  unfold State.ServedBefore
  rw [same]
  exact h

section waiters

variable {part : TonePart} {o : CueOutcome} (hs : s.AtRest) (hst : c.state = .ending) (hc : s.sched.table[i] = some c)
  (hpath : s.sched.path.holder ≠ some (.slot i)) (hv : v ≠ 0) (hd : s.sched.table[a] = some d) (hw : d.state = .waiting)
  (horigin : d.origin = .machine n) (hcls : d.cls ≠ .echo) (hsp : d.speech = none) (hva : s.voiceOf (.slot a) = none)
  (hnp : s.sched.narration.pending = none) (hfp : s.sched.feedback.pending = none)
include hs hst hc hpath hv hd hw horigin hcls hsp hva hnp hfp

/-- Of many cues that wait for a voice, the one served first takes it. -/
theorem State.firstWaiter_takes (hres : (s.sched.voices[v]).reservation = none) (hu : s.Unreserved (.slot a))
    (hvoices : ∀ w : Fin 4, w ≠ 0 → w ≠ v → ∃ h, s.sched.voices[w] = ⟨some h, none⟩ ∧
      ∀ y, s.cue? h = some y → y.state = .playing → ∀ (k : Fin 24) d, s.sched.table[k] = some d →
        d.state = .waiting → d.speech = none → y.cls.rank ≤ d.cls.rank)
    (hothers : ∀ (k : Fin 24) z, s.sched.table[k] = some z → k ≠ a → z.state = .waiting →
      s.PathBlocked z ∨ (z.speech = none ∧ z.tone ≠ none ∧ s.ServedBefore d z)) :
    ((s.freed i (some v)).reported i c m o).TakesVoice a d n v := by
  have gives := State.GivesVoice.reported (c := c) (m := m) (v := v) hpath o
  obtain ⟨u, hu'⟩ : ∃ u, u = (s.freed i (some v)).reported i c m o := ⟨_, rfl⟩
  rw [← hu'] at gives ⊢
  refine gives.takes hs.2 hv (gives.waiter hst hc hd hw) hw horigin hcls hsp
    (fun z hz => absurd (hnp.symm.trans hz) nofun) hfp hu.1 (fun w _ => hu.2 w) (.inr ⟨hres, fun w hw hlt => ?_⟩)
    (fun t ht => State.voiceOf_given (s := s) ht hva) fun k z q hz hk hcand _ _ => ?_
  · obtain ⟨h, held, -⟩ := hvoices w hw (ne_of_lt hlt)
    rw [held]
    exact nofun
  · have waits := State.isCandidate_waiting hcand
    have hz : s.sched.table[k] = some z := by
      have slot := (gives.slot k).symm.trans hz
      split at slot
      · cases slot
        exact absurd waits nofun
      · exact slot
    rcases hothers k z hz hk waits with ⟨speech, store, q, b, held, hb, stage⟩ | ⟨silent, tone, before⟩
    · refine .inl ⟨speech, by rw [gives.store]; exact store, q, b, by rw [gives.sched]; exact held, ?_, stage⟩
      have far : q ≠ .slot i := fun e => hpath (e ▸ held)
      match q, far, hb with
      | .slot j, far, hb => exact ((gives.slot j).trans (if_neg fun e => far (by rw [e]))).trans hb
      | .narration, _, hb => exact (congrArg (·.narration.current) gives.sched).trans hb
      | .feedback, _, hb => exact (congrArg (·.feedback.current) gives.sched).trans hb
    · have kept : s.VoicesKept v z := fun w hw hwv => by
        obtain ⟨h, held, rank⟩ := hvoices w hw hwv
        exact ⟨h, held, fun y hy hp => rank y hy hp k z hz waits silent⟩
      exact .inr ⟨tone, gives.before before, gives.kept nofun kept, gives.holds_none hva⟩

omit hpath in
/-- A voice goes to the cue that it is reserved for. -/
theorem State.GivesVoice.reserver_takes (gives : s.GivesVoice u v i e) (hres : (s.sched.voices[v]).reservation = some (.slot a))
    (hpr : s.sched.path.reservation ≠ some (.slot a)) (hothers : ∀ w : Fin 4, w ≠ v → (s.sched.voices[w]).reservation ≠ some (.slot a))
    (hwaits : ∀ (k : Fin 24) z, s.sched.table[k] = some z → k ≠ a → z.state ≠ .waiting) (hplay : e.state ≠ .playing)
    (he : e.state = .waiting → e.tone ≠ none ∧ d.cls.rank < e.cls.rank ∧ s.VoicesKept v e) : u.TakesVoice a d n v := by
  refine gives.takes hs.2 hv (gives.waiter hst hc hd hw) hw horigin hcls hsp (fun z hz => absurd (hnp.symm.trans hz) nofun) hfp hpr hothers
    (.inl hres) (fun t ht => State.voiceOf_given (s := s) ht hva) fun k z q hz hk hcand _ _ => .inr ?_
  have waits := State.isCandidate_waiting hcand
  have slot := (gives.slot k).symm.trans hz
  split at slot
  · cases slot
    obtain ⟨tone, rank, kept⟩ := he waits
    exact ⟨tone, .inl rank, gives.kept hplay kept, gives.holds_none hva⟩
  · exact absurd waits (hwaits k z slot hk)

end waiters

/-- Settles O24. -/
theorem fadeEndFreesAndReturns : Obligations.FadeEndFreesAndReturns := by
  refine ⟨fun s i c m f hs hc ho hst hf hle => ⟨fun h hd hsp hok hck => ?_,
    fun v tone p h hd he hsp ht hp hnone hu hpath hvoice hv hres hlow => ?_, fun v h hpath hvoice hq hnone => ?_,
    fun v a d n tone p hpath hvoice hv hd hw horigin hcls hsp ht hp hva hnp hfp => ⟨fun h hq hres hu hvoices hothers => ?_,
      fun hres hpr hothers hwaits => ⟨fun h hq => ?_, fun h hlate htn hrank hvoices => ?_⟩⟩⟩,
    fun s c f hs hc hst hf hle => ?_, fun s c f next hs hc hst hf hle hv hpath => ?_⟩
  · exact exec_fadeTimerExpiry_barred hs hc hst hf hle h hd hsp hok hck
  · exact exec_fadeTimerExpiry_again hs hc hst hf hle ho h hd he hsp ht hp hnone hu hpath hvoice hv hres hlow
  · exact exec_fadeTimerExpiry_frees hs hc hst hf hle ho (by simp [Cue.fadeOutcome, h]) hvoice (.inr nofun) hq hnone
      fun held => absurd held hpath
  · have takes := State.firstWaiter_takes (m := m) (o := .cancelled) hs hst hc hpath hv hd hw horigin hcls hsp hva hnp hfp hres hu hvoices hothers
    exact exec_fadeTimerExpiry_hands hs hc hst hf hle hpath hvoice ho hq (by simp [Cue.fadeOutcome, h]) takes ht hp
  · have takes := State.GivesVoice.reserver_takes hs hst hc hv hd hw horigin hcls hsp hva hnp hfp
      (.reported (c := c) (m := m) hpath .displaced) hres hpr hothers hwaits nofun nofun
    exact exec_fadeTimerExpiry_hands hs hc hst hf hle hpath hvoice ho hq (by simp [Cue.fadeOutcome, h]) takes ht hp
  · have takes := State.GivesVoice.reserver_takes hs hst hc hv hd hw horigin hcls hsp hva hnp hfp
      (.returned (c := c) hpath) hres hpr hothers hwaits nofun fun _ => ⟨htn, hrank, hvoices⟩
    exact exec_fadeTimerExpiry_yields hs hc hst hf hle hpath hvoice h hlate takes ht hp
  · rw [exec_fadeTimerExpiry_ends hs (r := .narration) (congrArg (·.current) hc) hst hf hle]
    obtain ⟨y, hy⟩ : ∃ y, y = ((s.freeResources .narration).fadeResult .narration c).chooseRing := ⟨_, rfl⟩
    have entry : y.sched.narration = ⟨none, none⟩ := by
      rw [hy, State.chooseRing_sched]
      show { (s.freeResources .narration).sched.narration with current := none } = _
      rw [s.freeResources_sched .narration]
      exact congrArg (fun x : PanelEntry => { x with current := none }) hc
    rw [← hy]
    refine ⟨_, rfl, ?_⟩
    rw [State.settle_sched, State.settleArb_barsNarration (fun z hz => absurd (hz.symm.trans (congrArg (·.current) entry)) nofun)
      fun z hz => absurd (hz.symm.trans (congrArg (·.pending) entry)) nofun]
    exact entry
  · rw [exec_fadeTimerExpiry_ends hs (r := .feedback) (congrArg (·.current) hc) hst hf hle]
    obtain ⟨D, fades⟩ := State.feedbackFade (c := c) hv hpath
    rw [fades, hc]
    refine ⟨_, rfl, ?_⟩
    rw [State.settle_sched, State.settle_tone]
    have free : ((s.sched.voices.set 0 { s.sched.voices[(0 : Fin 4)] with holder := none })[(0 : Fin 4)]).holder = none :=
      congrArg Resource.holder ((Vector.getElem_set_fin _ (0 : Fin 4) 0 _).trans (if_pos rfl))
    have idle : (s.tone.voices.set 0 idleVoice)[(0 : Fin 4)] = idleVoice := (Vector.getElem_set_fin _ (0 : Fin 4) 0 _).trans (if_pos rfl)
    refine ⟨fun h => ?_, fun d tone p hnone _ h horigin hsp ht hp => ?_⟩
    · exact State.settleArb_emptiesFeedback (by rw [h]) free idle
    · exact State.settleArb_nextFeedback rfl hnone h free horigin hsp ht hp

end Sys2Proof.Machine
end

section
/-! SUPPORT. The speech path at the end of its holder's fade (R64, R65, R69, R76, R77): Obligation O23. -/

namespace Sys2Proof.Machine

variable {s t u x y : State} {m n : Side} {i a : Fin 24} {c d e : Cue} {v : Fin 4} {f : FadeRecord}

/-! ### The first phase (R71, R72) -/

theorem State.beginUtterance_sched {r : CueRef} (h : s.utt.entries ≠ []) : (s.beginUtterance r).sched = s.sched := by
  unfold State.beginUtterance
  rw [if_neg (by simpa using h)]
  rfl

/-- A cue with both parts and something to say leaves the scheduler as it begins. -/
theorem State.beginFirstPhase_sched {r : CueRef} {k : Nat} {part : TonePart} (ht : d.tone = some part) (h : s.utt.entries ≠ []) :
    (s.beginFirstPhase r (d.soundingAs true (if part.timing = .before then .lead else .main) k)).sched = s.sched := by
  rw [State.beginFirstPhase_twoPart ht]
  obtain ⟨sched, utt⟩ := s.beginTone_leaves r
  cases part.timing with
  | before => exact sched
  | together => exact (State.beginUtterance_sched (by rw [utt]; exact h)).trans sched
  | after => exact State.beginUtterance_sched h

/-! ### A path that is reserved when it is given up (R64, R65, R69) -/

/-- `u` is `s` with the speech path given up, reserved for slot `a`, the record `e` in slot `i`, and nothing else changed that an arbitration
reads. -/
structure State.GivesPath (s u : State) (i a : Fin 24) (e : Cue) : Prop where
  sched : u.sched = { s.sched with table := s.sched.table.set i (some e), path := ⟨none, some (.slot a)⟩ }
  store : u.store = { s.store with chanS := idleChannelS, port := if s.store.port = .s then .idle else s.store.port }
  stream : u.stream = idleStream
  ctx : u.ctx = s.ctx

theorem State.GivesPath.display {D : Display} (h : s.GivesPath u i a e) : s.GivesPath { u with display := D } i a e := { h with }

theorem State.GivesPath.slot (h : s.GivesPath u i a e) (k : Fin 24) :
    u.sched.table[k] = if k = i then some e else s.sched.table[k] := by
  rw [h.sched]
  exact Vector.getElem_set_fin _ _ _ _

/-- What is given up when the path alone is held. -/
theorem State.freed_path (hpath : s.sched.path = ⟨some (.slot i), some (.slot a)⟩) : s.freed i none = { s with
    sched := { s.sched with path := ⟨none, some (.slot a)⟩ }, utt := ⟨[], none⟩, stream := idleStream,
    store := { s.store with chanS := idleChannelS, port := if s.store.port = .s then .idle else s.store.port } } := by
  unfold State.freed
  simp only [hpath, if_true]

theorem State.GivesPath.reported (hpath : s.sched.path = ⟨some (.slot i), some (.slot a)⟩) (o : CueOutcome) :
    s.GivesPath ((s.freed i none).reported i c m o) i a (c.toReporting o) := by
  rw [State.freed_path hpath]
  exact ⟨rfl, rfl, rfl, rfl⟩

theorem State.GivesPath.returned (hpath : s.sched.path = ⟨some (.slot i), some (.slot a)⟩) : s.GivesPath { s.freed i none with
    sched := { (s.freed i none).sched with table := s.sched.table.set i (some c.returned) } } i a c.returned := by
  rw [State.freed_path hpath]
  exact ⟨rfl, rfl, rfl, rfl⟩

/-- The cue `d` of slot `a`, of machine `n`, waits for its speech in `s`, nothing else does, and no check bars it; the record `e` that slot `i`
is left with waits at most behind it. -/
structure State.Awaits (s : State) (i a : Fin 24) (d e : Cue) (n : Side) (items : List PhraseItem) : Prop where
  due : s.sched.arbDue = false
  slot : s.sched.table[a] = some d
  apart : a ≠ i
  waits : d.state = .waiting
  origin : d.origin = .machine n
  cls : d.cls ≠ .echo
  speech : d.speech = some items
  store : s.store.state = .ok
  check : s.store.check = .idle
  narration : s.sched.narration.pending = none
  feedback : s.sched.feedback.pending = none
  others : ∀ (k : Fin 24) z, s.sched.table[k] = some z → k ≠ a → k ≠ i → z.state ≠ .waiting
  behind : e.state = .waiting → e.speech ≠ none ∧ d.cls.rank < e.cls.rank

section awaits

variable {items : List PhraseItem} (h : s.Awaits i a d e n items) (g : s.GivesPath u i a e)
include h g

theorem State.Awaits.now_slot : u.sched.table[a] = some d := (g.slot a).trans ((if_neg h.apart).trans h.slot)

theorem State.Awaits.needs : u.needsPath d = true :=
  State.needsPath_iff.2 ⟨by rw [h.speech]; exact nofun, by rw [g.store]; exact h.store⟩

/-- The reserver is served first, and at most the cue that gives up the path after it. -/
theorem State.Awaits.candidates : ∃ post, u.candidates = .slot a :: post ∧ ∀ q ∈ post, q = .slot i ∧ e.state = .waiting := by
  have waits (z : Cue) (hz : z.state = .waiting) : u.isCandidate z = true :=
    State.isCandidate_of_idle hz (.inl (by rw [g.store]; exact h.check))
  have narration (z : Cue) (hz : u.sched.narration.pending = some z) : u.isCandidate z = false := by
    rw [g.sched] at hz
    exact absurd (h.narration.symm.trans hz) nofun
  obtain ⟨pre, post, split⟩ := List.append_of_mem
    ((u.mem_candidates a).2 ⟨d, n, h.now_slot g, waits d h.waits, h.cls, h.origin⟩)
  have nodup := u.candidates_nodup
  rw [split] at nodup
  obtain ⟨-, later, apart⟩ := List.nodup_append.1 nodup
  have other (q : CueRef) (hq : q ∈ u.candidates) (hqa : q ≠ .slot a) : q = .slot i ∧ e.state = .waiting ∧
      ∃ o, u.sched.table[i] = some e ∧ e.cls ≠ .echo ∧ e.origin = .machine o := by
    obtain ⟨k, z, o, rfl, hz, cz, kz, oz⟩ := State.other_candidate narration hq
    have hz' := (g.slot k).symm.trans hz
    have wz := State.isCandidate_waiting cz
    split at hz'
    next hk =>
      have same : e = z := Option.some.inj hz'
      subst hk same
      exact ⟨rfl, wz, o, hz, kz, oz⟩
    next hk => exact absurd wz (h.others k z hz' (fun e => hqa (by rw [e])) hk)
  have first : pre = [] := by
    refine List.eq_nil_iff_forall_not_mem.2 fun q hq => ?_
    obtain ⟨rfl, we, o, he, ke, oe⟩ := other q (by rw [split]; simp [hq]) fun e => apart _ hq _ (by simp) e
    exact State.not_before split (h.now_slot g) he (waits d h.waits) (waits e we) h.cls ke h.origin oe (.inl (h.behind we).2) hq
  subst first
  refine ⟨post, split, fun q hq => ?_⟩
  obtain ⟨rfl, we, -⟩ := other q (by rw [split]; simp [hq]) fun e => (List.nodup_cons.1 later).1 (by rw [← e]; exact hq)
  exact ⟨rfl, we⟩

/-- The reserver's turn is the one that counts. -/
theorem State.Awaits.turn (hserve : u.serve (.slot a) = t) (hdue : t.sched.arbDue = u.sched.arbDue)
    (hfb : t.sched.feedback = u.sched.feedback) (hstill : e.state = .waiting → t.serve (.slot i) = t) : u.setArb.settleArb = t := by
  obtain ⟨post, split, after⟩ := h.candidates g
  refine State.settleArb_turn (pre := []) ?_ split (fun q hq => (List.not_mem_nil hq).elim) hserve (fun q hq => ?_) (hdue.trans ?_) ?_
  · rw [g.sched]
    exact h.due
  · obtain ⟨rfl, we⟩ := after q hq
    exact hstill we
  · rw [g.sched]
    exact h.due
  · rw [hfb, g.sched]
    exact h.feedback

/-- The cue that gave up the path waits while the reserver plays on it. -/
theorem State.Awaits.still {z : Cue} (hpath : t.sched.path.holder = some (.slot a)) (hz : t.sched.table[a] = some z)
    (hplay : z.state = .playing) (hrank : z.cls = d.cls) (hi : t.sched.table[i] = u.sched.table[i]) (hstore : t.store.state = .ok)
    (we : e.state = .waiting) : t.serve (.slot i) = t := by
  obtain ⟨speech, rank⟩ := h.behind we
  have slot : t.candidate? (.slot i) = some e := hi.trans ((g.slot i).trans (if_pos rfl))
  exact State.PathBlocked.still slot ⟨speech, hstore, .slot a, z, hpath, hz, .inr ⟨hplay, by rw [hrank]; omega⟩⟩

/-- With speech alone, its list beginning with a fragment, the reserver speaks. -/
theorem State.Awaits.speaks {frag : FragEntry} {rest : List UttEntry} (ht : d.tone = none)
    (hvoices : ∀ v : Fin 4, (s.sched.voices[v]).reservation ≠ some (.slot a))
    (hlist : (s.assembleItems (s.context n) items).entries = .fragment frag :: rest) :
    ∃ x : State, u.setArb.settleArb = x.streaming frag (.fragment frag :: rest) ∧
      x = { u with
        sched := { u.sched.withStart a
            { d.soundingAs true .main u.sched.nextStart with
              flags := { d.flags with isPartial := d.flags.isPartial || (s.assembleItems (s.context n) items).isPartial } } n with
          path := ⟨some (.slot a), none⟩ },
        utt := { entries := .fragment frag :: rest, owner := some (.slot a) },
        display := u.displayOfStart x } ∧
      x.RingChosen u.display.ringEffect ∧ frag.count ≠ 0 := by
  have list : u.assembleItems (u.context n) items = s.assembleItems (s.context n) items := by
    have context : u.context n = s.context n := congrArg (·.get n) g.ctx
    rw [context]
    exact State.assembleItems_congr (by rw [g.store]) (by rw [g.store]) _ _
  obtain ⟨x, served, eq, ring, hcount⟩ := State.serve_speaking (h.now_slot g) h.waits h.origin h.speech ht (by rw [g.store]; exact h.store)
    g.stream (by rw [list]; exact hlist) (by rw [g.sched]) (.inr (by rw [g.sched])) fun w => by rw [g.sched]; exact hvoices w
  rw [list] at eq
  refine ⟨x, h.turn g served (by rw [eq]; rfl) (by rw [eq]; rfl) fun we => ?_, eq, ring, hcount⟩
  obtain ⟨z, hz, playing, cls⟩ : ∃ z, x.sched.table[a] = some z ∧ z.state = .playing ∧ z.cls = d.cls := by
    rw [eq]
    exact ⟨_, (Vector.getElem_set_fin _ _ _ _).trans (if_pos rfl), rfl, rfl⟩
  refine h.still g (t := x.streaming frag (.fragment frag :: rest)) (by show x.sched.path.holder = _; rw [eq]) hz playing cls ?_ ?_ we
  · show x.sched.table[i] = _
    rw [eq]
    exact (Vector.getElem_set_fin _ _ _ _).trans (if_neg (Ne.symm h.apart))
  · show x.store.state = _
    rw [eq, g.store]
    exact h.store

/-- With a tone part too and its voice free, the reserver holds both. -/
theorem State.Awaits.sounds {part : TonePart} {frag : FragEntry} {rest : List UttEntry} (ht : d.tone = some part) (hv : v ≠ 0)
    (hown : s.sched.voices[v] = ⟨none, some (.slot a)⟩)
    (hvoices : ∀ w : Fin 4, w ≠ v → (s.sched.voices[w]).reservation ≠ some (.slot a))
    (hlist : (s.assembleItems (s.context n) items).entries = .fragment frag :: rest) :
    u.setArb.settleArb.sched.path = ⟨some (.slot a), none⟩ ∧
      u.setArb.settleArb.sched.voices = s.sched.voices.set v ⟨some (.slot a), none⟩ ∧
      ∃ z, u.setArb.settleArb.sched.table[a] = some z ∧ z.uid = d.uid ∧ z.state = .playing ∧
        z.phase = some (if part.timing = .before then .lead else .main) ∧ z.latestStart = s.sched.nextStart := by
  have list : u.assembleItems (u.context n) items = s.assembleItems (s.context n) items := by
    have context : u.context n = s.context n := congrArg (·.get n) g.ctx
    rw [context]
    exact State.assembleItems_congr (by rw [g.store]) (by rw [g.store]) _ _
  have asm : u.assemble d = s.assembleItems (s.context n) items := by
    rw [← list]
    simp only [State.assemble, State.assemblyContext, h.speech, h.origin, Option.getD_some]
  have need := h.needs g
  have path : u.sched.path = ⟨none, some (.slot a)⟩ := by rw [g.sched]
  have voices : u.sched.voices = s.sched.voices := by rw [g.sched]
  have own : u.sched.voices[v] = ⟨none, some (.slot a)⟩ := by rw [voices]; exact hown
  have others (w : Fin 4) (hw : w ≠ v) : (u.sched.voices[w]).reservation ≠ some (.slot a) := by rw [voices]; exact hvoices w hw
  have served := State.serve_available (r := .slot a) (h.now_slot g) h.waits
    (.inr (State.judgePath_available (r := .slot a) need (by rw [path]) (.inr (by rw [path]))))
    (.inr (State.judgeVoice_available (by rw [ht]; exact nofun) (State.availableVoice_reserved hv own others)))
  have give : (u.given (.slot a) (some v) d).dropReservations (.slot a) = { u with
      sched := { u.sched with path := ⟨some (.slot a), none⟩, voices := s.sched.voices.set v ⟨some (.slot a), none⟩ } } := by
    rw [State.given_eq, need, if_pos rfl]
    unfold State.dropReservations
    simp only [State.onSched]
    rw [voices_given (.inr own) others, path, voices, Resource.unreserve_own (.inr rfl)]
  obtain ⟨x, start, eq, -⟩ := State.startCue_slot (h.now_slot g) h.origin give
  rw [need, if_pos rfl, asm, hlist] at eq
  have record := State.startRecord_sounding need (Cue.started_twoPart (c := d) ht u.sched.nextStart u.now)
  obtain ⟨z, hz⟩ : ∃ z, z = u.startRecord d := ⟨_, rfl⟩
  rw [← hz] at eq record
  have begun : (u.serve (.slot a)).sched = x.sched := by
    rw [served, start, need, Cue.started_twoPart ht]
    exact State.beginFirstPhase_sched ht (by rw [eq]; exact List.cons_ne_nil _ _)
  have slot (k : Fin 24) : (u.serve (.slot a)).sched.table[k] = if k = a then some z else u.sched.table[k] := by
    rw [begun, eq]
    exact Vector.getElem_set_fin _ _ _ _
  have store := (u.serve_turns (.slot a) nofun).store.1
  have settled := h.turn g (t := u.serve (.slot a)) rfl (by rw [begun, eq]; rfl) (by rw [begun, eq]; rfl) fun we => by
    refine h.still g (z := z) (by rw [begun, eq]) ((slot a).trans (if_pos rfl)) (by rw [record]; rfl) (by rw [record]; rfl)
      ((slot i).trans (if_neg (Ne.symm h.apart))) ?_ we
    rw [store, g.store]
    exact h.store
  have serial : u.sched.nextStart = s.sched.nextStart := by rw [g.sched]
  rw [settled]
  refine ⟨by rw [begun, eq], by rw [begun, eq], z, (slot a).trans (if_pos rfl), ?_⟩
  rw [record, serial]
  exact ⟨rfl, rfl, rfl, rfl⟩

/-- While the voice reserved for it fades, and no other is to be had, the reserver waits on, its reservations kept. -/
theorem State.Awaits.keepsWaiting {q : CueRef} {z : Cue} (ht : d.tone ≠ none) (hv : v ≠ 0)
    (hown : s.sched.voices[v] = ⟨some q, some (.slot a)⟩) (hz : u.cue? q = some z) (hfade : z.state = .ending)
    (hvoices : ∀ w : Fin 4, w ≠ v → (s.sched.voices[w]).reservation ≠ some (.slot a))
    (hbusy : ∀ w : Fin 4, w ≠ 0 → s.sched.voices[w] ≠ ⟨none, none⟩) : u.setArb.settleArb = u := by
  have voices : u.sched.voices = s.sched.voices := by rw [g.sched]
  have table (w : Fin 4) (hw : w ∈ tableVoices) : w ≠ 0 := by rintro rfl; revert hw; decide
  have unavailable : u.availableVoice (.slot a) = none := by
    unfold State.availableVoice
    have noReserved : (tableVoices.find? fun w => (u.sched.voices[w]).holder.isNone && (u.sched.voices[w]).reservedFor (.slot a)) = none := by
      refine List.find?_eq_none.2 fun w _ => ?_
      rw [voices]
      by_cases e : w = v
      · rw [e, hown]
        exact nofun
      · rw [Resource.reservedFor, decide_eq_false (hvoices w e), Bool.and_false]
        exact Bool.false_ne_true
    rw [noReserved]
    refine List.find?_eq_none.2 fun w hw => ?_
    rw [voices]
    exact mt (Resource.free_iff _).1 (hbusy w (table w hw))
  have fading : u.reservedVoiceFading (.slot a) = true := by
    have mem (w : Fin 4) (hw : w ≠ 0) : w ∈ tableVoices := by revert w; decide
    refine List.any_eq_true.2 ⟨v, mem v hv, ?_⟩
    rw [voices, hown]
    simp [Resource.reservedFor, hz, hfade]
  have blocked : u.judgeVoice (.slot a) d = .blocked := by
    simp only [State.judgeVoice, Cue.needsVoice, Option.isSome_iff_ne_none.2 ht, Bool.true_eq_false, if_false, unavailable, fading, if_true]
  refine h.turn g (State.serve_blocked (h.now_slot g) (.inr blocked)) rfl rfl fun we => ?_
  obtain ⟨speech, -⟩ := h.behind we
  refine State.serve_blocked ((g.slot i).trans (if_pos rfl)) (.inl ?_)
  have need : u.needsPath e = true := State.needsPath_iff.2 ⟨speech, by rw [g.store]; exact h.store⟩
  have path : u.sched.path = ⟨none, some (.slot a)⟩ := by rw [g.sched]
  simp [State.judgePath, need, path, h.apart]

end awaits

/-! ### The path goes to its reserver at the end of the fade -/

/-- The cue of slot `a` speaks on the path that slot `i` of `s` gave up; `t` chooses the ring (R66, R118, R124). -/
def State.speaksOn (s u : State) (a : Fin 24) (d : Cue) (n : Side) (frag : FragEntry) (rest : List UttEntry) (part : Bool) (t : State) : State :=
  { u with
    sched := { u.sched.withStart a { d.soundingAs true .main s.sched.nextStart with
        flags := { d.flags with isPartial := d.flags.isPartial || part } } n with path := ⟨some (.slot a), none⟩ },
    utt := { entries := .fragment frag :: rest, owner := some (.slot a) },
    stream := { idleStream with state := .priming, threshold := min (utteranceData (.fragment frag :: rest)) 256 },
    store := { s.store with
      chanS := { active := true, index := 2, address := frag.start, count := frag.count },
      port := if s.store.port = .idle then .s else s.store.port },
    display := s.displayOfStart t }

/-- The port's owner when the utterance of one cue ends and that of the next begins. -/
theorem portUser_passes (p : PortUser) : (if (if p = .s then PortUser.idle else p) = .idle then PortUser.s else if p = .s then .idle else p) =
    if p = .idle then .s else p := by
  cases p <;> rfl

theorem State.Awaits.passes {items : List PhraseItem} {frag : FragEntry} {rest : List UttEntry} (h : s.Awaits i a d e n items)
    (g : s.GivesPath u i a e) (hdisplay : u.display = s.display) (ht : d.tone = none)
    (hvoices : ∀ v : Fin 4, (s.sched.voices[v]).reservation ≠ some (.slot a))
    (hlist : (s.assembleItems (s.context n) items).entries = .fragment frag :: rest) :
    ∃ x t : State, u.setArb.chooseRing.settleArb = x ∧ x.ports = t ∧ x.links = u.links ∧ x.sched.arbDue = false ∧
      t = s.speaksOn u a d n frag rest (s.assembleItems (s.context n) items).isPartial t ∧ t.RingChosen (s.display.ringBut a) := by
  obtain ⟨y, hy⟩ : ∃ y, y = u.chooseRing := ⟨_, rfl⟩
  have eq := u.chooseRing_eq
  rw [← hy] at eq
  have g' : s.GivesPath y i a e := by
    rw [eq]
    exact g.display
  have due : u.setArb.chooseRing = y.setArb := by
    rw [hy]
    rfl
  obtain ⟨x, settled, xeq, ring, hcount⟩ := h.speaks g' ht hvoices hlist
  have check : x.store.check = .idle := by
    rw [xeq, g'.store]
    exact h.check
  have ports := State.ports_streaming (f := frag) (es := .fragment frag :: rest) check hcount
  obtain ⟨t, ht'⟩ : ∃ t, t = (x.streaming frag (.fragment frag :: rest)).ports := ⟨_, rfl⟩
  have teq : t = { x.streaming frag (.fragment frag :: rest) with store := { (x.streaming frag (.fragment frag :: rest)).store with
      port := if x.store.port = .idle then .s else x.store.port } } := ht'.trans ports
  have xport : x.store = u.store := by
    rw [xeq, eq]
  refine ⟨_, t, due ▸ settled, ht'.symm, ?_, ?_, ?_, ?_⟩
  · show x.links = u.links
    rw [xeq, eq]
  · show x.sched.arbDue = false
    rw [xeq, g'.sched]
    exact h.due
  · have shown : x.display = s.displayOfStart t := by
      have same : t.display = x.display := by rw [teq]; rfl
      unfold State.displayOfStart
      rw [same, ← hdisplay, xeq, eq]
      rfl
    have sched : x.sched = { u.sched.withStart a { d.soundingAs true .main s.sched.nextStart with
        flags := { d.flags with isPartial := d.flags.isPartial || (s.assembleItems (s.context n) items).isPartial } } n with
          path := ⟨some (.slot a), none⟩ } := by
      have serial : y.sched.nextStart = s.sched.nextStart := by rw [g'.sched]
      rw [xeq, serial, eq]
    refine teq.trans ?_
    have port : (if x.store.port = .idle then PortUser.s else x.store.port) = if s.store.port = .idle then .s else s.store.port := by
      rw [xport, g.store]
      exact portUser_passes _
    rw [port]
    unfold State.speaksOn State.streaming
    rw [← shown, ← sched, xport, g.store, xeq, eq]
  · have again := State.chooseRing_again (t := x) (h.now_slot g) h.waits (fun j hj => ?_) (by rw [xeq, eq]) (hy ▸ ring)
    · rw [← hdisplay]
      rw [teq]
      exact again
    · rw [xeq, eq]
      exact (Vector.getElem_set_fin _ _ _ _).trans (if_neg hj)

/-! ### The fades -/

section fades

variable (hs : s.AtRest) (hc : s.sched.table[i] = some c) (hst : c.state = .ending) (hf : c.fade = some f) (hle : f.factor ≤ 16)
include hs hc hst hf hle

/-- A purged cue leaves its slot. -/
theorem exec_fadeTimerExpiry_purged (h : c.endCause = some .purged) :
    ∃ t, exec (.fadeTimerExpiry (.slot i)) s = .next t ∧ t.sched.table[i] = none := by
  have slot : ((s.freeResources (.slot i)).setCue (.slot i) none).sched.table[i] = none :=
    (State.setCue_table _ (.slot i) none i).trans (if_pos rfl)
  rw [exec_fadeTimerExpiry_ends hs (r := .slot i) hc hst hf hle, State.fadeResult_purged h]
  exact ⟨_, rfl, (State.chooseRing_settleSlot fun z hz => absurd (slot.symm.trans hz) nofun).trans slot⟩

/-- A cue that is reported stays so, whatever its end sets free. -/
theorem exec_fadeTimerExpiry_reported (ho : c.origin = .machine m) {o : CueOutcome} (h : c.fadeOutcome = some o) :
    ∃ t, exec (.fadeTimerExpiry (.slot i)) s = .next t ∧ t.sched.table[i] = some (c.toReporting o) := by
  have kept : (s.freeResources (.slot i)).sched.table[i] = some c := by
    rw [s.freeResources_table]
    exact hc
  have slot := State.enterReporting_slot kept ho o
  have passes : ((s.freeResources (.slot i)).enterReporting i o).PassesOver i := by
    intro z hz
    have same : c.toReporting o = z := Option.some.inj (slot.symm.trans hz)
    exact ⟨same ▸ nofun, same ▸ nofun, same ▸ rfl⟩
  rw [exec_fadeTimerExpiry_ends hs (r := .slot i) hc hst hf hle, State.fadeResult_reported h]
  exact ⟨_, rfl, (State.chooseRing_settleSlot passes).trans slot⟩

variable {items : List PhraseItem} (hpath : s.sched.path = ⟨some (.slot i), some (.slot a)⟩) (hvoice : s.voiceOf (.slot i) = none)
include hpath hvoice

/-- A cue that ends quietly is reported, and its path goes to the cue with speech alone that it is reserved for. -/
theorem exec_fadeTimerExpiry_handsPath (ho : c.origin = .machine m) (hq : s.EndsQuietly m i) {o : CueOutcome} (h : c.fadeOutcome = some o)
    {frag : FragEntry} {rest : List UttEntry} (w : s.Awaits i a d (c.toReporting o) n items) (ht : d.tone = none)
    (hvoices : ∀ v : Fin 4, (s.sched.voices[v]).reservation ≠ some (.slot a))
    (hlist : (s.assembleItems (s.context n) items).entries = .fragment frag :: rest) : ∃ t : State,
      exec (.fadeTimerExpiry (.slot i)) s = .next (t.onLink m fun l => l.sends (.done (s.doneReport m c o))) ∧
      t = s.speaksOn (s.reported i c m o) a d n frag rest (s.assembleItems (s.context n) items).isPartial t ∧
      t.RingChosen (s.display.ringBut a) := by
  obtain ⟨x, t, settled, ports, links, due, eq, ring⟩ := w.passes (.reported (c := c) (m := m) hpath o) rfl ht hvoices hlist
  rw [exec_fadeTimerExpiry_ends hs (r := .slot i) hc hst hf hle,
    State.fadeResult_quiet hc hvoice (.inl (congrArg (·.holder) hpath)) ho hq h]
  refine ⟨t, congrArg _ (State.settle_arb_report hs.2 settled due ports links), eq.trans ?_, ring⟩
  rw [State.freed_path hpath]
  rfl

/-- A preempted cue waits again, and its path goes to the cue with speech alone that it is reserved for. -/
theorem exec_fadeTimerExpiry_yieldsPath (h : c.endCause = some .preempted) (hd : c.deadlinePassed = false)
    {frag : FragEntry} {rest : List UttEntry} (w : s.Awaits i a d c.returned n items) (ht : d.tone = none)
    (hvoices : ∀ v : Fin 4, (s.sched.voices[v]).reservation ≠ some (.slot a))
    (hlist : (s.assembleItems (s.context n) items).entries = .fragment frag :: rest) : ∃ t : State,
      exec (.fadeTimerExpiry (.slot i)) s = .next t ∧
      t = s.speaksOn { s with sched := { s.sched with table := s.sched.table.set i (some c.returned) } } a d n frag rest
        (s.assembleItems (s.context n) items).isPartial t ∧
      t.RingChosen (s.display.ringBut a) := by
  obtain ⟨x, t, settled, ports, links, -, eq, ring⟩ := w.passes (.returned (c := c) hpath) rfl ht hvoices hlist
  rw [exec_fadeTimerExpiry_ends hs (r := .slot i) hc hst hf hle,
    State.fadeResult_waits hvoice (.inl (congrArg (·.holder) hpath)) h hd]
  have same : t.links = s.links := by
    rw [eq]
    rfl
  refine ⟨t, congrArg _ (State.settle_of_arb_ports hs.2 settled ports same), eq.trans ?_, ring⟩
  rw [State.freed_path hpath]
  rfl

/-- What a DISPLACED or a preempted holder of the path leaves to the arbitration. -/
theorem exec_fadeTimerExpiry_givesPath (ho : c.origin = .machine m)
    (h : (c.endCause = some .displaced ∧ s.EndsQuietly m i) ∨ (c.endCause = some .preempted ∧ c.deadlinePassed = false)) :
    ∃ (t y : State) (e : Cue), exec (.fadeTimerExpiry (.slot i)) s = .next t ∧ t.sched = y.setArb.settleArb.sched ∧ s.GivesPath y i a e ∧
      (e.state = .waiting → c.endCause = some .preempted ∧ e = c.returned) := by
  have held : s.sched.path.holder = some (.slot i) ∨ (none : Option (Fin 4)) ≠ none := .inl (congrArg (·.holder) hpath)
  have ends {u : State} {e : Cue} (result : (s.freeResources (.slot i)).fadeResult (.slot i) c = u.setArb) (g : s.GivesPath u i a e) :
      ∃ t y : State, exec (.fadeTimerExpiry (.slot i)) s = .next t ∧ t.sched = y.setArb.settleArb.sched ∧ s.GivesPath y i a e := by
    have due : u.setArb.chooseRing = u.chooseRing.setArb := rfl
    rw [exec_fadeTimerExpiry_ends hs (r := .slot i) hc hst hf hle, result, due]
    refine ⟨_, u.chooseRing, rfl, State.settle_sched _, ?_⟩
    rw [State.chooseRing_eq]
    exact g.display
  rcases h with ⟨h, hq⟩ | ⟨h, hd⟩
  · obtain ⟨t, y, exec_eq, sched, gives⟩ := ends
      (State.fadeResult_quiet hc hvoice held ho hq (o := .displaced) (by simp [Cue.fadeOutcome, h])) (.reported hpath .displaced)
    exact ⟨t, y, _, exec_eq, sched, gives, nofun⟩
  · obtain ⟨t, y, exec_eq, sched, gives⟩ := ends (State.fadeResult_waits hvoice held h hd) (.returned hpath)
    exact ⟨t, y, _, exec_eq, sched, gives, fun _ => ⟨h, rfl⟩⟩

end fades

/-- Settles O23. -/
theorem fadeRunsAndEnds : Obligations.FadeRunsAndEnds := by
  refine ⟨fun s r c f hs hc hst hf hgt => ?_, fun s i c m f hs hc ho hst hf hle => ⟨fun h => ?_, fun h => ?_,
    fun hpath hvoice h hq hnone hres hck hg hport => ?_⟩, fun s i a c x m n f items hs hc ho hst hf hle hpath hvoice hx hw hox hcls hsp hok hck
      hnp hfp hothers => ?_⟩
  · rw [exec_fadeTimerExpiry_up hs.1, State.fadeExpiry_ending hc hst hf, if_neg (by omega), State.settle_of_settled]
    cases r <;> exact hs.2
  · exact exec_fadeTimerExpiry_purged hs hc hst hf hle h
  · rcases h with h | h | ⟨h, hd⟩
    · rw [h]
      exact exec_fadeTimerExpiry_reported hs hc hst hf hle ho (by simp [Cue.fadeOutcome, h])
    · rw [h]
      exact exec_fadeTimerExpiry_reported hs hc hst hf hle ho (by simp [Cue.fadeOutcome, h])
    · rw [h]
      exact exec_fadeTimerExpiry_reported hs hc hst hf hle ho (by simp [Cue.fadeOutcome, h, hd])
  · obtain ⟨t, exec_eq, eq, ring⟩ := exec_fadeTimerExpiry_frees hs hc hst hf hle (o := .cancelled) ho (by simp [Cue.fadeOutcome, h]) hvoice
      (.inl hpath) hq hnone fun _ => ⟨hck, hg, hres⟩
    refine ⟨t, exec_eq, eq.trans ?_, ring⟩
    unfold State.freed
    simp only [hpath, if_true, hres, hport]
    rfl
  · intro back displaced returns
    have waits (e : Cue) (behind : e.state = .waiting → e.speech ≠ none ∧ x.cls.rank < e.cls.rank) : s.Awaits i a x e n items := by
      refine ⟨hs.2.1, hx, ?_, hw, hox, hcls, hsp, hok, hck, hnp, hfp, fun k z hz hk _ => hothers k z hz hk, behind⟩
      rintro rfl
      rw [hc] at hx
      cases hx
      exact absurd (hst.symm.trans hw) nofun
    have returned (e : Cue) (h : displaced ∨ returns) (he : c.endCause = some .preempted ∧ e = c.returned) :
        e.speech ≠ none ∧ x.cls.rank < e.cls.rank := by
      obtain ⟨cause, rfl⟩ := he
      rcases h with h | h
      · exact absurd (h.1.symm.trans cause) nofun
      · exact h.2.2
    refine ⟨fun g rest ht hvoices hlist => ⟨fun h => ?_, fun h => ?_⟩, fun v tone ht hva hv hvoices h => ⟨fun g rest hown hlist => ?_,
      fun q y hown hy hfade hbusy => ?_⟩⟩
    · exact exec_fadeTimerExpiry_handsPath hs hc hst hf hle hpath hvoice ho h.2 (by simp [Cue.fadeOutcome, h.1]) (waits _ nofun) ht hvoices hlist
    · obtain ⟨cause, late, speech, rank⟩ := h
      exact exec_fadeTimerExpiry_yieldsPath hs hc hst hf hle hpath hvoice cause late (waits _ fun _ => ⟨speech, rank⟩) ht hvoices hlist
    · obtain ⟨t, y, e, exec_eq, sched, gives, behind⟩ := exec_fadeTimerExpiry_givesPath hs hc hst hf hle hpath hvoice ho
        (h.imp id fun h => ⟨h.1, h.2.1⟩)
      have awaits := waits e fun we => returned e h (behind we)
      refine ⟨t, exec_eq, ?_⟩
      rw [sched]
      exact awaits.sounds gives ht hv hown hvoices hlist
    · obtain ⟨t, u, e, exec_eq, sched, gives, behind⟩ := exec_fadeTimerExpiry_givesPath hs hc hst hf hle hpath hvoice ho
        (h.imp id fun h => ⟨h.1, h.2.1⟩)
      have awaits := waits e fun we => returned e h (behind we)
      have far : q ≠ .slot i := by
        rintro rfl
        exact State.voiceOf_eq_none.1 hvoice v (by rw [hown])
      have fading : u.cue? q = some y := by
        match q, far, hy with
        | .slot k, far, hy => exact ((gives.slot k).trans (if_neg fun e => far (by rw [e]))).trans hy
        | .narration, _, hy => exact (congrArg (·.narration.current) gives.sched).trans hy
        | .feedback, _, hy => exact (congrArg (·.feedback.current) gives.sched).trans hy
      have still := awaits.keepsWaiting gives (by rw [ht]; exact nofun) hv hown fading hfade hvoices hbusy
      refine ⟨t, exec_eq, ?_⟩
      rw [sched, still]
      exact ⟨by rw [gives.sched], by rw [gives.sched], awaits.now_slot gives⟩

end Sys2Proof.Machine
end
